-- ==== Sys2Proof/Word.lean ====
section
/-! DEFINITION. The machine word, a value with its poison bit, and bit-field reads (R3, R53). -/

namespace Sys2Proof

/-- A 64-bit value (R38, R53). -/
abbrev Word := BitVec 64

/-- A byte (R3). -/
abbrev Byte := BitVec 8

/-- The six arithmetic flags in the layout of `PFLAG` (R63): SAT NV DZ OF UF NX in bits 5 to 0. -/
abbrev Flags := BitVec 6

/-- A 64-bit value with the poison bit that travels beside it (R53). -/
structure Val where
  v : Word
  p : Bool
deriving DecidableEq, Repr

/-- The value 0, unpoisoned. -/
def Val.zero : Val := { v := 0, p := false }

/-- An unpoisoned value. -/
def Val.clean (w : Word) : Val := { v := w, p := false }

/-- Bits [lo + len - 1 : lo] of `w` as a number. -/
def Word.bits (w : Word) (lo len : Nat) : Nat := (w.toNat >>> lo) % 2 ^ len

/-- Bit `i` of `w`. -/
def Word.bit (w : Word) (i : Nat) : Bool := w.getLsbD i

/-- The word holding the number `n` modulo 2^64. -/
def Word.ofN (n : Nat) : Word := BitVec.ofNat 64 n

end Sys2Proof
end

