-- ==== Sys2Proof/Syntax.lean ====
section
/-! DEFINITION. The instructions and steps of Sprinair 1.2 on the Q9: one constructor of `Instr` per row of
spec/opcode_table.json. The first 244 are instruction words (R38 to R51); the others are the device's own steps and the
acts of the host and of the outside world, which have no encoding. -/

namespace Sys2Proof

/-- The two forms of a word (R38). -/
inductive Form where
  | timed
  | block
deriving DecidableEq, Repr

/-- What stands in [63:52] and [7:5]: the firing cycle and stage, or the load-store identifier (R38, R45). -/
inductive Place where
  | timed (stamp : BitVec 12) (stg : BitVec 3)
  | block (lsid : BitVec 5)
deriving DecidableEq, Repr

def Place.form : Place → Form
  | .timed _ _ => .timed
  | .block _ => .block

/-- The fields every instruction carries: its place and its predicate (R38, R43). -/
structure Hd where
  place : Place
  ps : BitVec 3
  pn : Bool
deriving DecidableEq, Repr

/-- A source operand (R41). -/
inductive Src where
  | row (n : BitVec 8)
  | h (k : BitVec 3)
  | route (n : BitVec 3)
  | latch
  | north
  | east
  | south
  | west
  | konst (n : BitVec 2)
  | zero
  | side
deriving DecidableEq, Repr

/-- A destination (R41). No entry names `sb` as a destination, so there is no constructor for it. -/
inductive Dst where
  | row (n : BitVec 8)
  | h (k : BitVec 3)
  | route (n : BitVec 3)
  | latch
  | zero
deriving DecidableEq, Repr

/-- The eight destinations of a line load (R130): b(n) to b(n + 7), or o0 to o7. -/
inductive LineDst where
  | rows (n : BitVec 8)
  | routes
deriving DecidableEq, Repr

/-- The eight sources of a line store (R130): b(n) to b(n + 7), or i0 to i7. -/
inductive LineSrc where
  | rows (n : BitVec 8)
  | routes
deriving DecidableEq, Repr

/-- The value operand of `dqst` (R152). -/
inductive DqVal where
  | elem (s : Src) (sz : BitVec 2)
  | line (l : LineSrc)
deriving DecidableEq, Repr

/-- The tag of a ring operation (R139): an operand, or `Instance()`[31:0]. -/
inductive Tag where
  | op (s : Src)
  | inst
deriving DecidableEq, Repr

/-- Integer lane types, TY 0 to 6 (R17, R101). -/
inductive ITy where
  | s8 | s16 | s32 | s64 | n8 | n16 | n32
deriving DecidableEq, Repr

/-- Float lane types, TY 7 to 11 (R19, R101). -/
inductive FTy where
  | f16 | bf16 | f32 | e4m3 | e5m2
deriving DecidableEq, Repr

/-- A lane type (R101). -/
inductive Ty where
  | int (t : ITy)
  | flt (t : FTy)
deriving DecidableEq, Repr

/-- The three SBF formats (R25). -/
inductive Sbf where
  | sbf4 | sbf6 | sbf8
deriving DecidableEq, Repr

/-- Rounding modes in the order of R21. -/
inductive Rm where
  | rne | rtz | rdn | rup
deriving DecidableEq, Repr

/-- Conditions of `cmp`, `cmpi` and `vcmp` in the order of R96. -/
inductive Cond where
  | eq | ne | lt | le | gt | ge | ltu | leu | gtu | geu | tst | ntst
deriving DecidableEq, Repr

/-- Parity of a barrier operation (R359). -/
inductive Parity where
  | cur | even | odd
deriving DecidableEq, Repr

/-- Kinds of `fence` (R162). -/
inductive FenceKind where
  | acq | rel | acqrel
deriving DecidableEq, Repr

/-- Operations of `sred` (R205). -/
inductive SredOp where
  | add | min | max
deriving DecidableEq, Repr

/-- Element types of `sred` (R205: TY 2, 3 and 9). -/
inductive SredTy where
  | s32 | s64 | f32
deriving DecidableEq, Repr

/-- Operations of `ccred` (R400). -/
inductive CcOp where
  | fadd | fmin | fmax | iadd
deriving DecidableEq, Repr

/-- One constructor per row of spec/opcode_table.json, in its order. -/
inductive Instr where
  | nop (h : Hd)   -- R86
  | add (h : Hd) (d : Dst) (a : Src) (b : Src)   -- R86
  | addi (h : Hd) (d : Dst) (a : Src) (imm : BitVec 16)   -- R87
  | sub (h : Hd) (d : Dst) (a : Src) (b : Src)   -- R86
  | adc (h : Hd) (d : Dst) (a : Src) (b : Src) (cp : BitVec 3)   -- R90
  | sbb (h : Hd) (d : Dst) (a : Src) (b : Src) (cp : BitVec 3)   -- R90
  | mul (h : Hd) (d : Dst) (a : Src) (b : Src)   -- R86
  | mulh (h : Hd) (d : Dst) (a : Src) (b : Src)   -- R86
  | mulhu (h : Hd) (d : Dst) (a : Src) (b : Src)   -- R86
  | mad (h : Hd) (d : Dst) (a : Src) (b : Src) (c : Src)   -- R88
  | div (h : Hd) (d : Dst) (a : Src) (b : Src)   -- R89
  | divu (h : Hd) (d : Dst) (a : Src) (b : Src)   -- R89
  | rem (h : Hd) (d : Dst) (a : Src) (b : Src)   -- R89
  | remu (h : Hd) (d : Dst) (a : Src) (b : Src)   -- R89
  | min (h : Hd) (d : Dst) (a : Src) (b : Src)   -- R86
  | max (h : Hd) (d : Dst) (a : Src) (b : Src)   -- R86
  | minu (h : Hd) (d : Dst) (a : Src) (b : Src)   -- R86
  | maxu (h : Hd) (d : Dst) (a : Src) (b : Src)   -- R86
  | abs (h : Hd) (d : Dst) (a : Src)   -- R86
  | and (h : Hd) (d : Dst) (a : Src) (b : Src)   -- R86
  | andi (h : Hd) (d : Dst) (a : Src) (imm : BitVec 16)   -- R87
  | or (h : Hd) (d : Dst) (a : Src) (b : Src)   -- R86
  | ori (h : Hd) (d : Dst) (a : Src) (imm : BitVec 16)   -- R87
  | xor (h : Hd) (d : Dst) (a : Src) (b : Src)   -- R86
  | xori (h : Hd) (d : Dst) (a : Src) (imm : BitVec 16)   -- R87
  | andn (h : Hd) (d : Dst) (a : Src) (b : Src)   -- R86
  | shl (h : Hd) (d : Dst) (a : Src) (b : Src)   -- R86
  | shli (h : Hd) (d : Dst) (a : Src) (imm : BitVec 6)   -- R87
  | shr (h : Hd) (d : Dst) (a : Src) (b : Src)   -- R86
  | shri (h : Hd) (d : Dst) (a : Src) (imm : BitVec 6)   -- R87
  | sar (h : Hd) (d : Dst) (a : Src) (b : Src)   -- R86
  | sari (h : Hd) (d : Dst) (a : Src) (imm : BitVec 6)   -- R87
  | rol (h : Hd) (d : Dst) (a : Src) (b : Src)   -- R86
  | clz (h : Hd) (d : Dst) (a : Src)   -- R86
  | ctz (h : Hd) (d : Dst) (a : Src)   -- R86
  | popc (h : Hd) (d : Dst) (a : Src)   -- R86
  | brev (h : Hd) (d : Dst) (a : Src)   -- R86
  | bfx (h : Hd) (d : Dst) (a : Src) (b : Src)   -- R91
  | bfi (h : Hd) (d : Dst) (a : Src) (b : Src) (c : Src)   -- R91
  | sext (h : Hd) (d : Dst) (a : Src) (w : BitVec 2)   -- R91
  | zext (h : Hd) (d : Dst) (a : Src) (w : BitVec 2)   -- R91
  | movh (h : Hd) (d : Dst) (imm : BitVec 16)   -- R92
  | movi (h : Hd) (d : Dst) (imm : BitVec 16)   -- R92
  | movk (h : Hd) (d : Dst) (a : Src) (imm : BitVec 16) (j : BitVec 2)   -- R92
  | addsat (h : Hd) (d : Dst) (a : Src) (b : Src) (ty : ITy)   -- R93
  | subsat (h : Hd) (d : Dst) (a : Src) (b : Src) (ty : ITy)   -- R93
  | cbrng (h : Hd) (d : Dst) (a : Src) (b : Src)   -- R94
  | crc (h : Hd) (d : Dst) (a : Src) (b : Src) (n : BitVec 2)   -- R95
  | cmp (h : Hd) (pd : BitVec 3) (a : Src) (b : Src) (cond : Cond)   -- R96
  | cmpi (h : Hd) (pd : BitVec 3) (a : Src) (imm : BitVec 16) (cond : Cond)   -- R96
  | plog (h : Hd) (pd : BitVec 3) (pa : BitVec 3) (pb : BitVec 3) (f : BitVec 4)   -- R97
  | pmovGet (h : Hd) (d : Dst)   -- R98
  | pmovPut (h : Hd) (a : Src)   -- R98
  | sel (h : Hd) (d : Dst) (a : Src) (b : Src) (neg : Bool) (p : BitVec 3)   -- R99
  | mov (h : Hd) (d : Dst) (a : Src)   -- R79
  | kget (h : Hd) (d : Dst) (n : BitVec 4) (j : BitVec 2)   -- R80
  | getid (h : Hd) (d : Dst) (id : BitVec 4)   -- R81
  | pcnt (h : Hd) (d : Dst) (a : Src) (b : Src)   -- R100
  | vadd (h : Hd) (d : Dst) (a : Src) (b : Src) (ty : Ty) (x : Bool)   -- R102
  | vsub (h : Hd) (d : Dst) (a : Src) (b : Src) (ty : Ty) (x : Bool)   -- R102
  | vmul (h : Hd) (d : Dst) (a : Src) (b : Src) (ty : Ty) (x : Bool)   -- R102
  | vfma (h : Hd) (d : Dst) (a : Src) (b : Src) (c : Src) (ty : FTy) (x : Bool)   -- R102
  | vfms (h : Hd) (d : Dst) (a : Src) (b : Src) (c : Src) (ty : FTy) (x : Bool)   -- R102
  | vfnma (h : Hd) (d : Dst) (a : Src) (b : Src) (c : Src) (ty : FTy) (x : Bool)   -- R102
  | vmin (h : Hd) (d : Dst) (a : Src) (b : Src) (ty : Ty)   -- R103
  | vmax (h : Hd) (d : Dst) (a : Src) (b : Src) (ty : Ty)   -- R103
  | vabs (h : Hd) (d : Dst) (a : Src) (ty : Ty) (x : Bool)   -- R102
  | vneg (h : Hd) (d : Dst) (a : Src) (ty : Ty) (x : Bool)   -- R102
  | vcmp (h : Hd) (d : Dst) (a : Src) (b : Src) (cond : Cond) (ty : Ty)   -- R104
  | vsel (h : Hd) (d : Dst) (a : Src) (b : Src) (c : Src) (ty : Ty)   -- R105
  | vdiv (h : Hd) (d : Dst) (a : Src) (b : Src) (ty : FTy) (x : Bool)   -- R102
  | vsqrt (h : Hd) (d : Dst) (a : Src) (ty : FTy) (x : Bool)   -- R102
  | vrcp (h : Hd) (d : Dst) (a : Src) (ty : FTy) (x : Bool)   -- R24
  | vrsq (h : Hd) (d : Dst) (a : Src) (ty : FTy) (x : Bool)   -- R24
  | vexp2 (h : Hd) (d : Dst) (a : Src) (ty : FTy) (x : Bool)   -- R24
  | vlog2 (h : Hd) (d : Dst) (a : Src) (ty : FTy) (x : Bool)   -- R24
  | vtanh (h : Hd) (d : Dst) (a : Src) (ty : FTy) (x : Bool)   -- R24
  | vscale (h : Hd) (d : Dst) (a : Src) (b : Src) (ty : FTy) (x : Bool)   -- R102
  | vclamp (h : Hd) (d : Dst) (a : Src) (b : Src) (c : Src) (ty : Ty)   -- R103
  | vsum (h : Hd) (d : Dst) (a : Src) (ty : Ty) (x : Bool)   -- R111
  | vmaxh (h : Hd) (d : Dst) (a : Src) (ty : Ty)   -- R111
  | vdot (h : Hd) (d : Dst) (a : Src) (b : Src) (c : Src) (ty : Ty) (x : Bool)   -- R111
  | vshuf (h : Hd) (d : Dst) (a : Src) (b : Src) (c : Src) (ty : Ty)   -- R105
  | vpack (h : Hd) (d : Dst) (a : Src) (b : Src) (ty : ITy) (x : Bool)   -- R106
  | vunpk (h : Hd) (d : Dst) (a : Src) (hi : Bool) (ty : Ty)   -- R106
  | vbcast (h : Hd) (d : Dst) (a : Src) (j : BitVec 3) (ty : Ty)   -- R105
  | vins (h : Hd) (d : Dst) (a : Src) (b : Src) (j : BitVec 3) (ty : Ty)   -- R105
  | vext (h : Hd) (d : Dst) (a : Src) (j : BitVec 3) (ty : Ty)   -- R105
  | vcvt (h : Hd) (d : Dst) (a : Src) (dst : Ty) (ty : Ty) (x : Bool)   -- R107
  | vrnd (h : Hd) (d : Dst) (a : Src) (mode : BitVec 3) (ty : FTy)   -- R108
  | vand (h : Hd) (d : Dst) (a : Src) (b : Src) (ty : Ty)   -- R102
  | vor (h : Hd) (d : Dst) (a : Src) (b : Src) (ty : Ty)   -- R102
  | vxor (h : Hd) (d : Dst) (a : Src) (b : Src) (ty : Ty)   -- R102
  | vshl (h : Hd) (d : Dst) (a : Src) (b : Src) (ty : ITy)   -- R102
  | vshr (h : Hd) (d : Dst) (a : Src) (b : Src) (ty : ITy)   -- R102
  | vsar (h : Hd) (d : Dst) (a : Src) (b : Src) (ty : ITy)   -- R102
  | vmulh (h : Hd) (d : Dst) (a : Src) (b : Src) (ty : ITy)   -- R102
  | vavg (h : Hd) (d : Dst) (a : Src) (b : Src) (ty : ITy)   -- R102
  | vclass (h : Hd) (d : Dst) (a : Src) (ty : FTy)   -- R109
  | vcpsgn (h : Hd) (d : Dst) (a : Src) (b : Src) (ty : FTy)   -- R102
  | vmad (h : Hd) (d : Dst) (a : Src) (b : Src) (c : Src) (ty : ITy) (x : Bool)   -- R102
  | vsatn (h : Hd) (d : Dst) (a : Src) (n : BitVec 8) (ty : ITy)   -- R110
  | vminh (h : Hd) (d : Dst) (a : Src) (ty : Ty)   -- R111
  | vsumw (h : Hd) (d : Dst) (a : Src) (ty : Ty) (x : Bool)   -- R111
  | bexp (h : Hd) (d : Dst) (a : Src) (sf : Sbf) (ty : FTy) (x : Bool)   -- R112
  | benc (h : Hd) (d : Dst) (a : Src) (b : Src) (sf : Sbf) (ty : FTy) (x : Bool)   -- R113
  | bdec (h : Hd) (d : Dst) (a : Src) (b : Src) (sf : Sbf) (ty : FTy) (x : Bool)   -- R114
  | scput (h : Hd) (o : BitVec 3) (a : Src) (b : Src) (f32 : Bool)   -- R115
  | scget (h : Hd) (d : Dst) (i : BitVec 3) (f32 : Bool)   -- R116
  | scpair (h : Hd) (d : Dst) (i : BitVec 3) (b : Src)   -- R117
  | hdrw (h : Hd) (d : Dst) (a : Src) (b : Src)   -- R118
  | hdrrFmt (h : Hd) (d : Dst) (a : Src)   -- R118
  | hdrrScale (h : Hd) (d : Dst) (a : Src)   -- R118
  | ld (h : Hd) (d : Dst) (a : Src) (col : Bool) (sz : BitVec 2) (sx : Bool)   -- R131
  | st (h : Hd) (a : Src) (b : Src) (col : Bool) (sz : BitVec 2)   -- R131
  | ldl (h : Hd) (d : LineDst) (a : Src) (col : Bool)   -- R132
  | stl (h : Hd) (a : Src) (b : LineSrc) (col : Bool)   -- R132
  | ldt (h : Hd) (d : LineDst) (a : Src) (col : Bool) (half : Bool)   -- R123
  | ldx (h : Hd) (d : Dst) (a : Src) (b : Src) (col : Bool) (sz : BitVec 2) (sx : Bool)   -- R131
  | stx (h : Hd) (v : Src) (a : Src) (b : Src) (col : Bool) (sz : BitVec 2)   -- R131
  | ldp (h : Hd) (d : Dst) (a : Src) (sz : BitVec 2) (sx : Bool)   -- R149
  | stp (h : Hd) (a : Src) (b : Src) (sz : BitVec 2)   -- R149
  | pldx (h : Hd) (d : Dst) (a : Src) (b : Src) (sz : BitVec 2) (sx : Bool)   -- R149
  | pstx (h : Hd) (v : Src) (a : Src) (b : Src) (sz : BitVec 2)   -- R149
  | dqld (h : Hd) (a : Src) (sz : BitVec 2) (line : Bool) (q : BitVec 2)   -- R152
  | dqst (h : Hd) (a : Src) (b : DqVal) (scp : BitVec 3) (q : BitVec 2)   -- R152
  | dqpop (h : Hd) (d : Dst) (q : BitVec 2)   -- R152
  | dqwt (h : Hd) (q : BitVec 2)   -- R152
  | vld (h : Hd) (d : Dst) (a : Src) (b : Src) (scp : BitVec 3)   -- R166
  | vst (h : Hd) (d : Dst) (a : Src) (b : Src) (scp : BitVec 3)   -- R166
  | vrcl (h : Hd) (a : Src) (b : Src) (scp : BitVec 3)   -- R166
  | agcfg (h : Hd) (a : Src) (b : Src)   -- R136
  | agstart (h : Hd) (a : Src) (b : Src)   -- R136
  | ageos (h : Hd) (a : Src)   -- R136
  | qtkt (h : Hd) (d : Dst) (a : Src) (t : Tag)   -- R139
  | qpush (h : Hd) (a : Src) (b : Src) (t : Tag) (scp : BitVec 2)   -- R139
  | qpop (h : Hd) (d : Dst) (a : Src) (scp : BitVec 2)   -- R139
  | qcnt (h : Hd) (d : Dst) (a : Src)   -- R139
  | aadd (h : Hd) (d : Dst) (a : Src) (b : Src) (w64 : Bool) (scp : BitVec 2) (st : BitVec 3)   -- R142
  | amin (h : Hd) (d : Dst) (a : Src) (b : Src) (w64 : Bool) (scp : BitVec 2) (st : BitVec 3)   -- R142
  | amax (h : Hd) (d : Dst) (a : Src) (b : Src) (w64 : Bool) (scp : BitVec 2) (st : BitVec 3)   -- R142
  | aminu (h : Hd) (d : Dst) (a : Src) (b : Src) (w64 : Bool) (scp : BitVec 2) (st : BitVec 3)   -- R142
  | amaxu (h : Hd) (d : Dst) (a : Src) (b : Src) (w64 : Bool) (scp : BitVec 2) (st : BitVec 3)   -- R142
  | aand (h : Hd) (d : Dst) (a : Src) (b : Src) (w64 : Bool) (scp : BitVec 2) (st : BitVec 3)   -- R142
  | aor (h : Hd) (d : Dst) (a : Src) (b : Src) (w64 : Bool) (scp : BitVec 2) (st : BitVec 3)   -- R142
  | axor (h : Hd) (d : Dst) (a : Src) (b : Src) (w64 : Bool) (scp : BitVec 2) (st : BitVec 3)   -- R142
  | aswp (h : Hd) (d : Dst) (a : Src) (b : Src) (w64 : Bool) (scp : BitVec 2) (st : BitVec 3)   -- R142
  | acas (h : Hd) (d : Dst) (a : Src) (b : Src) (w64 : Bool) (scp : BitVec 2) (st : BitVec 3)   -- R142
  | afadd (h : Hd) (d : Dst) (a : Src) (b : Src) (scp : BitVec 2) (st : BitVec 3) (x : Bool)   -- R142
  | ainc (h : Hd) (d : Dst) (a : Src) (b : Src) (w64 : Bool) (scp : BitVec 2) (st : BitVec 3)   -- R142
  | adec (h : Hd) (d : Dst) (a : Src) (b : Src) (w64 : Bool) (scp : BitVec 2) (st : BitVec 3)   -- R142
  | redadd (h : Hd) (a : Src) (b : Src) (w64 : Bool) (scp : BitVec 2) (st : BitVec 3)   -- R142
  | redfadd (h : Hd) (a : Src) (b : Src) (scp : BitVec 2) (st : BitVec 3) (x : Bool)   -- R142
  | redmax (h : Hd) (a : Src) (b : Src) (w64 : Bool) (scp : BitVec 2) (st : BitVec 3)   -- R142
  | barinit (h : Hd) (a : Src) (b : Src)   -- R360
  | barexp (h : Hd) (d : Dst) (a : Src) (b : Src) (scp : BitVec 2) (par : Parity)   -- R361
  | bararr (h : Hd) (d : Dst) (a : Src) (b : Src) (scp : BitVec 2) (par : Parity)   -- R361
  | barwt (h : Hd) (d : Dst) (a : Src) (b : Src) (scp : BitVec 2)   -- R362
  | bartst (h : Hd) (d : Dst) (a : Src) (sel : BitVec 2)   -- R363
  | tlsig (h : Hd) (a : Src) (b : Src) (scp : BitVec 3)   -- R164
  | tlwt (h : Hd) (a : Src) (b : Src) (scp : BitVec 3)   -- R164
  | tlrd (h : Hd) (d : Dst) (a : Src)   -- R164
  | fence (h : Hd) (scp : BitVec 3) (kind : FenceKind)   -- R162
  | drain (h : Hd)   -- R236
  | wtick (h : Hd) (d : Dst) (a : Src) (imm : BitVec 16)   -- R292
  | wtickRel (h : Hd) (d : Dst) (imm : BitVec 16)   -- R292
  | powq (h : Hd) (d : Dst) (a : Src)   -- R293
  | powqWait (h : Hd) (d : Dst) (a : Src)   -- R293
  | powrl (h : Hd) (a : Src)   -- R293
  | futwt (h : Hd) (d : Dst) (a : Src) (b : Src)   -- R310
  | futset (h : Hd) (d : Dst) (a : Src) (b : Src)   -- R311
  | futsetClr (h : Hd) (d : Dst) (a : Src)   -- R311
  | yield (h : Hd) (a : Src)   -- R261
  | mxselAcq (h : Hd) (d : Dst) (a : Src)   -- R189
  | mxselRel (h : Hd) (d : Dst) (a : Src)   -- R189
  | mxldb (h : Hd) (d : Dst) (a : Src) (b : Src)   -- R190
  | mxswb (h : Hd) (d : Dst) (a : Src)   -- R190
  | mxzero (h : Hd) (d : Dst) (a : Src) (b : Src)   -- R190
  | mxmacChan (h : Hd) (d : Dst) (a : Src) (b : Src)   -- R191
  | mxmacStore (h : Hd) (d : Dst) (a : Src) (b : Src)   -- R191
  | mxmacFill (h : Hd) (d : Dst) (a : Src) (b : Src) (c : Src)   -- R191
  | mxmacPfill (h : Hd) (d : Dst) (a : Src) (b : Src) (c : Src)   -- R191
  | mxsc (h : Hd) (d : Dst) (a : Src) (b : Src) (c : Src) (isB : Bool)   -- R190
  | mxdrn (h : Hd) (d : Dst) (a : Src) (b : Src) (clr : Bool) (x : Bool)   -- R192
  | mxacc (h : Hd) (d : Dst) (a : Src) (b : Src)   -- R190
  | mxsave (h : Hd) (d : Dst) (a : Src) (b : Src)   -- R193
  | mxrest (h : Hd) (d : Dst) (a : Src) (b : Src)   -- R193
  | mxst (h : Hd) (d : Dst) (a : Src) (b : Src) (c : Src) (clr : Bool) (x : Bool)   -- R192
  | mxcolRd (h : Hd) (d : Dst) (a : Src) (b : Src)   -- R194
  | mxcolRet (h : Hd) (d : Dst) (a : Src) (b : Src)   -- R194
  | mxwst (h : Hd) (d : Dst) (a : Src) (b : Src)   -- R190
  | mxfmt (h : Hd) (d : Dst) (a : Src) (b : Src)   -- R190
  | mxpeekAcc (h : Hd) (d : Dst) (a : Src) (b : Src)   -- R195
  | mxpeekSt (h : Hd) (d : Dst) (a : Src)   -- R195
  | mxpeekTa (h : Hd) (d : Dst) (a : Src) (b : Src)   -- R195
  | mxpeekTb (h : Hd) (d : Dst) (a : Src) (b : Src)   -- R195
  | sbind (h : Hd) (a : Src) (b : Src) (c : Src)   -- R206
  | scpy (h : Hd) (d : Dst) (a : Src) (b : Src)   -- R207
  | scpyChk (h : Hd) (d : Dst) (a : Src) (b : Src) (c : Src)   -- R208
  | sgat (h : Hd) (d : Dst) (a : Src)   -- R209
  | ssct (h : Hd) (d : Dst) (a : Src)   -- R209
  | sred (h : Hd) (d : Dst) (a : Src) (op : SredOp) (ty : SredTy) (x : Bool)   -- R210
  | sfill (h : Hd) (d : Dst) (a : Src) (b : Src)   -- R210
  | scvt (h : Hd) (d : Dst) (a : Src) (b : Src) (c : Src) (x : Bool)   -- R211
  | scan (h : Hd) (d : Dst) (a : Src) (b : Src)   -- R210
  | sst (h : Hd) (d : Dst) (a : Src)   -- R213
  | sstFlags (h : Hd) (d : Dst) (a : Src)   -- R213
  | spat (h : Hd) (a : Src) (b : Src)   -- R206
  | ccred (h : Hd) (d : Dst) (a : Src) (b : Src) (op : CcOp)   -- R397
  | ccbc (h : Hd) (d : Dst) (a : Src) (b : Src)   -- R402
  | ccag (h : Hd) (d : Dst) (a : Src) (b : Src)   -- R402
  | ccsend (h : Hd) (d : Dst) (a : Src) (b : Src) (c : Src)   -- R403
  | ccrecv (h : Hd) (d : Dst) (a : Src) (b : Src) (c : Src)   -- R403
  | ccbar (h : Hd) (d : Dst) (a : Src) (b : Src)   -- R366
  | br (h : Hd) (imm : BitVec 16)   -- R261
  | exit (h : Hd) (a : Src)   -- R262
  | nulSt (h : Hd) (m : BitVec 32)   -- R263
  | nulH (h : Hd) (m : BitVec 32)   -- R263
  | jpost (h : Hd) (d : Dst) (a : Src) (b : Src)   -- R264
  | jwait (h : Hd) (a : Src) (b : Src)   -- R265
  | launch (h : Hd) (d : Dst) (a : Src) (b : Src) (c : Src) (st : BitVec 3)   -- R233
  | launchSeq (h : Hd) (d : Dst) (a : Src) (c : Src) (st : BitVec 3)   -- R227
  | cancel (h : Hd) (d : Dst) (a : Src) (rel : Bool) (level : BitVec 2)   -- R234
  | cmpl (h : Hd) (d : Dst) (a : Src) (level : BitVec 2)   -- R235
  | cmplWait (h : Hd) (d : Dst) (a : Src) (level : BitVec 2)   -- R235
  | gfork (h : Hd) (d : Dst) (a : Src) (b : Src) (c : Src)   -- R372
  | grew (h : Hd) (d : Dst) (a : Src) (b : Src) (c : Src)   -- R380
  | gbar (h : Hd) (d : Dst) (a : Src)   -- R381
  | gadv (h : Hd) (d : Dst) (a : Src) (b : Src)   -- R381
  | gcan (h : Hd) (d : Dst) (a : Src) (b : Src)   -- R382
  | gcanAll (h : Hd) (d : Dst) (a : Src)   -- R382
  | gst (h : Hd) (d : Dst) (a : Src)   -- R383
  | bcall (h : Hd) (d : BitVec 3) (imm : BitVec 16)   -- R261
  | bret (h : Hd) (a : Src)   -- R261
  | trap (h : Hd) (a : Src) (code : BitVec 8)   -- R412
  | brk (h : Hd) (imm : BitVec 16)   -- R413
  | csrr (h : Hd) (d : Dst) (num : BitVec 16)   -- R414
  | csrw (h : Hd) (a : Src) (num : BitVec 16)   -- R414
  | halt (h : Hd) (a : Src)   -- R238
  | trace (h : Hd) (a : Src) (imm : BitVec 16)   -- R424
  | cfginv (h : Hd) (a : Src)   -- R237
  | cfginvAll (h : Hd)   -- R237
  | stestRun (h : Hd) (d : Dst) (a : Src)   -- R433
  | stestSt (h : Hd) (d : Dst) (a : Src)   -- R433
  | blockFetchMap (task : Nat)   -- R47
  | blockCommit (task : Nat)   -- R246
  | taskDispatch (die : Nat) (tile : Nat)   -- R256
  | timeSliceExpiry (task : Nat)   -- R256
  | cardFinish (ctx : Nat) (card : Word)   -- R254
  | externalResultArrival (tile : Nat)   -- R66
  | scratchAccessPerformed (tile : Nat)   -- R127
  | dRequestPerformed (tile : Nat) (chan : Nat)   -- R151
  | arbiterSlotStart (die : Nat) (chan : Nat)   -- R155
  | matrixCommandStart (isl : Nat) (path : Nat)   -- R175
  | matrixCommandComplete (isl : Nat) (num : Nat)   -- R175
  | matrixRowUpdate (isl : Nat)   -- R182
  | residueMismatch (isl : Nat) (col : Nat)   -- R184
  | streamCommandStart (isl : Nat)   -- R202
  | streamBurst (isl : Nat)   -- R202
  | streamCommandComplete (isl : Nat)   -- R202
  | ingressFrameReceived (port : Nat) (etype : Nat) (payload : List Byte) (fcsOk : Bool)   -- R212
  | placementGrant (die : Nat)   -- R296
  | configCompleteWave (ctx : Nat) (handle : Nat)   -- R224
  | drainToken (ctx : Nat) (handle : Nat)   -- R225
  | quiescenceReport (ctx : Nat) (handle : Nat)   -- R225
  | allocatorHeadTimeout (die : Nat) (prio : Nat)   -- R319
  | regionMove (ctx : Nat) (handle : Nat) (px : Nat) (py : Nat)   -- R299
  | tickBoundary   -- R269
  | timebaseLockLoss   -- R266
  | tableArmedStart (die : Nat) (slot : Nat)   -- R278
  | laneReclaimStart (die : Nat) (slot : Nat) (entry : Nat)   -- R287
  | tableEntryStart (die : Nat) (slot : Nat) (entry : Nat)   -- R280
  | tableDeadlineOverrun (die : Nat) (slot : Nat) (entry : Nat)   -- R281
  | fallbackBudgetEnd (die : Nat) (slot : Nat) (entry : Nat)   -- R282
  | modeChangePoint (die : Nat) (slot : Nat)   -- R284
  | drainLimitExpiry (ctx : Nat)   -- R333
  | saveLimitExpiry (ctx : Nat)   -- R333
  | contextSaveComplete (ctx : Nat)   -- R340
  | contextRestoreComplete (ctx : Nat)   -- R349
  | contextTeardownComplete (ctx : Nat)   -- R350
  | publicationTimeout (q : Nat)   -- R323
  | queueSlotGrant (q : Nat)   -- R321
  | demotedQueueCheck (q : Nat)   -- R321
  | stallDetected (ctx : Nat)   -- R335
  | waitConditionMet (q : Nat)   -- R316
  | nopPacket (q : Nat)   -- R326
  | launchPacket (q : Nat)   -- R326
  | deltaPacket (q : Nat)   -- R327
  | copyPacket (q : Nat)   -- R326
  | waitPacket (q : Nat)   -- R326
  | signalPacket (q : Nat)   -- R326
  | fencePacket (q : Nat)   -- R326
  | tableInstall (q : Nat)   -- R277
  | tableStart (q : Nat)   -- R278
  | tableSwitch (q : Nat)   -- R285
  | tableAcknowledge (q : Nat)   -- R283
  | tableRemove (q : Nat)   -- R277
  | modePrio (q : Nat)   -- R326
  | modePause (q : Nat)   -- R326
  | modePubto (q : Nat)   -- R326
  | modeReslim (q : Nat)   -- R326
  | graphPacket (q : Nat)   -- R326
  | debugAttach (q : Nat)   -- R336
  | debugDetach (q : Nat)   -- R336
  | debugHalt (q : Nat)   -- R416
  | debugResume (q : Nat)   -- R416
  | debugReadState (q : Nat)   -- R417
  | debugWriteState (q : Nat)   -- R417
  | debugSetBreakpoint (q : Nat)   -- R418
  | debugClearBreakpoint (q : Nat)   -- R418
  | cancelPacket (q : Nat)   -- R326
  | qctlEnable (q : Nat)   -- R316
  | qctlDisable (q : Nat)   -- R316
  | qctlRestart (q : Nat) (clrsh : Bool) (host : Bool)   -- R329
  | qctlResume (q : Nat)   -- R316
  | qctlDoorbell (q : Nat)   -- R321
  | ctxctlCreate (ctx : Nat) (map : Nat)   -- R340
  | ctxctlSave (ctx : Nat)   -- R333
  | ctxctlRestore (ctx : Nat) (map : Nat)   -- R349
  | ctxctlTeardown (ctx : Nat)   -- R350
  | ctxsaveWrite (ctx : Nat) (w : Word)   -- R339
  | tbctlSettime   -- R268
  | tbctlStart   -- R268
  | tbadjWrite (w : Word)   -- R266
  | cfginvCsrWrite (w : Word)   -- R217
  | cfgInvalidationPerformed   -- R217
  | vminvWrite (w : Word)   -- R305
  | vmInvalidationPerformed   -- R305
  | futsetCsrWrite (w : Word)   -- R308
  | pgretireWrite (w : Word)   -- R300
  | expoolWrite (die : Nat) (w : Word)   -- R239
  | chretireWrite (die : Nat) (w : Word)   -- R436
  | channelMigrationDone (die : Nat)   -- R436
  | attctlGo (w : Word)   -- R428
  | quoteComplete   -- R428
  | peercfgWrite (w : Word)   -- R394
  | shadowWrite (die : Nat) (w : Word)   -- R342
  | cfgcacheWrite (die : Nat) (w : Word)   -- R430
  | leaveBudgetWrite (die : Nat) (num : Nat) (w : Word)   -- R290
  | tlclrWrite (ctx : Nat) (w : Word)   -- R365
  | ingressChannelWrite (n : Nat) (w : Word)   -- R212
  | histcfgWrite (die : Nat) (i : Nat) (w : Word)   -- R422
  | trcctlWrite (die : Nat) (w : Word)   -- R423
  | evidxWrite (w : Word)   -- R331
  | csrWriteOther (die : Nat) (ctx : Nat) (num : Nat) (w : Word)   -- R414
  | hostCsrAccess (pa : Nat) (len : Nat) (write : Bool) (w : Word)   -- R430
  | groupDeadline (desc : Nat)   -- R371
  | groupCollection (desc : Nat)   -- R374
  | ccbarTimeout (die : Nat) (num : Nat) (ctx : Nat)   -- R367
  | collectiveComplete (die : Nat)   -- R399
  | flitReceived (link : Nat) (pos : Nat) (head : Word) (body : List Word) (crcOk : Bool)   -- R386
  | linkTrainingDone (link : Nat) (ver : Nat) (optOk : Bool) (posOk : Bool) (mods : Nat)   -- R390
  | linkTrainingTimeout (link : Nat)   -- R390
  | linkLaneFailure (link : Nat) (spare : Bool)   -- R390
  | linkModuleFailure (link : Nat) (mod : Nat)   -- R393
  | linkRetrainDone (link : Nat) (passed : Bool)   -- R390
  | powerOnReset (imgA : List Byte) (imgB : List Byte) (fusedSvn : Nat)   -- R425
  | recoveryImageFrame (payload : List Byte) (last : Bool)   -- R425
  | configRecordWrite (ok : Bool)   -- R429
  | selfTestStart (die : Nat) (page : Bool) (n : Nat)   -- R432
  | selfTestEnd (die : Nat) (page : Bool) (n : Nat) (passed : Bool)   -- R432
  | selfTestOverdue (isl : Nat)   -- R432
  | ageingSample (die : Nat) (quad : Nat) (ring : Nat) (margin : Nat)   -- R434
  | eccThresholdRetire (die : Nat) (page : Nat)   -- R409
  | thermalTrip (die : Nat)   -- R437
  | pdbAccessPerformed (part : Nat)   -- R149
  | sequencerStreamEnd (tile : Nat) (chan : Nat)   -- R134
  | ethernetAutoNegotiation (port : Nat) (optOk : Bool)   -- R15
deriving DecidableEq, Repr

end Sys2Proof
end

