-- ==== Sys2Proof/WellFormed.lean ====
section
/-! DEFINITION. When an instruction is well-formed: every operand within the values its encoding admits in the form of its
place (R38 to R51). An instruction that is not well-formed has no word. -/

namespace Sys2Proof

/-- Whether a source selector exists in the form (R41): timed rows are b0 to b191, block values b0 to b63. -/
def Src.ok (m : Form) : Src → Bool
  | .row n => if m = .timed then n.toNat < 192 else n.toNat < 64
  | .h _ => m == .block
  | _ => true

/-- Whether a destination selector exists in the form (R41). -/
def Dst.ok (m : Form) : Dst → Bool
  | .row n => if m = .timed then n.toNat < 192 else n.toNat < 64
  | .h _ => m == .block
  | _ => true

/-- Destinations of a scratch load: in a block, b0 to b63 or h0 to h7 only (R130). -/
def Dst.okLoad (m : Form) (d : Dst) : Bool :=
  d.ok m && (m == .timed || match d with
    | .row _ => true
    | .h _ => true
    | _ => false)

/-- Destinations of a send: in a block, h0 to h7 or `z` only (R244). -/
def Dst.okSend (m : Form) (d : Dst) : Bool :=
  d.ok m && (m == .timed || match d with
    | .h _ => true
    | .zero => true
    | _ => false)

/-- The destination of `acas`, which also names its compare operand: a row-file entry, or in a block h0 to h7 or `z` (R142). -/
def Dst.okAcas (m : Form) (d : Dst) : Bool :=
  d.ok m && match m, d with
    | .timed, .row _ => true
    | .block, .h _ => true
    | .block, .zero => true
    | _, _ => false

/-- b(n) to b(n + 7) within the file of the form, or the route outputs in the timed form (R130). -/
def LineDst.ok (m : Form) : LineDst → Bool
  | .rows n => if m = .timed then n.toNat ≤ 184 else n.toNat ≤ 56
  | .routes => m == .timed

/-- b(n) to b(n + 7) within the file of the form, or the route inputs in the timed form (R130). -/
def LineSrc.ok (m : Form) : LineSrc → Bool
  | .rows n => if m = .timed then n.toNat ≤ 184 else n.toNat ≤ 56
  | .routes => m == .timed

def DqVal.ok (m : Form) : DqVal → Bool
  | .elem s _ => s.ok m
  | .line l => l.ok m

/-- `.inst` exists in the timed form only (R139). -/
def Tag.ok (m : Form) : Tag → Bool
  | .op s => s.ok m
  | .inst => m == .timed

/-- Identifiers of `getid` (R81): a block has no cycle, instance, relative position, N or period. -/
def identOk (m : Form) (id : BitVec 4) : Bool :=
  id.toNat ≤ 8 && (m == .timed || [2, 3, 6, 8].contains id.toNat)

/-- CSR numbers outside the reserved ranges of R410. -/
def csrNumOk (num : BitVec 16) : Bool :=
  !(0x2000 ≤ num.toNat && num.toNat < 0x4000) && !(0x5000 ≤ num.toNat && num.toNat < 0x8000)

def Ty.isFloat : Ty → Bool
  | .flt _ => true
  | .int _ => false

/-- Width of an integer lane in bits (R17). -/
def ITy.width : ITy → Nat
  | .s8 => 8
  | .n8 => 8
  | .s16 => 16
  | .n16 => 16
  | .s32 => 32
  | .n32 => 32
  | .s64 => 64

/-- Width of a float lane in bits (R17, R19). -/
def FTy.width : FTy → Nat
  | .f16 => 16
  | .bf16 => 16
  | .f32 => 32
  | .e4m3 => 8
  | .e5m2 => 8

/-- `Width(ty)` (R53). -/
def Ty.width : Ty → Nat
  | .int t => t.width
  | .flt t => t.width

/-- `Lanes(ty)` (R53). -/
def Ty.lanes (t : Ty) : Nat := 64 / t.width

/-- Conditions of `vcmp`: all twelve on integer lanes, the first six on float lanes (R104). -/
def vcondOk (t : Ty) (c : Cond) : Bool :=
  !t.isFloat || [Cond.eq, .ne, .lt, .le, .gt, .ge].contains c

/-- The head of an instruction word (R38, R43). -/
def Instr.hd : Instr → Option Hd
  | .nop h => some h
  | .add h _ _ _ => some h
  | .addi h _ _ _ => some h
  | .sub h _ _ _ => some h
  | .adc h _ _ _ _ => some h
  | .sbb h _ _ _ _ => some h
  | .mul h _ _ _ => some h
  | .mulh h _ _ _ => some h
  | .mulhu h _ _ _ => some h
  | .mad h _ _ _ _ => some h
  | .div h _ _ _ => some h
  | .divu h _ _ _ => some h
  | .rem h _ _ _ => some h
  | .remu h _ _ _ => some h
  | .min h _ _ _ => some h
  | .max h _ _ _ => some h
  | .minu h _ _ _ => some h
  | .maxu h _ _ _ => some h
  | .abs h _ _ => some h
  | .and h _ _ _ => some h
  | .andi h _ _ _ => some h
  | .or h _ _ _ => some h
  | .ori h _ _ _ => some h
  | .xor h _ _ _ => some h
  | .xori h _ _ _ => some h
  | .andn h _ _ _ => some h
  | .shl h _ _ _ => some h
  | .shli h _ _ _ => some h
  | .shr h _ _ _ => some h
  | .shri h _ _ _ => some h
  | .sar h _ _ _ => some h
  | .sari h _ _ _ => some h
  | .rol h _ _ _ => some h
  | .clz h _ _ => some h
  | .ctz h _ _ => some h
  | .popc h _ _ => some h
  | .brev h _ _ => some h
  | .bfx h _ _ _ => some h
  | .bfi h _ _ _ _ => some h
  | .sext h _ _ _ => some h
  | .zext h _ _ _ => some h
  | .movh h _ _ => some h
  | .movi h _ _ => some h
  | .movk h _ _ _ _ => some h
  | .addsat h _ _ _ _ => some h
  | .subsat h _ _ _ _ => some h
  | .cbrng h _ _ _ => some h
  | .crc h _ _ _ _ => some h
  | .cmp h _ _ _ _ => some h
  | .cmpi h _ _ _ _ => some h
  | .plog h _ _ _ _ => some h
  | .pmovGet h _ => some h
  | .pmovPut h _ => some h
  | .sel h _ _ _ _ _ => some h
  | .mov h _ _ => some h
  | .kget h _ _ _ => some h
  | .getid h _ _ => some h
  | .pcnt h _ _ _ => some h
  | .vadd h _ _ _ _ _ => some h
  | .vsub h _ _ _ _ _ => some h
  | .vmul h _ _ _ _ _ => some h
  | .vfma h _ _ _ _ _ _ => some h
  | .vfms h _ _ _ _ _ _ => some h
  | .vfnma h _ _ _ _ _ _ => some h
  | .vmin h _ _ _ _ => some h
  | .vmax h _ _ _ _ => some h
  | .vabs h _ _ _ _ => some h
  | .vneg h _ _ _ _ => some h
  | .vcmp h _ _ _ _ _ => some h
  | .vsel h _ _ _ _ _ => some h
  | .vdiv h _ _ _ _ _ => some h
  | .vsqrt h _ _ _ _ => some h
  | .vrcp h _ _ _ _ => some h
  | .vrsq h _ _ _ _ => some h
  | .vexp2 h _ _ _ _ => some h
  | .vlog2 h _ _ _ _ => some h
  | .vtanh h _ _ _ _ => some h
  | .vscale h _ _ _ _ _ => some h
  | .vclamp h _ _ _ _ _ => some h
  | .vsum h _ _ _ _ => some h
  | .vmaxh h _ _ _ => some h
  | .vdot h _ _ _ _ _ _ => some h
  | .vshuf h _ _ _ _ _ => some h
  | .vpack h _ _ _ _ _ => some h
  | .vunpk h _ _ _ _ => some h
  | .vbcast h _ _ _ _ => some h
  | .vins h _ _ _ _ _ => some h
  | .vext h _ _ _ _ => some h
  | .vcvt h _ _ _ _ _ => some h
  | .vrnd h _ _ _ _ => some h
  | .vand h _ _ _ _ => some h
  | .vor h _ _ _ _ => some h
  | .vxor h _ _ _ _ => some h
  | .vshl h _ _ _ _ => some h
  | .vshr h _ _ _ _ => some h
  | .vsar h _ _ _ _ => some h
  | .vmulh h _ _ _ _ => some h
  | .vavg h _ _ _ _ => some h
  | .vclass h _ _ _ => some h
  | .vcpsgn h _ _ _ _ => some h
  | .vmad h _ _ _ _ _ _ => some h
  | .vsatn h _ _ _ _ => some h
  | .vminh h _ _ _ => some h
  | .vsumw h _ _ _ _ => some h
  | .bexp h _ _ _ _ _ => some h
  | .benc h _ _ _ _ _ _ => some h
  | .bdec h _ _ _ _ _ _ => some h
  | .scput h _ _ _ _ => some h
  | .scget h _ _ _ => some h
  | .scpair h _ _ _ => some h
  | .hdrw h _ _ _ => some h
  | .hdrrFmt h _ _ => some h
  | .hdrrScale h _ _ => some h
  | .ld h _ _ _ _ _ => some h
  | .st h _ _ _ _ => some h
  | .ldl h _ _ _ => some h
  | .stl h _ _ _ => some h
  | .ldt h _ _ _ _ => some h
  | .ldx h _ _ _ _ _ _ => some h
  | .stx h _ _ _ _ _ => some h
  | .ldp h _ _ _ _ => some h
  | .stp h _ _ _ => some h
  | .pldx h _ _ _ _ _ => some h
  | .pstx h _ _ _ _ => some h
  | .dqld h _ _ _ _ => some h
  | .dqst h _ _ _ _ => some h
  | .dqpop h _ _ => some h
  | .dqwt h _ => some h
  | .vld h _ _ _ _ => some h
  | .vst h _ _ _ _ => some h
  | .vrcl h _ _ _ => some h
  | .agcfg h _ _ => some h
  | .agstart h _ _ => some h
  | .ageos h _ => some h
  | .qtkt h _ _ _ => some h
  | .qpush h _ _ _ _ => some h
  | .qpop h _ _ _ => some h
  | .qcnt h _ _ => some h
  | .aadd h _ _ _ _ _ _ => some h
  | .amin h _ _ _ _ _ _ => some h
  | .amax h _ _ _ _ _ _ => some h
  | .aminu h _ _ _ _ _ _ => some h
  | .amaxu h _ _ _ _ _ _ => some h
  | .aand h _ _ _ _ _ _ => some h
  | .aor h _ _ _ _ _ _ => some h
  | .axor h _ _ _ _ _ _ => some h
  | .aswp h _ _ _ _ _ _ => some h
  | .acas h _ _ _ _ _ _ => some h
  | .afadd h _ _ _ _ _ _ => some h
  | .ainc h _ _ _ _ _ _ => some h
  | .adec h _ _ _ _ _ _ => some h
  | .redadd h _ _ _ _ _ => some h
  | .redfadd h _ _ _ _ _ => some h
  | .redmax h _ _ _ _ _ => some h
  | .barinit h _ _ => some h
  | .barexp h _ _ _ _ _ => some h
  | .bararr h _ _ _ _ _ => some h
  | .barwt h _ _ _ _ => some h
  | .bartst h _ _ _ => some h
  | .tlsig h _ _ _ => some h
  | .tlwt h _ _ _ => some h
  | .tlrd h _ _ => some h
  | .fence h _ _ => some h
  | .drain h => some h
  | .wtick h _ _ _ => some h
  | .wtickRel h _ _ => some h
  | .powq h _ _ => some h
  | .powqWait h _ _ => some h
  | .powrl h _ => some h
  | .futwt h _ _ _ => some h
  | .futset h _ _ _ => some h
  | .futsetClr h _ _ => some h
  | .yield h _ => some h
  | .mxselAcq h _ _ => some h
  | .mxselRel h _ _ => some h
  | .mxldb h _ _ _ => some h
  | .mxswb h _ _ => some h
  | .mxzero h _ _ _ => some h
  | .mxmacChan h _ _ _ => some h
  | .mxmacStore h _ _ _ => some h
  | .mxmacFill h _ _ _ _ => some h
  | .mxmacPfill h _ _ _ _ => some h
  | .mxsc h _ _ _ _ _ => some h
  | .mxdrn h _ _ _ _ _ => some h
  | .mxacc h _ _ _ => some h
  | .mxsave h _ _ _ => some h
  | .mxrest h _ _ _ => some h
  | .mxst h _ _ _ _ _ _ => some h
  | .mxcolRd h _ _ _ => some h
  | .mxcolRet h _ _ _ => some h
  | .mxwst h _ _ _ => some h
  | .mxfmt h _ _ _ => some h
  | .mxpeekAcc h _ _ _ => some h
  | .mxpeekSt h _ _ => some h
  | .mxpeekTa h _ _ _ => some h
  | .mxpeekTb h _ _ _ => some h
  | .sbind h _ _ _ => some h
  | .scpy h _ _ _ => some h
  | .scpyChk h _ _ _ _ => some h
  | .sgat h _ _ => some h
  | .ssct h _ _ => some h
  | .sred h _ _ _ _ _ => some h
  | .sfill h _ _ _ => some h
  | .scvt h _ _ _ _ _ => some h
  | .scan h _ _ _ => some h
  | .sst h _ _ => some h
  | .sstFlags h _ _ => some h
  | .spat h _ _ => some h
  | .ccred h _ _ _ _ => some h
  | .ccbc h _ _ _ => some h
  | .ccag h _ _ _ => some h
  | .ccsend h _ _ _ _ => some h
  | .ccrecv h _ _ _ _ => some h
  | .ccbar h _ _ _ => some h
  | .br h _ => some h
  | .exit h _ => some h
  | .nulSt h _ => some h
  | .nulH h _ => some h
  | .jpost h _ _ _ => some h
  | .jwait h _ _ => some h
  | .launch h _ _ _ _ _ => some h
  | .launchSeq h _ _ _ _ => some h
  | .cancel h _ _ _ _ => some h
  | .cmpl h _ _ _ => some h
  | .cmplWait h _ _ _ => some h
  | .gfork h _ _ _ _ => some h
  | .grew h _ _ _ _ => some h
  | .gbar h _ _ => some h
  | .gadv h _ _ _ => some h
  | .gcan h _ _ _ => some h
  | .gcanAll h _ _ => some h
  | .gst h _ _ => some h
  | .bcall h _ _ => some h
  | .bret h _ => some h
  | .trap h _ _ => some h
  | .brk h _ => some h
  | .csrr h _ _ => some h
  | .csrw h _ _ => some h
  | .halt h _ => some h
  | .trace h _ _ => some h
  | .cfginv h _ => some h
  | .cfginvAll h => some h
  | .stestRun h _ _ => some h
  | .stestSt h _ _ => some h
  | .blockFetchMap _ => none
  | .blockCommit _ => none
  | .taskDispatch _ _ => none
  | .timeSliceExpiry _ => none
  | .cardFinish _ _ => none
  | .externalResultArrival _ => none
  | .scratchAccessPerformed _ => none
  | .dRequestPerformed _ _ => none
  | .arbiterSlotStart _ _ => none
  | .matrixCommandStart _ _ => none
  | .matrixCommandComplete _ _ => none
  | .matrixRowUpdate _ => none
  | .residueMismatch _ _ => none
  | .streamCommandStart _ => none
  | .streamBurst _ => none
  | .streamCommandComplete _ => none
  | .ingressFrameReceived _ _ _ _ => none
  | .placementGrant _ => none
  | .configCompleteWave _ _ => none
  | .drainToken _ _ => none
  | .quiescenceReport _ _ => none
  | .allocatorHeadTimeout _ _ => none
  | .regionMove _ _ _ _ => none
  | .tickBoundary => none
  | .timebaseLockLoss => none
  | .tableArmedStart _ _ => none
  | .laneReclaimStart _ _ _ => none
  | .tableEntryStart _ _ _ => none
  | .tableDeadlineOverrun _ _ _ => none
  | .fallbackBudgetEnd _ _ _ => none
  | .modeChangePoint _ _ => none
  | .drainLimitExpiry _ => none
  | .saveLimitExpiry _ => none
  | .contextSaveComplete _ => none
  | .contextRestoreComplete _ => none
  | .contextTeardownComplete _ => none
  | .publicationTimeout _ => none
  | .queueSlotGrant _ => none
  | .demotedQueueCheck _ => none
  | .stallDetected _ => none
  | .waitConditionMet _ => none
  | .nopPacket _ => none
  | .launchPacket _ => none
  | .deltaPacket _ => none
  | .copyPacket _ => none
  | .waitPacket _ => none
  | .signalPacket _ => none
  | .fencePacket _ => none
  | .tableInstall _ => none
  | .tableStart _ => none
  | .tableSwitch _ => none
  | .tableAcknowledge _ => none
  | .tableRemove _ => none
  | .modePrio _ => none
  | .modePause _ => none
  | .modePubto _ => none
  | .modeReslim _ => none
  | .graphPacket _ => none
  | .debugAttach _ => none
  | .debugDetach _ => none
  | .debugHalt _ => none
  | .debugResume _ => none
  | .debugReadState _ => none
  | .debugWriteState _ => none
  | .debugSetBreakpoint _ => none
  | .debugClearBreakpoint _ => none
  | .cancelPacket _ => none
  | .qctlEnable _ => none
  | .qctlDisable _ => none
  | .qctlRestart _ _ _ => none
  | .qctlResume _ => none
  | .qctlDoorbell _ => none
  | .ctxctlCreate _ _ => none
  | .ctxctlSave _ => none
  | .ctxctlRestore _ _ => none
  | .ctxctlTeardown _ => none
  | .ctxsaveWrite _ _ => none
  | .tbctlSettime => none
  | .tbctlStart => none
  | .tbadjWrite _ => none
  | .cfginvCsrWrite _ => none
  | .cfgInvalidationPerformed => none
  | .vminvWrite _ => none
  | .vmInvalidationPerformed => none
  | .futsetCsrWrite _ => none
  | .pgretireWrite _ => none
  | .expoolWrite _ _ => none
  | .chretireWrite _ _ => none
  | .channelMigrationDone _ => none
  | .attctlGo _ => none
  | .quoteComplete => none
  | .peercfgWrite _ => none
  | .shadowWrite _ _ => none
  | .cfgcacheWrite _ _ => none
  | .leaveBudgetWrite _ _ _ => none
  | .tlclrWrite _ _ => none
  | .ingressChannelWrite _ _ => none
  | .histcfgWrite _ _ _ => none
  | .trcctlWrite _ _ => none
  | .evidxWrite _ => none
  | .csrWriteOther _ _ _ _ => none
  | .hostCsrAccess _ _ _ _ => none
  | .groupDeadline _ => none
  | .groupCollection _ => none
  | .ccbarTimeout _ _ _ => none
  | .collectiveComplete _ => none
  | .flitReceived _ _ _ _ _ => none
  | .linkTrainingDone _ _ _ _ _ => none
  | .linkTrainingTimeout _ => none
  | .linkLaneFailure _ _ => none
  | .linkModuleFailure _ _ => none
  | .linkRetrainDone _ _ => none
  | .powerOnReset _ _ _ => none
  | .recoveryImageFrame _ _ => none
  | .configRecordWrite _ => none
  | .selfTestStart _ _ _ => none
  | .selfTestEnd _ _ _ _ => none
  | .selfTestOverdue _ => none
  | .ageingSample _ _ _ _ => none
  | .eccThresholdRetire _ _ => none
  | .thermalTrip _ => none
  | .pdbAccessPerformed _ => none
  | .sequencerStreamEnd _ _ => none
  | .ethernetAutoNegotiation _ _ => none

/-- The opcode of an instruction word (R49); a step or host act has none. -/
def Instr.opcode : Instr → Option (BitVec 8)
  | .nop _ => some 0x00
  | .add _ _ _ _ => some 0x01
  | .addi _ _ _ _ => some 0x02
  | .sub _ _ _ _ => some 0x03
  | .adc _ _ _ _ _ => some 0x04
  | .sbb _ _ _ _ _ => some 0x05
  | .mul _ _ _ _ => some 0x06
  | .mulh _ _ _ _ => some 0x07
  | .mulhu _ _ _ _ => some 0x08
  | .mad _ _ _ _ _ => some 0x09
  | .div _ _ _ _ => some 0x0A
  | .divu _ _ _ _ => some 0x0B
  | .rem _ _ _ _ => some 0x0C
  | .remu _ _ _ _ => some 0x0D
  | .min _ _ _ _ => some 0x0E
  | .max _ _ _ _ => some 0x0F
  | .minu _ _ _ _ => some 0x10
  | .maxu _ _ _ _ => some 0x11
  | .abs _ _ _ => some 0x12
  | .and _ _ _ _ => some 0x13
  | .andi _ _ _ _ => some 0x14
  | .or _ _ _ _ => some 0x15
  | .ori _ _ _ _ => some 0x16
  | .xor _ _ _ _ => some 0x17
  | .xori _ _ _ _ => some 0x18
  | .andn _ _ _ _ => some 0x19
  | .shl _ _ _ _ => some 0x1A
  | .shli _ _ _ _ => some 0x1B
  | .shr _ _ _ _ => some 0x1C
  | .shri _ _ _ _ => some 0x1D
  | .sar _ _ _ _ => some 0x1E
  | .sari _ _ _ _ => some 0x1F
  | .rol _ _ _ _ => some 0x20
  | .clz _ _ _ => some 0x21
  | .ctz _ _ _ => some 0x22
  | .popc _ _ _ => some 0x23
  | .brev _ _ _ => some 0x24
  | .bfx _ _ _ _ => some 0x25
  | .bfi _ _ _ _ _ => some 0x26
  | .sext _ _ _ _ => some 0x27
  | .zext _ _ _ _ => some 0x28
  | .movh _ _ _ => some 0x29
  | .movi _ _ _ => some 0x2A
  | .movk _ _ _ _ _ => some 0x2B
  | .addsat _ _ _ _ _ => some 0x2C
  | .subsat _ _ _ _ _ => some 0x2D
  | .cbrng _ _ _ _ => some 0x2E
  | .crc _ _ _ _ _ => some 0x2F
  | .cmp _ _ _ _ _ => some 0x30
  | .cmpi _ _ _ _ _ => some 0x31
  | .plog _ _ _ _ _ => some 0x32
  | .pmovGet _ _ => some 0x33
  | .pmovPut _ _ => some 0x33
  | .sel _ _ _ _ _ _ => some 0x34
  | .mov _ _ _ => some 0x35
  | .kget _ _ _ _ => some 0x36
  | .getid _ _ _ => some 0x37
  | .pcnt _ _ _ _ => some 0x38
  | .vadd _ _ _ _ _ _ => some 0x40
  | .vsub _ _ _ _ _ _ => some 0x41
  | .vmul _ _ _ _ _ _ => some 0x42
  | .vfma _ _ _ _ _ _ _ => some 0x43
  | .vfms _ _ _ _ _ _ _ => some 0x44
  | .vfnma _ _ _ _ _ _ _ => some 0x45
  | .vmin _ _ _ _ _ => some 0x46
  | .vmax _ _ _ _ _ => some 0x47
  | .vabs _ _ _ _ _ => some 0x48
  | .vneg _ _ _ _ _ => some 0x49
  | .vcmp _ _ _ _ _ _ => some 0x4A
  | .vsel _ _ _ _ _ _ => some 0x4B
  | .vdiv _ _ _ _ _ _ => some 0x4C
  | .vsqrt _ _ _ _ _ => some 0x4D
  | .vrcp _ _ _ _ _ => some 0x4E
  | .vrsq _ _ _ _ _ => some 0x4F
  | .vexp2 _ _ _ _ _ => some 0x50
  | .vlog2 _ _ _ _ _ => some 0x51
  | .vtanh _ _ _ _ _ => some 0x52
  | .vscale _ _ _ _ _ _ => some 0x53
  | .vclamp _ _ _ _ _ _ => some 0x54
  | .vsum _ _ _ _ _ => some 0x55
  | .vmaxh _ _ _ _ => some 0x56
  | .vdot _ _ _ _ _ _ _ => some 0x57
  | .vshuf _ _ _ _ _ _ => some 0x58
  | .vpack _ _ _ _ _ _ => some 0x59
  | .vunpk _ _ _ _ _ => some 0x5A
  | .vbcast _ _ _ _ _ => some 0x5B
  | .vins _ _ _ _ _ _ => some 0x5C
  | .vext _ _ _ _ _ => some 0x5D
  | .vcvt _ _ _ _ _ _ => some 0x5E
  | .vrnd _ _ _ _ _ => some 0x5F
  | .vand _ _ _ _ _ => some 0x60
  | .vor _ _ _ _ _ => some 0x61
  | .vxor _ _ _ _ _ => some 0x62
  | .vshl _ _ _ _ _ => some 0x63
  | .vshr _ _ _ _ _ => some 0x64
  | .vsar _ _ _ _ _ => some 0x65
  | .vmulh _ _ _ _ _ => some 0x66
  | .vavg _ _ _ _ _ => some 0x67
  | .vclass _ _ _ _ => some 0x68
  | .vcpsgn _ _ _ _ _ => some 0x69
  | .vmad _ _ _ _ _ _ _ => some 0x6A
  | .vsatn _ _ _ _ _ => some 0x6B
  | .vminh _ _ _ _ => some 0x6C
  | .vsumw _ _ _ _ _ => some 0x6D
  | .bexp _ _ _ _ _ _ => some 0x70
  | .benc _ _ _ _ _ _ _ => some 0x71
  | .bdec _ _ _ _ _ _ _ => some 0x72
  | .scput _ _ _ _ _ => some 0x73
  | .scget _ _ _ _ => some 0x74
  | .scpair _ _ _ _ => some 0x75
  | .hdrw _ _ _ _ => some 0x76
  | .hdrrFmt _ _ _ => some 0x77
  | .hdrrScale _ _ _ => some 0x77
  | .ld _ _ _ _ _ _ => some 0x80
  | .st _ _ _ _ _ => some 0x81
  | .ldl _ _ _ _ => some 0x82
  | .stl _ _ _ _ => some 0x83
  | .ldt _ _ _ _ _ => some 0x84
  | .ldx _ _ _ _ _ _ _ => some 0x85
  | .stx _ _ _ _ _ _ => some 0x86
  | .ldp _ _ _ _ _ => some 0x87
  | .stp _ _ _ _ => some 0x88
  | .pldx _ _ _ _ _ _ => some 0x97
  | .pstx _ _ _ _ _ => some 0x98
  | .dqld _ _ _ _ _ => some 0x89
  | .dqst _ _ _ _ _ => some 0x8A
  | .dqpop _ _ _ => some 0x8B
  | .dqwt _ _ => some 0x8C
  | .vld _ _ _ _ _ => some 0x8D
  | .vst _ _ _ _ _ => some 0x8E
  | .vrcl _ _ _ _ => some 0x8F
  | .agcfg _ _ _ => some 0x90
  | .agstart _ _ _ => some 0x91
  | .ageos _ _ => some 0x92
  | .qtkt _ _ _ _ => some 0x93
  | .qpush _ _ _ _ _ => some 0x94
  | .qpop _ _ _ _ => some 0x95
  | .qcnt _ _ _ => some 0x96
  | .aadd _ _ _ _ _ _ _ => some 0xA0
  | .amin _ _ _ _ _ _ _ => some 0xA1
  | .amax _ _ _ _ _ _ _ => some 0xA2
  | .aminu _ _ _ _ _ _ _ => some 0xA3
  | .amaxu _ _ _ _ _ _ _ => some 0xA4
  | .aand _ _ _ _ _ _ _ => some 0xA5
  | .aor _ _ _ _ _ _ _ => some 0xA6
  | .axor _ _ _ _ _ _ _ => some 0xA7
  | .aswp _ _ _ _ _ _ _ => some 0xA8
  | .acas _ _ _ _ _ _ _ => some 0xA9
  | .afadd _ _ _ _ _ _ _ => some 0xAA
  | .ainc _ _ _ _ _ _ _ => some 0xAB
  | .adec _ _ _ _ _ _ _ => some 0xAC
  | .redadd _ _ _ _ _ _ => some 0xAD
  | .redfadd _ _ _ _ _ _ => some 0xAE
  | .redmax _ _ _ _ _ _ => some 0xAF
  | .barinit _ _ _ => some 0xB0
  | .barexp _ _ _ _ _ _ => some 0xB1
  | .bararr _ _ _ _ _ _ => some 0xB2
  | .barwt _ _ _ _ _ => some 0xB3
  | .bartst _ _ _ _ => some 0xB4
  | .tlsig _ _ _ _ => some 0xB5
  | .tlwt _ _ _ _ => some 0xB6
  | .tlrd _ _ _ => some 0xB7
  | .fence _ _ _ => some 0xB8
  | .drain _ => some 0xB9
  | .wtick _ _ _ _ => some 0xBA
  | .wtickRel _ _ _ => some 0xBA
  | .powq _ _ _ => some 0xBB
  | .powqWait _ _ _ => some 0xBB
  | .powrl _ _ => some 0xBC
  | .futwt _ _ _ _ => some 0xBD
  | .futset _ _ _ _ => some 0xBE
  | .futsetClr _ _ _ => some 0xBE
  | .yield _ _ => some 0xBF
  | .mxselAcq _ _ _ => some 0xC0
  | .mxselRel _ _ _ => some 0xC0
  | .mxldb _ _ _ _ => some 0xC1
  | .mxswb _ _ _ => some 0xC2
  | .mxzero _ _ _ _ => some 0xC3
  | .mxmacChan _ _ _ _ => some 0xC4
  | .mxmacStore _ _ _ _ => some 0xC4
  | .mxmacFill _ _ _ _ _ => some 0xC4
  | .mxmacPfill _ _ _ _ _ => some 0xC4
  | .mxsc _ _ _ _ _ _ => some 0xC5
  | .mxdrn _ _ _ _ _ _ => some 0xC6
  | .mxacc _ _ _ _ => some 0xC7
  | .mxsave _ _ _ _ => some 0xC8
  | .mxrest _ _ _ _ => some 0xC9
  | .mxst _ _ _ _ _ _ _ => some 0xCA
  | .mxcolRd _ _ _ _ => some 0xCB
  | .mxcolRet _ _ _ _ => some 0xCB
  | .mxwst _ _ _ _ => some 0xCC
  | .mxfmt _ _ _ _ => some 0xCD
  | .mxpeekAcc _ _ _ _ => some 0xCE
  | .mxpeekSt _ _ _ => some 0xCE
  | .mxpeekTa _ _ _ _ => some 0xCE
  | .mxpeekTb _ _ _ _ => some 0xCE
  | .sbind _ _ _ _ => some 0xD0
  | .scpy _ _ _ _ => some 0xD1
  | .scpyChk _ _ _ _ _ => some 0xD1
  | .sgat _ _ _ => some 0xD2
  | .ssct _ _ _ => some 0xD3
  | .sred _ _ _ _ _ _ => some 0xD4
  | .sfill _ _ _ _ => some 0xD5
  | .scvt _ _ _ _ _ _ => some 0xD6
  | .scan _ _ _ _ => some 0xD7
  | .sst _ _ _ => some 0xD8
  | .sstFlags _ _ _ => some 0xD8
  | .spat _ _ _ => some 0xD9
  | .ccred _ _ _ _ _ => some 0xDA
  | .ccbc _ _ _ _ => some 0xDB
  | .ccag _ _ _ _ => some 0xDC
  | .ccsend _ _ _ _ _ => some 0xDD
  | .ccrecv _ _ _ _ _ => some 0xDE
  | .ccbar _ _ _ _ => some 0xDF
  | .br _ _ => some 0xE0
  | .exit _ _ => some 0xE1
  | .nulSt _ _ => some 0xE2
  | .nulH _ _ => some 0xE2
  | .jpost _ _ _ _ => some 0xE3
  | .jwait _ _ _ => some 0xE4
  | .launch _ _ _ _ _ _ => some 0xE5
  | .launchSeq _ _ _ _ _ => some 0xE5
  | .cancel _ _ _ _ _ => some 0xE6
  | .cmpl _ _ _ _ => some 0xE7
  | .cmplWait _ _ _ _ => some 0xE7
  | .gfork _ _ _ _ _ => some 0xE8
  | .grew _ _ _ _ _ => some 0xE9
  | .gbar _ _ _ => some 0xEA
  | .gadv _ _ _ _ => some 0xEB
  | .gcan _ _ _ _ => some 0xEC
  | .gcanAll _ _ _ => some 0xEC
  | .gst _ _ _ => some 0xED
  | .bcall _ _ _ => some 0xEE
  | .bret _ _ => some 0xEF
  | .trap _ _ _ => some 0xF0
  | .brk _ _ => some 0xF1
  | .csrr _ _ _ => some 0xF2
  | .csrw _ _ _ => some 0xF3
  | .halt _ _ => some 0xF4
  | .trace _ _ _ => some 0xF5
  | .cfginv _ _ => some 0xF6
  | .cfginvAll _ => some 0xF6
  | .stestRun _ _ _ => some 0xF7
  | .stestSt _ _ _ => some 0xF7
  | .blockFetchMap _ => none
  | .blockCommit _ => none
  | .taskDispatch _ _ => none
  | .timeSliceExpiry _ => none
  | .cardFinish _ _ => none
  | .externalResultArrival _ => none
  | .scratchAccessPerformed _ => none
  | .dRequestPerformed _ _ => none
  | .arbiterSlotStart _ _ => none
  | .matrixCommandStart _ _ => none
  | .matrixCommandComplete _ _ => none
  | .matrixRowUpdate _ => none
  | .residueMismatch _ _ => none
  | .streamCommandStart _ => none
  | .streamBurst _ => none
  | .streamCommandComplete _ => none
  | .ingressFrameReceived _ _ _ _ => none
  | .placementGrant _ => none
  | .configCompleteWave _ _ => none
  | .drainToken _ _ => none
  | .quiescenceReport _ _ => none
  | .allocatorHeadTimeout _ _ => none
  | .regionMove _ _ _ _ => none
  | .tickBoundary => none
  | .timebaseLockLoss => none
  | .tableArmedStart _ _ => none
  | .laneReclaimStart _ _ _ => none
  | .tableEntryStart _ _ _ => none
  | .tableDeadlineOverrun _ _ _ => none
  | .fallbackBudgetEnd _ _ _ => none
  | .modeChangePoint _ _ => none
  | .drainLimitExpiry _ => none
  | .saveLimitExpiry _ => none
  | .contextSaveComplete _ => none
  | .contextRestoreComplete _ => none
  | .contextTeardownComplete _ => none
  | .publicationTimeout _ => none
  | .queueSlotGrant _ => none
  | .demotedQueueCheck _ => none
  | .stallDetected _ => none
  | .waitConditionMet _ => none
  | .nopPacket _ => none
  | .launchPacket _ => none
  | .deltaPacket _ => none
  | .copyPacket _ => none
  | .waitPacket _ => none
  | .signalPacket _ => none
  | .fencePacket _ => none
  | .tableInstall _ => none
  | .tableStart _ => none
  | .tableSwitch _ => none
  | .tableAcknowledge _ => none
  | .tableRemove _ => none
  | .modePrio _ => none
  | .modePause _ => none
  | .modePubto _ => none
  | .modeReslim _ => none
  | .graphPacket _ => none
  | .debugAttach _ => none
  | .debugDetach _ => none
  | .debugHalt _ => none
  | .debugResume _ => none
  | .debugReadState _ => none
  | .debugWriteState _ => none
  | .debugSetBreakpoint _ => none
  | .debugClearBreakpoint _ => none
  | .cancelPacket _ => none
  | .qctlEnable _ => none
  | .qctlDisable _ => none
  | .qctlRestart _ _ _ => none
  | .qctlResume _ => none
  | .qctlDoorbell _ => none
  | .ctxctlCreate _ _ => none
  | .ctxctlSave _ => none
  | .ctxctlRestore _ _ => none
  | .ctxctlTeardown _ => none
  | .ctxsaveWrite _ _ => none
  | .tbctlSettime => none
  | .tbctlStart => none
  | .tbadjWrite _ => none
  | .cfginvCsrWrite _ => none
  | .cfgInvalidationPerformed => none
  | .vminvWrite _ => none
  | .vmInvalidationPerformed => none
  | .futsetCsrWrite _ => none
  | .pgretireWrite _ => none
  | .expoolWrite _ _ => none
  | .chretireWrite _ _ => none
  | .channelMigrationDone _ => none
  | .attctlGo _ => none
  | .quoteComplete => none
  | .peercfgWrite _ => none
  | .shadowWrite _ _ => none
  | .cfgcacheWrite _ _ => none
  | .leaveBudgetWrite _ _ _ => none
  | .tlclrWrite _ _ => none
  | .ingressChannelWrite _ _ => none
  | .histcfgWrite _ _ _ => none
  | .trcctlWrite _ _ => none
  | .evidxWrite _ => none
  | .csrWriteOther _ _ _ _ => none
  | .hostCsrAccess _ _ _ _ => none
  | .groupDeadline _ => none
  | .groupCollection _ => none
  | .ccbarTimeout _ _ _ => none
  | .collectiveComplete _ => none
  | .flitReceived _ _ _ _ _ => none
  | .linkTrainingDone _ _ _ _ _ => none
  | .linkTrainingTimeout _ => none
  | .linkLaneFailure _ _ => none
  | .linkModuleFailure _ _ => none
  | .linkRetrainDone _ _ => none
  | .powerOnReset _ _ _ => none
  | .recoveryImageFrame _ _ => none
  | .configRecordWrite _ => none
  | .selfTestStart _ _ _ => none
  | .selfTestEnd _ _ _ _ => none
  | .selfTestOverdue _ => none
  | .ageingSample _ _ _ _ => none
  | .eccThresholdRetire _ _ => none
  | .thermalTrip _ => none
  | .pdbAccessPerformed _ => none
  | .sequencerStreamEnd _ _ => none
  | .ethernetAutoNegotiation _ _ => none

/-- Every operand of the entry within the values its encoding admits, in the form of its place (R40, R41, R50). -/
def operandsOk (m : Form) : Instr → Bool
  | .nop _ => true
  | .add _ d a b => d.ok m && a.ok m && b.ok m
  | .addi _ d a _ => d.ok m && a.ok m
  | .sub _ d a b => d.ok m && a.ok m && b.ok m
  | .adc _ d a b _ => d.ok m && a.ok m && b.ok m
  | .sbb _ d a b _ => d.ok m && a.ok m && b.ok m
  | .mul _ d a b => d.ok m && a.ok m && b.ok m
  | .mulh _ d a b => d.ok m && a.ok m && b.ok m
  | .mulhu _ d a b => d.ok m && a.ok m && b.ok m
  | .mad _ d a b c => d.ok m && a.ok m && b.ok m && c.ok m
  | .div _ d a b => d.ok m && a.ok m && b.ok m
  | .divu _ d a b => d.ok m && a.ok m && b.ok m
  | .rem _ d a b => d.ok m && a.ok m && b.ok m
  | .remu _ d a b => d.ok m && a.ok m && b.ok m
  | .min _ d a b => d.ok m && a.ok m && b.ok m
  | .max _ d a b => d.ok m && a.ok m && b.ok m
  | .minu _ d a b => d.ok m && a.ok m && b.ok m
  | .maxu _ d a b => d.ok m && a.ok m && b.ok m
  | .abs _ d a => d.ok m && a.ok m
  | .and _ d a b => d.ok m && a.ok m && b.ok m
  | .andi _ d a _ => d.ok m && a.ok m
  | .or _ d a b => d.ok m && a.ok m && b.ok m
  | .ori _ d a _ => d.ok m && a.ok m
  | .xor _ d a b => d.ok m && a.ok m && b.ok m
  | .xori _ d a _ => d.ok m && a.ok m
  | .andn _ d a b => d.ok m && a.ok m && b.ok m
  | .shl _ d a b => d.ok m && a.ok m && b.ok m
  | .shli _ d a _ => d.ok m && a.ok m
  | .shr _ d a b => d.ok m && a.ok m && b.ok m
  | .shri _ d a _ => d.ok m && a.ok m
  | .sar _ d a b => d.ok m && a.ok m && b.ok m
  | .sari _ d a _ => d.ok m && a.ok m
  | .rol _ d a b => d.ok m && a.ok m && b.ok m
  | .clz _ d a => d.ok m && a.ok m
  | .ctz _ d a => d.ok m && a.ok m
  | .popc _ d a => d.ok m && a.ok m
  | .brev _ d a => d.ok m && a.ok m
  | .bfx _ d a b => d.ok m && a.ok m && b.ok m
  | .bfi _ d a b c => d.ok m && a.ok m && b.ok m && c.ok m
  | .sext _ d a w => d.ok m && a.ok m && w != 3
  | .zext _ d a w => d.ok m && a.ok m && w != 3
  | .movh _ d _ => d.ok m
  | .movi _ d _ => d.ok m
  | .movk _ d a _ _ => d.ok m && a.ok m
  | .addsat _ d a b _ => d.ok m && a.ok m && b.ok m
  | .subsat _ d a b _ => d.ok m && a.ok m && b.ok m
  | .cbrng _ d a b => d.ok m && a.ok m && b.ok m
  | .crc _ d a b _ => d.ok m && a.ok m && b.ok m
  | .cmp _ pd a b _ => pd != 0 && a.ok m && b.ok m
  | .cmpi _ pd a _ _ => pd != 0 && a.ok m
  | .plog _ pd _ _ _ => pd != 0
  | .pmovGet _ d => d.ok m
  | .pmovPut _ a => a.ok m
  | .sel _ d a b _ p => d.ok m && a.ok m && b.ok m && p != 0
  | .mov _ d a => d.ok m && a.ok m
  | .kget _ d _ _ => d.ok m
  | .getid _ d id => d.ok m && identOk m id
  | .pcnt _ d a b => d.ok m && a.ok m && b.ok m
  | .vadd _ d a b _ _ => d.ok m && a.ok m && b.ok m
  | .vsub _ d a b _ _ => d.ok m && a.ok m && b.ok m
  | .vmul _ d a b _ _ => d.ok m && a.ok m && b.ok m
  | .vfma _ d a b c _ _ => d.ok m && a.ok m && b.ok m && c.ok m
  | .vfms _ d a b c _ _ => d.ok m && a.ok m && b.ok m && c.ok m
  | .vfnma _ d a b c _ _ => d.ok m && a.ok m && b.ok m && c.ok m
  | .vmin _ d a b _ => d.ok m && a.ok m && b.ok m
  | .vmax _ d a b _ => d.ok m && a.ok m && b.ok m
  | .vabs _ d a _ _ => d.ok m && a.ok m
  | .vneg _ d a _ _ => d.ok m && a.ok m
  | .vcmp _ d a b cond ty => d.ok m && a.ok m && b.ok m && vcondOk ty cond
  | .vsel _ d a b c _ => d.ok m && a.ok m && b.ok m && c.ok m
  | .vdiv _ d a b _ _ => d.ok m && a.ok m && b.ok m
  | .vsqrt _ d a _ _ => d.ok m && a.ok m
  | .vrcp _ d a _ _ => d.ok m && a.ok m
  | .vrsq _ d a _ _ => d.ok m && a.ok m
  | .vexp2 _ d a _ _ => d.ok m && a.ok m
  | .vlog2 _ d a _ _ => d.ok m && a.ok m
  | .vtanh _ d a _ _ => d.ok m && a.ok m
  | .vscale _ d a b _ _ => d.ok m && a.ok m && b.ok m
  | .vclamp _ d a b c _ => d.ok m && a.ok m && b.ok m && c.ok m
  | .vsum _ d a _ _ => d.ok m && a.ok m
  | .vmaxh _ d a _ => d.ok m && a.ok m
  | .vdot _ d a b c _ _ => d.ok m && a.ok m && b.ok m && c.ok m
  | .vshuf _ d a b c _ => d.ok m && a.ok m && b.ok m && c.ok m
  | .vpack _ d a b ty _ => d.ok m && a.ok m && b.ok m && ty != .s8 && ty != .n8
  | .vunpk _ d a _ ty => d.ok m && a.ok m && ty != .int .s64 && ty != .flt .f32
  | .vbcast _ d a j ty => d.ok m && a.ok m && j.toNat < ty.lanes
  | .vins _ d a b j ty => d.ok m && a.ok m && b.ok m && j.toNat < ty.lanes
  | .vext _ d a j ty => d.ok m && a.ok m && j.toNat < ty.lanes
  | .vcvt _ d a _ _ _ => d.ok m && a.ok m
  | .vrnd _ d a mode _ => d.ok m && a.ok m && mode.toNat ≤ 4
  | .vand _ d a b _ => d.ok m && a.ok m && b.ok m
  | .vor _ d a b _ => d.ok m && a.ok m && b.ok m
  | .vxor _ d a b _ => d.ok m && a.ok m && b.ok m
  | .vshl _ d a b _ => d.ok m && a.ok m && b.ok m
  | .vshr _ d a b _ => d.ok m && a.ok m && b.ok m
  | .vsar _ d a b _ => d.ok m && a.ok m && b.ok m
  | .vmulh _ d a b _ => d.ok m && a.ok m && b.ok m
  | .vavg _ d a b _ => d.ok m && a.ok m && b.ok m
  | .vclass _ d a _ => d.ok m && a.ok m
  | .vcpsgn _ d a b _ => d.ok m && a.ok m && b.ok m
  | .vmad _ d a b c _ _ => d.ok m && a.ok m && b.ok m && c.ok m
  | .vsatn _ d a n ty => d.ok m && a.ok m && 1 ≤ n.toNat && n.toNat ≤ ty.width
  | .vminh _ d a _ => d.ok m && a.ok m
  | .vsumw _ d a ty x => d.ok m && a.ok m && (!x || ty.isFloat)
  | .bexp _ d a _ ty _ => d.ok m && a.ok m && ty != .e4m3 && ty != .e5m2
  | .benc _ d a b _ ty _ => d.ok m && a.ok m && b.ok m && ty != .e4m3 && ty != .e5m2
  | .bdec _ d a b _ _ _ => d.ok m && a.ok m && b.ok m
  | .scput _ _ a b _ => a.ok m && b.ok m
  | .scget _ d _ _ => d.ok m
  | .scpair _ d _ b => d.ok m && b.ok m
  | .hdrw _ d a b => d.ok m && a.ok m && b.ok m
  | .hdrrFmt _ d a => d.ok m && a.ok m
  | .hdrrScale _ d a => d.ok m && a.ok m
  | .ld _ d a col sz sx => d.okLoad m && a.ok m && (!col || sz == 3) && (!sx || sz != 3)
  | .st _ a b col sz => a.ok m && b.ok m && (!col || sz == 3)
  | .ldl _ d a _ => d.ok m && a.ok m
  | .stl _ a b _ => a.ok m && b.ok m
  | .ldt _ d a _ _ => d.ok m && a.ok m
  | .ldx _ d a b col sz sx => d.okLoad m && a.ok m && b.ok m && (!col || sz == 3) && (!sx || sz != 3)
  | .stx _ v a b col sz => v.ok m && a.ok m && b.ok m && (!col || sz == 3)
  | .ldp _ d a sz sx => d.ok m && a.ok m && (!sx || sz != 3)
  | .stp _ a b _ => a.ok m && b.ok m
  | .pldx _ d a b sz sx => d.ok m && a.ok m && b.ok m && (!sx || sz != 3)
  | .pstx _ v a b _ => v.ok m && a.ok m && b.ok m
  | .dqld _ a sz line _ => a.ok m && (!line || sz == 3)
  | .dqst _ a b scp _ => a.ok m && b.ok m && scp.toNat ≤ 4
  | .dqpop _ d _ => d.ok m
  | .dqwt _ _ => true
  | .vld _ d a b scp => d.ok m && a.ok m && b.ok m && 1 ≤ scp.toNat && scp.toNat ≤ 4
  | .vst _ d a b scp => d.ok m && a.ok m && b.ok m && 1 ≤ scp.toNat && scp.toNat ≤ 4
  | .vrcl _ a b scp => a.ok m && b.ok m && 1 ≤ scp.toNat && scp.toNat ≤ 4
  | .agcfg _ a b => a.ok m && b.ok m
  | .agstart _ a b => a.ok m && b.ok m
  | .ageos _ a => a.ok m
  | .qtkt _ d a t => d.ok m && a.ok m && t.ok m
  | .qpush _ a b t scp => a.ok m && b.ok m && t.ok m && scp != 3
  | .qpop _ d a scp => d.ok m && a.ok m && scp != 3
  | .qcnt _ d a => d.ok m && a.ok m
  | .aadd _ d a b _ scp st => d.okSend m && a.ok m && b.ok m && scp != 3 && (m == .timed || st == 0)
  | .amin _ d a b _ scp st => d.okSend m && a.ok m && b.ok m && scp != 3 && (m == .timed || st == 0)
  | .amax _ d a b _ scp st => d.okSend m && a.ok m && b.ok m && scp != 3 && (m == .timed || st == 0)
  | .aminu _ d a b _ scp st => d.okSend m && a.ok m && b.ok m && scp != 3 && (m == .timed || st == 0)
  | .amaxu _ d a b _ scp st => d.okSend m && a.ok m && b.ok m && scp != 3 && (m == .timed || st == 0)
  | .aand _ d a b _ scp st => d.okSend m && a.ok m && b.ok m && scp != 3 && (m == .timed || st == 0)
  | .aor _ d a b _ scp st => d.okSend m && a.ok m && b.ok m && scp != 3 && (m == .timed || st == 0)
  | .axor _ d a b _ scp st => d.okSend m && a.ok m && b.ok m && scp != 3 && (m == .timed || st == 0)
  | .aswp _ d a b _ scp st => d.okSend m && a.ok m && b.ok m && scp != 3 && (m == .timed || st == 0)
  | .acas _ d a b _ scp st => d.okAcas m && a.ok m && b.ok m && scp != 3 && (m == .timed || st == 0)
  | .afadd _ d a b scp st _ => d.okSend m && a.ok m && b.ok m && scp != 3 && (m == .timed || st == 0)
  | .ainc _ d a b _ scp st => d.okSend m && a.ok m && b.ok m && scp != 3 && (m == .timed || st == 0)
  | .adec _ d a b _ scp st => d.okSend m && a.ok m && b.ok m && scp != 3 && (m == .timed || st == 0)
  | .redadd _ a b _ scp st => a.ok m && b.ok m && scp != 3 && (m == .timed || st == 0)
  | .redfadd _ a b scp st _ => a.ok m && b.ok m && scp != 3 && (m == .timed || st == 0)
  | .redmax _ a b _ scp st => a.ok m && b.ok m && scp != 3 && (m == .timed || st == 0)
  | .barinit _ a b => a.ok m && b.ok m
  | .barexp _ d a b scp _ => d.okSend m && a.ok m && b.ok m && scp != 0
  | .bararr _ d a b scp _ => d.okSend m && a.ok m && b.ok m && scp != 0
  | .barwt _ d a b scp => d.ok m && a.ok m && b.ok m && scp != 0
  | .bartst _ d a sel => d.ok m && a.ok m && sel != 3
  | .tlsig _ a b scp => a.ok m && b.ok m && 1 ≤ scp.toNat && scp.toNat ≤ 4
  | .tlwt _ a b scp => a.ok m && b.ok m && 1 ≤ scp.toNat && scp.toNat ≤ 4
  | .tlrd _ d a => d.ok m && a.ok m
  | .fence _ scp _ => scp.toNat ≤ 4
  | .drain _ => m == .timed
  | .wtick _ d a _ => d.ok m && a.ok m
  | .wtickRel _ d _ => d.ok m
  | .powq _ d a => d.okSend m && a.ok m
  | .powqWait _ d a => d.okSend m && a.ok m && m == .timed
  | .powrl _ a => a.ok m
  | .futwt _ d a b => d.okSend m && a.ok m && b.ok m && m == .block
  | .futset _ d a b => d.ok m && a.ok m && b.ok m
  | .futsetClr _ d a => d.ok m && a.ok m
  | .yield _ a => a.ok m && m == .block
  | .mxselAcq _ d a => d.okSend m && a.ok m
  | .mxselRel _ d a => d.okSend m && a.ok m
  | .mxldb _ d a b => d.okSend m && a.ok m && b.ok m
  | .mxswb _ d a => d.okSend m && a.ok m
  | .mxzero _ d a b => d.okSend m && a.ok m && b.ok m
  | .mxmacChan _ d a b => d.okSend m && a.ok m && b.ok m
  | .mxmacStore _ d a b => d.okSend m && a.ok m && b.ok m
  | .mxmacFill _ d a b c => d.okSend m && a.ok m && b.ok m && c.ok m
  | .mxmacPfill _ d a b c => d.okSend m && a.ok m && b.ok m && c.ok m
  | .mxsc _ d a b c _ => d.okSend m && a.ok m && b.ok m && c.ok m
  | .mxdrn _ d a b _ _ => d.okSend m && a.ok m && b.ok m
  | .mxacc _ d a b => d.okSend m && a.ok m && b.ok m
  | .mxsave _ d a b => d.okSend m && a.ok m && b.ok m
  | .mxrest _ d a b => d.okSend m && a.ok m && b.ok m
  | .mxst _ d a b c _ _ => d.okSend m && a.ok m && b.ok m && c.ok m
  | .mxcolRd _ d a b => d.ok m && a.ok m && b.ok m
  | .mxcolRet _ d a b => d.okSend m && a.ok m && b.ok m
  | .mxwst _ d a b => d.okSend m && a.ok m && b.ok m
  | .mxfmt _ d a b => d.okSend m && a.ok m && b.ok m
  | .mxpeekAcc _ d a b => d.ok m && a.ok m && b.ok m
  | .mxpeekSt _ d a => d.ok m && a.ok m
  | .mxpeekTa _ d a b => d.ok m && a.ok m && b.ok m
  | .mxpeekTb _ d a b => d.ok m && a.ok m && b.ok m
  | .sbind _ a b c => a.ok m && b.ok m && c.ok m
  | .scpy _ d a b => d.okSend m && a.ok m && b.ok m
  | .scpyChk _ d a b c => d.okSend m && a.ok m && b.ok m && c.ok m
  | .sgat _ d a => d.okSend m && a.ok m
  | .ssct _ d a => d.okSend m && a.ok m
  | .sred _ d a op ty x => d.okSend m && a.ok m && (!x || (ty == .f32 && op == .add))
  | .sfill _ d a b => d.okSend m && a.ok m && b.ok m
  | .scvt _ d a b c _ => d.okSend m && a.ok m && b.ok m && c.ok m
  | .scan _ d a b => d.okSend m && a.ok m && b.ok m
  | .sst _ d a => d.ok m && a.ok m
  | .sstFlags _ d a => d.ok m && a.ok m
  | .spat _ a b => a.ok m && b.ok m
  | .ccred _ d a b _ => d.okSend m && a.ok m && b.ok m
  | .ccbc _ d a b => d.okSend m && a.ok m && b.ok m
  | .ccag _ d a b => d.okSend m && a.ok m && b.ok m
  | .ccsend _ d a b c => d.okSend m && a.ok m && b.ok m && c.ok m
  | .ccrecv _ d a b c => d.okSend m && a.ok m && b.ok m && c.ok m
  | .ccbar _ d a b => d.okSend m && a.ok m && b.ok m
  | .br _ _ => m == .block
  | .exit _ a => a.ok m && m == .block
  | .nulSt _ m32 => m32.toNat < 2 ^ 31 && m == .block
  | .nulH _ m32 => m32.toNat < 2 ^ 8 && m == .block
  | .jpost _ d a b => d.okSend m && a.ok m && b.ok m
  | .jwait _ a b => a.ok m && b.ok m && m == .block
  | .launch _ d a b c st => d.okSend m && a.ok m && b.ok m && c.ok m && (m == .timed || st == 0)
  | .launchSeq _ d a c st => d.okSend m && a.ok m && c.ok m && (m == .timed || st == 0)
  | .cancel _ d a rel level => d.okSend m && a.ok m && (!rel || level == 0)
  | .cmpl _ d a _ => d.ok m && a.ok m
  | .cmplWait _ d a _ => d.ok m && a.ok m
  | .gfork _ d a b c => d.okSend m && a.ok m && b.ok m && c.ok m && m == .block
  | .grew _ d a b c => d.okSend m && a.ok m && b.ok m && c.ok m
  | .gbar _ d a => d.ok m && a.ok m
  | .gadv _ d a b => d.ok m && a.ok m && b.ok m
  | .gcan _ d a b => d.okSend m && a.ok m && b.ok m
  | .gcanAll _ d a => d.okSend m && a.ok m
  | .gst _ d a => d.ok m && a.ok m
  | .bcall _ _ _ => m == .block
  | .bret _ a => a.ok m && m == .block
  | .trap _ a code => a.ok m && 0xC0 ≤ code.toNat
  | .brk _ _ => true
  | .csrr _ d num => d.ok m && csrNumOk num
  | .csrw _ a num => a.ok m && csrNumOk num
  | .halt _ a => a.ok m
  | .trace _ a _ => a.ok m
  | .cfginv _ a => a.ok m
  | .cfginvAll _ => true
  | .stestRun _ d a => d.okSend m && a.ok m
  | .stestSt _ d a => d.ok m && a.ok m
  | .blockFetchMap _ => true
  | .blockCommit _ => true
  | .taskDispatch _ _ => true
  | .timeSliceExpiry _ => true
  | .cardFinish _ _ => true
  | .externalResultArrival _ => true
  | .scratchAccessPerformed _ => true
  | .dRequestPerformed _ _ => true
  | .arbiterSlotStart _ _ => true
  | .matrixCommandStart _ _ => true
  | .matrixCommandComplete _ _ => true
  | .matrixRowUpdate _ => true
  | .residueMismatch _ _ => true
  | .streamCommandStart _ => true
  | .streamBurst _ => true
  | .streamCommandComplete _ => true
  | .ingressFrameReceived _ _ _ _ => true
  | .placementGrant _ => true
  | .configCompleteWave _ _ => true
  | .drainToken _ _ => true
  | .quiescenceReport _ _ => true
  | .allocatorHeadTimeout _ _ => true
  | .regionMove _ _ _ _ => true
  | .tickBoundary => true
  | .timebaseLockLoss => true
  | .tableArmedStart _ _ => true
  | .laneReclaimStart _ _ _ => true
  | .tableEntryStart _ _ _ => true
  | .tableDeadlineOverrun _ _ _ => true
  | .fallbackBudgetEnd _ _ _ => true
  | .modeChangePoint _ _ => true
  | .drainLimitExpiry _ => true
  | .saveLimitExpiry _ => true
  | .contextSaveComplete _ => true
  | .contextRestoreComplete _ => true
  | .contextTeardownComplete _ => true
  | .publicationTimeout _ => true
  | .queueSlotGrant _ => true
  | .demotedQueueCheck _ => true
  | .stallDetected _ => true
  | .waitConditionMet _ => true
  | .nopPacket _ => true
  | .launchPacket _ => true
  | .deltaPacket _ => true
  | .copyPacket _ => true
  | .waitPacket _ => true
  | .signalPacket _ => true
  | .fencePacket _ => true
  | .tableInstall _ => true
  | .tableStart _ => true
  | .tableSwitch _ => true
  | .tableAcknowledge _ => true
  | .tableRemove _ => true
  | .modePrio _ => true
  | .modePause _ => true
  | .modePubto _ => true
  | .modeReslim _ => true
  | .graphPacket _ => true
  | .debugAttach _ => true
  | .debugDetach _ => true
  | .debugHalt _ => true
  | .debugResume _ => true
  | .debugReadState _ => true
  | .debugWriteState _ => true
  | .debugSetBreakpoint _ => true
  | .debugClearBreakpoint _ => true
  | .cancelPacket _ => true
  | .qctlEnable _ => true
  | .qctlDisable _ => true
  | .qctlRestart _ _ _ => true
  | .qctlResume _ => true
  | .qctlDoorbell _ => true
  | .ctxctlCreate _ _ => true
  | .ctxctlSave _ => true
  | .ctxctlRestore _ _ => true
  | .ctxctlTeardown _ => true
  | .ctxsaveWrite _ _ => true
  | .tbctlSettime => true
  | .tbctlStart => true
  | .tbadjWrite _ => true
  | .cfginvCsrWrite _ => true
  | .cfgInvalidationPerformed => true
  | .vminvWrite _ => true
  | .vmInvalidationPerformed => true
  | .futsetCsrWrite _ => true
  | .pgretireWrite _ => true
  | .expoolWrite _ _ => true
  | .chretireWrite _ _ => true
  | .channelMigrationDone _ => true
  | .attctlGo _ => true
  | .quoteComplete => true
  | .peercfgWrite _ => true
  | .shadowWrite _ _ => true
  | .cfgcacheWrite _ _ => true
  | .leaveBudgetWrite _ _ _ => true
  | .tlclrWrite _ _ => true
  | .ingressChannelWrite _ _ => true
  | .histcfgWrite _ _ _ => true
  | .trcctlWrite _ _ => true
  | .evidxWrite _ => true
  | .csrWriteOther _ _ _ _ => true
  | .hostCsrAccess _ _ _ _ => true
  | .groupDeadline _ => true
  | .groupCollection _ => true
  | .ccbarTimeout _ _ _ => true
  | .collectiveComplete _ => true
  | .flitReceived _ _ _ _ _ => true
  | .linkTrainingDone _ _ _ _ _ => true
  | .linkTrainingTimeout _ => true
  | .linkLaneFailure _ _ => true
  | .linkModuleFailure _ _ => true
  | .linkRetrainDone _ _ => true
  | .powerOnReset _ _ _ => true
  | .recoveryImageFrame _ _ => true
  | .configRecordWrite _ => true
  | .selfTestStart _ _ _ => true
  | .selfTestEnd _ _ _ _ => true
  | .selfTestOverdue _ => true
  | .ageingSample _ _ _ _ => true
  | .eccThresholdRetire _ _ => true
  | .thermalTrip _ => true
  | .pdbAccessPerformed _ => true
  | .sequencerStreamEnd _ _ => true
  | .ethernetAutoNegotiation _ _ => true

/-- Opcodes whose instructions carry an LSID of 0 to 30 in a block (R45). -/
def lsidOp (op : BitVec 8) : Bool :=
  (0x80 ≤ op.toNat && op.toNat ≤ 0x98) || (0xA0 ≤ op.toNat && op.toNat ≤ 0xAF)

/-- The head of an instruction with opcode `op`: PS = 0 with PN = 1 is reserved (R43), and the LSID follows R45. -/
def Hd.ok (op : BitVec 8) (h : Hd) : Bool :=
  !(h.ps == 0 && h.pn) && match h.place with
    | .timed _ _ => true
    | .block l => if lsidOp op then l.toNat ≤ 30 else l == 31

/-- A well-formed instruction word. A step of the device or an act of the host has no word and no condition. -/
def Instr.wf (i : Instr) : Bool :=
  match i.hd, i.opcode with
  | some h, some op => h.ok op && operandsOk h.place.form i
  | _, _ => true

end Sys2Proof
end

