-- ==== Sys2Proof/Machine/Num.lean ====
section
/-! DEFINITION. Numbers: exact dyadic reals, the five float formats and their one rounding, the transcendental functions,
split-exponent block floats, GS8 scales, the counter-based generator and CRC-32C (R17 to R35, R95). -/

namespace Sys2Proof.Machine

/-! ### Integers -/

/-- The low `w` bits of `n` read as two's complement. -/
def toSigned (w n : Nat) : Int :=
  let m := n % 2 ^ w
  if m < 2 ^ (w - 1) then (m : Int) else (m : Int) - (2 ^ w : Nat)

/-- `x` modulo 2^w: `Wrap` (R82). -/
def wrapInt (w : Nat) (x : Int) : Nat := (x % (2 ^ w : Nat)).toNat

def tySigned : ITy → Bool
  | .s8 => true
  | .s16 => true
  | .s32 => true
  | .s64 => true
  | _ => false

/-- The least value of a lane of `w` bits. -/
def laneMin (signed : Bool) (w : Nat) : Int := if signed then -((2 ^ (w - 1) : Nat) : Int) else 0

/-- The greatest value of a lane of `w` bits. -/
def laneMax (signed : Bool) (w : Nat) : Int :=
  if signed then ((2 ^ (w - 1) : Nat) : Int) - 1 else ((2 ^ w : Nat) : Int) - 1

/-! ### The flags of R63 -/

def flagNX : Flags := 0x01
def flagUF : Flags := 0x02
def flagOF : Flags := 0x04
def flagDZ : Flags := 0x08
def flagNV : Flags := 0x10
def flagSAT : Flags := 0x20

def flagIf (c : Bool) (f : Flags) : Flags := if c then f else 0

/-- `Sat` of R53: clamped to the range, with SAT when it clamps. -/
def satInt (signed : Bool) (w : Nat) (x : Int) : Nat × Flags :=
  if x < laneMin signed w then (wrapInt w (laneMin signed w), flagSAT)
  else if laneMax signed w < x then (wrapInt w (laneMax signed w), flagSAT)
  else (wrapInt w x, 0)

/-! ### Float formats (R19) -/

/-- A float datum read exactly: the magnitude of a finite one is `m * 2 ^ e`. -/
inductive Fp where
  | nan (signalling : Bool)
  | inf (neg : Bool)
  | fin (neg : Bool) (m : Nat) (e : Int)
deriving DecidableEq, Repr

def fracBits : FTy → Nat
  | .f16 => 10
  | .bf16 => 7
  | .f32 => 23
  | .e4m3 => 3
  | .e5m2 => 2

def expBias : FTy → Nat
  | .f16 => 15
  | .bf16 => 127
  | .f32 => 127
  | .e4m3 => 7
  | .e5m2 => 15

/-- The all-ones exponent field. -/
def expMax : FTy → Nat
  | .f16 => 31
  | .bf16 => 255
  | .f32 => 255
  | .e4m3 => 15
  | .e5m2 => 31

def hasInf : FTy → Bool
  | .e4m3 => false
  | _ => true

/-- The canonical NaN. -/
def canonNaN : FTy → Nat
  | .f16 => 0x7E00
  | .bf16 => 0x7FC0
  | .f32 => 0x7FC00000
  | .e4m3 => 0x7F
  | .e5m2 => 0x7E

def signBit (t : FTy) (neg : Bool) : Nat := if neg then 2 ^ (t.width - 1) else 0

/-- The encoding of an infinity; only formats that have one. -/
def infBits (t : FTy) (neg : Bool) : Nat := signBit t neg + expMax t * 2 ^ fracBits t

/-- The encoding of the largest finite value. -/
def maxFinBits (t : FTy) (neg : Bool) : Nat :=
  signBit t neg + (if hasInf t then expMax t * 2 ^ fracBits t - 1 else 0x7E)

/-- The largest finite magnitude as a mantissa and an exponent. -/
def maxFin (t : FTy) : Nat × Int :=
  if hasInf t then (2 ^ (fracBits t + 1) - 1, (expMax t : Int) - 1 - expBias t - fracBits t) else (14, 5)

/-- The datum of an encoding (R19, R20). -/
def decodeF (t : FTy) (bits : Nat) : Fp :=
  let f := fracBits t
  let frac := bits % 2 ^ f
  let ex := (bits >>> f) % (expMax t + 1)
  let neg := bits.testBit (t.width - 1)
  if ex = expMax t ∧ hasInf t then
    if frac = 0 then .inf neg else .nan (!frac.testBit (f - 1))
  else if t = .e4m3 ∧ ex = 15 ∧ frac = 7 then .nan false
  else if ex = 0 then .fin neg frac (1 - (expBias t : Int) - f)
  else .fin neg (frac + 2 ^ f) ((ex : Int) - expBias t - f)

def Fp.isNaN : Fp → Bool
  | .nan _ => true
  | _ => false

def Fp.isSig : Fp → Bool
  | .nan sg => sg
  | _ => false

def Fp.isInf : Fp → Bool
  | .inf _ => true
  | _ => false

def Fp.isZero : Fp → Bool
  | .fin _ m _ => m == 0
  | _ => false

def Fp.neg : Fp → Bool
  | .nan _ => false
  | .inf n => n
  | .fin n _ _ => n

def Fp.negate : Fp → Fp
  | .nan sg => .nan sg
  | .inf n => .inf (!n)
  | .fin n m e => .fin (!n) m e

/-- `m / 2 ^ sh` rounded to an integer in mode `rm` for a value of sign `neg`; whether it was inexact. -/
def roundShift (rm : Rm) (neg : Bool) (m sh : Nat) : Nat × Bool :=
  let q := m >>> sh
  let r := m % 2 ^ sh
  let up : Bool := match rm with
    | .rne => decide (2 ^ sh < 2 * r) || (2 * r == 2 ^ sh && q % 2 == 1)
    | .rtz => false
    | .rdn => neg && r != 0
    | .rup => !neg && r != 0
  ((if up && r != 0 then q + 1 else q), r != 0)

/-- The value `m * 2 ^ e` rounded to a multiple of 2^k. -/
def roundAt (rm : Rm) (neg : Bool) (m : Nat) (e k : Int) : Nat × Bool :=
  if k ≤ e then (m <<< (e - k).toNat, false) else roundShift rm neg m (k - e).toNat

/-- An overflow (R22). -/
def overflowF (t : FTy) (rm : Rm) (x neg : Bool) : Nat × Flags :=
  if x then (maxFinBits t neg, flagOF ||| flagNX ||| flagSAT)
  else if !hasInf t then (canonNaN t, flagOF ||| flagNX)
  else
    let toInf : Bool := match rm with
      | .rne => true
      | .rtz => false
      | .rdn => neg
      | .rup => !neg
    ((if toInf then infBits t neg else maxFinBits t neg), flagOF ||| flagNX)

/-- `Round` of R53 on a finite real of magnitude `m * 2 ^ e`: one rounding, with the overflow rules and the flags of R22. -/
def roundF (t : FTy) (rm : Rm) (x neg : Bool) (m : Nat) (e : Int) : Nat × Flags :=
  if m = 0 then (signBit t neg, 0)
  else
    let f := fracBits t
    let emin : Int := 1 - (expBias t : Int)
    let top : Int := (Nat.log2 m : Int) + e
    let free := roundAt rm neg m e (top - f)
    let k : Int := if top < emin then emin - f else top - f
    let r := roundAt rm neg m e k
    let freeTop : Int := (Nat.log2 free.1 : Int) + (top - f)
    let tiny : Bool := decide (freeTop < emin)
    let carry : Bool := decide (2 ^ (f + 1) ≤ r.1)
    let n := if carry then r.1 / 2 else r.1
    let k' : Int := if carry then k + 1 else k
    let big := maxFin t
    let big1 : Bool := if k' < big.2 then false else decide (big.1 < n <<< (k' - big.2).toNat)
    if big1 then overflowF t rm x neg
    else
      let field : Nat := if n < 2 ^ f then n else ((k' + f + expBias t).toNat) * 2 ^ f + (n - 2 ^ f)
      (signBit t neg + field, flagIf r.2 flagNX ||| flagIf (tiny && r.2) flagUF)

/-- An exact real with a bit that says whether a part above 0 and below one unit of `2 ^ e` was cut off. -/
def withSticky (m : Nat) (e : Int) (st : Bool) : Nat × Int := if st then (2 * m + 1, e - 1) else (m, e)

/-- A quiet result for a NaN among the operands: the canonical NaN, with NV for a signalling one (R20). -/
def nanResult (t : FTy) (ops : List Fp) : Nat × Flags := (canonNaN t, flagIf (ops.any Fp.isSig) flagNV)

/-- An invalid operation (R23). -/
def invalid (t : FTy) : Nat × Flags := (canonNaN t, flagNV)

/-- An infinity that an operand already held, brought to format `t` (R22). -/
def infConv (t : FTy) (x neg : Bool) : Nat × Flags :=
  if hasInf t then (infBits t neg, 0)
  else if x then (maxFinBits t neg, flagSAT) else (canonNaN t, flagNV)

/-- An infinity that a division by zero makes (R23, R24). Where the format has none the result is that of R22 for an
infinity, with DZ in place of NV (log entry 10). -/
def infByZero (t : FTy) (x neg : Bool) : Nat × Flags :=
  if hasInf t then (infBits t neg, flagDZ)
  else if x then (maxFinBits t neg, flagDZ ||| flagSAT) else (canonNaN t, flagDZ)

/-! ### Sums and products of exact values -/

/-- A signed dyadic: `m * 2 ^ e`. -/
structure Dy where
  m : Int
  e : Int
deriving DecidableEq, Repr

def Dy.zero : Dy := { m := 0, e := 0 }

def Dy.add (a b : Dy) : Dy :=
  if a.e ≤ b.e then { m := a.m + b.m * (2 ^ (b.e - a.e).toNat : Nat), e := a.e }
  else { m := a.m * (2 ^ (a.e - b.e).toNat : Nat) + b.m, e := b.e }

def Dy.mul (a b : Dy) : Dy := { m := a.m * b.m, e := a.e + b.e }

def Dy.ofFin (neg : Bool) (m : Nat) (e : Int) : Dy := { m := if neg then -(m : Int) else m, e := e }

/-- Whether `a < b`. -/
def Dy.lt (a b : Dy) : Bool := decide ((a.add { m := -b.m, e := b.e }).m < 0)

def Dy.eq (a b : Dy) : Bool := (a.add { m := -b.m, e := b.e }).m == 0

/-- The product of two data with IEEE 754's special cases; the flag is NV of zero times infinity. -/
def mulFp (a b : Fp) : Fp × Flags :=
  match a, b with
  | .nan s, .nan r => (.nan (s || r), 0)
  | .nan s, _ => (.nan s, 0)
  | _, .nan s => (.nan s, 0)
  | .inf n, y => if y.isZero then (.nan false, flagNV) else (.inf (n != y.neg), 0)
  | x, .inf n => if x.isZero then (.nan false, flagNV) else (.inf (n != x.neg), 0)
  | .fin n m e, .fin n' m' e' => (.fin (n != n') (m * m') (e + e'), 0)

def Fp.dy : Fp → Dy
  | .fin n m e => Dy.ofFin n m e
  | _ => Dy.zero

/-- The exact sum of the terms rounded once to `t`, with IEEE 754's special cases (R101, R111). -/
def sumFp (t : FTy) (rm : Rm) (x : Bool) (terms : List Fp) : Nat × Flags :=
  let opp := terms.any (fun v => v.isInf && v.neg) && terms.any (fun v => v.isInf && !v.neg)
  if terms.any Fp.isNaN || opp then
    (canonNaN t, flagIf (opp || terms.any Fp.isSig) flagNV)
  else match terms.find? Fp.isInf with
    | some v => infConv t x v.neg
    | none =>
      let d := terms.foldl (fun acc v => acc.add v.dy) Dy.zero
      if d.m = 0 then
        let neg := if terms.all Fp.neg then true else if terms.any Fp.neg then rm == .rdn else false
        (signBit t neg, 0)
      else roundF t rm x (decide (d.m < 0)) d.m.natAbs d.e

/-- The greater or the lesser of two lanes under R103: minus zero is below plus zero. -/
def minmaxFp (t : FTy) (isMax : Bool) (abits bbits : Nat) : Nat × Flags :=
  let a := decodeF t abits
  let b := decodeF t bbits
  if a.isNaN || b.isNaN then nanResult t [a, b]
  else
    let key (v : Fp) : Dy := match v with
      | .inf n => { m := if n then -1 else 1, e := 200 }
      | .fin n m e => if m = 0 then { m := if n then -1 else 0, e := -200 } else Dy.ofFin n m e
      | .nan _ => Dy.zero
    let less := (key a).lt (key b)
    (if isMax then (if less then bbits else abits) else (if less then abits else bbits), 0)

/-- Order of two data that are no NaN; zeros are equal. -/
def fpLt (a b : Fp) : Bool :=
  match a, b with
  | .inf n, .inf n' => n && !n'
  | .inf n, _ => n
  | _, .inf n => !n
  | _, _ => a.dy.lt b.dy

def fpEq (a b : Fp) : Bool :=
  match a, b with
  | .inf n, .inf n' => n == n'
  | .inf _, _ => false
  | _, .inf _ => false
  | _, _ => a.dy.eq b.dy

/-- A conversion between float formats (R20, R22, R107). -/
def convF (t : FTy) (rm : Rm) (x : Bool) (v : Fp) : Nat × Flags :=
  match v with
  | .nan sg => (canonNaN t, flagIf sg flagNV)
  | .inf n => infConv t x n
  | .fin n m e => roundF t rm x n m e

/-- A float to an integer of `w` bits (R18). -/
def toIntF (signed : Bool) (w : Nat) (rm : Rm) (v : Fp) : Nat × Flags :=
  match v with
  | .nan _ => (0, flagNV)
  | .inf n => (wrapInt w (if n then laneMin signed w else laneMax signed w), flagNV)
  | .fin n m e =>
    let r := roundAt rm n m e 0
    let i : Int := if n then -(r.1 : Int) else r.1
    if i < laneMin signed w then (wrapInt w (laneMin signed w), flagNV)
    else if laneMax signed w < i then (wrapInt w (laneMax signed w), flagNV)
    else (wrapInt w i, flagIf r.2 flagNX)

/-! ### Division, roots and transcendental functions (R24) -/

/-- Bits of the fixed-point fractions in which the transcendental functions are formed (log entry 11). -/
def fixBits : Nat := 400

/-- The integer square root of `n`, found bit by bit from 2^(k - 1) down. -/
def isqrtFrom : Nat → Nat → Nat → Nat
  | 0, _, r => r
  | k + 1, n, r => isqrtFrom k n (if (r + 2 ^ k) * (r + 2 ^ k) ≤ n then r + 2 ^ k else r)

def isqrt (n : Nat) : Nat := isqrtFrom (Nat.log2 n / 2 + 1) n 0

/-- x / y. -/
def divF (t : FTy) (rm : Rm) (x : Bool) (a b : Fp) : Nat × Flags :=
  let neg := a.neg != b.neg
  if a.isNaN || b.isNaN then nanResult t [a, b]
  else match a, b with
    | .inf _, .inf _ => invalid t
    | .inf _, _ => infConv t x neg
    | _, .inf _ => (signBit t neg, 0)
    | .fin _ m e, .fin _ m' e' =>
      if m' = 0 then (if m = 0 then invalid t else infByZero t x neg)
      else
        let n := m <<< 90
        let r := withSticky (n / m') (e - e' - 90) (n % m' != 0)
        roundF t rm x neg r.1 r.2
    | _, _ => nanResult t [a, b]

/-- √x. -/
def sqrtF (t : FTy) (rm : Rm) (x : Bool) (a : Fp) : Nat × Flags :=
  match a with
  | .nan _ => nanResult t [a]
  | .inf n => if n then invalid t else infConv t x false
  | .fin n m e =>
    if m = 0 then (signBit t n, 0)
    else if n then invalid t
    else
      let m' := if e % 2 = 0 then m <<< 100 else m <<< 101
      let e' : Int := if e % 2 = 0 then e - 100 else e - 101
      let r := isqrt m'
      let s := withSticky r (e' / 2) (r * r != m')
      roundF t rm x false s.1 s.2

/-- 1/√x. -/
def rsqF (t : FTy) (rm : Rm) (x : Bool) (a : Fp) : Nat × Flags :=
  match a with
  | .nan _ => nanResult t [a]
  | .inf n => if n then invalid t else (signBit t false, 0)
  | .fin n m e =>
    if m = 0 then infByZero t x n
    else if n then invalid t
    else
      let m' := if e % 2 = 0 then m else 2 * m
      let e' : Int := if e % 2 = 0 then e else e - 1
      let q := 2 ^ 200 / m'
      let r := isqrt q
      let s := withSticky r (-100 - e' / 2) (r * r * m' != 2 ^ 200)
      roundF t rm x false s.1 s.2

/-- The sum of `num * step ^ k / (2k + 1)` from the k-th term on, in fixed point: the series of atanh. -/
def atanhSeries : Nat → Nat → Nat → Nat → Nat → Nat
  | 0, _, _, _, acc => acc
  | fuel + 1, k, term, sq, acc =>
    atanhSeries fuel (k + 1) ((term * sq) >>> fixBits) sq (acc + term / (2 * k + 1))

/-- atanh(n / d) in fixed point, for n / d at most 1/3. -/
def atanhFix (n d : Nat) : Nat :=
  let z := (n <<< fixBits) / d
  atanhSeries 130 0 z ((z * z) >>> fixBits) 0

/-- ln 2 in fixed point. -/
def ln2Fix : Nat := 2 * atanhFix 1 3

/-- The exponential series from its k-th term. -/
def expSeries : Nat → Nat → Nat → Nat → Nat → Nat
  | 0, _, _, _, acc => acc
  | fuel + 1, k, term, z, acc => expSeries fuel (k + 1) ((term * z) >>> fixBits / (k + 1)) z (acc + term)

/-- e^z in fixed point for z in fixed point, 0 to 1. -/
def expFix (z : Nat) : Nat := expSeries 90 0 (2 ^ fixBits) z 0

/-- 2^x for a finite x that is no integer: the fraction of 2^x in fixed point and the integer part of x. -/
def exp2Parts (neg : Bool) (m : Nat) (e : Int) : Nat × Int :=
  let mag := (m <<< fixBits) >>> (-e).toNat
  let fx : Int := if neg then -(mag : Int) else mag
  let one : Int := (2 ^ fixBits : Nat)
  let n := fx / one
  let frac := (fx % one).toNat
  (expFix ((frac * ln2Fix) >>> fixBits), n)

def exp2F (t : FTy) (rm : Rm) (x : Bool) (a : Fp) : Nat × Flags :=
  match a with
  | .nan _ => nanResult t [a]
  | .inf n => if n then (signBit t false, 0) else infConv t x false
  | .fin neg m e =>
    if m = 0 then roundF t rm x false 1 0
    else if 10 ≤ (Nat.log2 m : Int) + e then roundF t rm x false 1 (if neg then -1000 else 1000)
    else
      let i := roundAt .rtz neg m e 0
      if !i.2 then roundF t rm x false 1 (if neg then -(i.1 : Int) else i.1)
      else
        let p := exp2Parts neg m e
        let s := withSticky (p.1 >>> 40) (p.2 - (fixBits - 40 : Nat)) true
        roundF t rm x false s.1 s.2

/-- log2 of `m` in [1, 2) taken as `m / 2 ^ k`, in fixed point. -/
def log2Fix (m k : Nat) : Nat := ((2 * atanhFix (m - 2 ^ k) (m + 2 ^ k)) <<< fixBits) / ln2Fix

def log2F (t : FTy) (rm : Rm) (x : Bool) (a : Fp) : Nat × Flags :=
  match a with
  | .nan _ => nanResult t [a]
  | .inf n => if n then invalid t else infConv t x false
  | .fin neg m e =>
    if m = 0 then infByZero t x true
    else if neg then invalid t
    else
      let k := Nat.log2 m
      let ex : Int := (k : Int) + e
      if m = 2 ^ k then roundF t rm x (decide (ex < 0)) ex.natAbs 0
      else
        let v : Int := ex * (2 ^ fixBits : Nat) + log2Fix m k
        let s := withSticky (v.natAbs >>> 40) (-((fixBits - 40 : Nat) : Int)) true
        roundF t rm x (decide (v < 0)) s.1 s.2

def tanhF (t : FTy) (rm : Rm) (x : Bool) (a : Fp) : Nat × Flags :=
  match a with
  | .nan _ => nanResult t [a]
  | .inf n => roundF t rm x n 1 0
  | .fin neg m e =>
    if m = 0 then (signBit t neg, 0)
    else
      let top : Int := (Nat.log2 m : Int) + e
      let s : Nat × Int :=
        if top < -60 then withSticky (m <<< 60 - 1) (e - 60) true
        else if 6 ≤ top then withSticky (2 ^ 60 - 1) (-60) true
        else
          let p : Nat × Int := exp2Parts true (2 * m * 2 ^ fixBits * 2 ^ 200 / ln2Fix) (e - 200)
          let z := p.1 >>> (-p.2).toNat
          withSticky ((((2 ^ fixBits - z) <<< fixBits) / (2 ^ fixBits + z)) >>> 40) (-((fixBits - 40 : Nat) : Int)) true
      roundF t rm x neg s.1 s.2

/-- x × 2^n (R102). A count beyond every format's range acts as 600 does. -/
def scaleF (t : FTy) (rm : Rm) (x : Bool) (a : Fp) (n : Int) : Nat × Flags :=
  match a with
  | .nan _ => nanResult t [a]
  | .inf neg => infConv t x neg
  | .fin neg m e =>
    let n' : Int := if n < -600 then -600 else if 600 < n then 600 else n
    if m = 0 then (signBit t neg, 0) else roundF t rm x neg m (e + n')

/-- An integral value in the same format (R108). -/
def rintF (t : FTy) (rm : Rm) (bits : Nat) : Nat × Flags :=
  match decodeF t bits with
  | .nan sg => nanResult t [.nan sg]
  | .inf _ => (bits, 0)
  | .fin neg m e =>
    let r := roundAt rm neg m e 0
    if m = 0 ∨ !r.2 then (bits, 0) else ((roundF t rm false neg r.1 0).1, flagNX)

/-- The class code of R109. -/
def classF (t : FTy) (bits : Nat) : Nat :=
  match decodeF t bits with
  | .nan sg => if sg then 0 else 1
  | .inf n => if n then 2 else 9
  | .fin n m _ =>
    if m = 0 then (if n then 5 else 6)
    else if m < 2 ^ fracBits t then (if n then 4 else 7)
    else (if n then 3 else 8)

/-! ### f32 shorthands -/

/-- `RoundNE32` (R53) on an exact value with the sign `neg0` of a zero. -/
def roundNE32 (d : Dy) (neg0 : Bool) : Nat × Flags :=
  if d.m = 0 then (signBit .f32 neg0, 0) else roundF .f32 .rne false (decide (d.m < 0)) d.m.natAbs d.e

/-! ### Split-exponent block floats (R25 to R29) -/

def sbfWidth : Sbf → Nat
  | .sbf4 => 4
  | .sbf6 => 6
  | .sbf8 => 8

def sbfQ (f : Sbf) : Nat := sbfWidth f - 2

/-- The value of an element against its exponents; none is NaN (R25). -/
def sbfVal (f : Sbf) (ea eb elem : Nat) : Fp :=
  let ex := if elem.testBit (sbfWidth f - 1) then eb else ea
  if ex = 0xFF then .nan false
  else .fin (elem.testBit (sbfWidth f - 2)) (elem % 2 ^ sbfQ f) ((ex : Int) - 127 - sbfQ f)

/-- The least e of 0 to 254 that fits the magnitude, searched upward; 255 when none does. -/
def sbfExpFrom : Nat → Nat → Nat → Nat → Int → Nat
  | 0, k, _, _, _ => k
  | fuel + 1, k, q, m, e =>
    if (roundAt .rne false m e ((k : Int) - 127 - q)).1 ≤ 2 ^ q - 1 then k else sbfExpFrom fuel (k + 1) q m e

/-- EB and EA of the largest magnitude of a block (R27, R28, R112). -/
def sbfExps (f : Sbf) (x : Bool) (v : Fp) : Nat × Nat × Flags :=
  let q := sbfQ f
  match v with
  | .nan _ => (0xFF, 0xFF, flagNV)
  | .inf _ => if x then (254, 254 - q - 1, flagSAT) else (0xFF, 0xFF, flagNV)
  | .fin _ m e =>
    if m = 0 then (0, 0, 0)
    else
      let start : Int := (Nat.log2 m : Int) + e + 127 - 1
      let s0 : Nat := if start < 0 then 0 else if 254 < start then 254 else start.toNat
      let k := if s0 ≤ 2 then sbfExpFrom 255 0 q m e else sbfExpFrom (255 - (s0 - 2)) (s0 - 2) q m e
      if k = 255 then (254, 254 - q - 1, flagSAT) else (k, k - q - 1, 0)

/-- One element against its exponents (R27, R113): the loop body of `benc`. -/
def sbfElem (f : Sbf) (x : Bool) (ea eb : Nat) (v : Fp) : Nat × Flags :=
  let w := sbfWidth f
  let q := sbfQ f
  let lim := 2 ^ q - 1
  let nanElem := 2 ^ (w - 1)
  let sgn (n : Bool) : Nat := if n then 2 ^ (w - 2) else 0
  match v with
  | .nan _ => (nanElem, flagIf (eb != 0xFF) flagNV)
  | .inf n =>
    if eb = 0xFF ∨ x = false then (nanElem, flagIf (eb != 0xFF) flagNV)
    else (2 ^ (w - 1) + sgn n + lim, flagSAT)
  | .fin n m e =>
    if eb = 0xFF then (nanElem, 0)
    else
      let ra := roundAt .rne false m e ((ea : Int) - 127 - q)
      if ea ≠ 0xFF ∧ ra.1 ≤ lim then (sgn n + ra.1, flagIf ra.2 flagNX)
      else
        let rb := roundAt .rne false m e ((eb : Int) - 127 - q)
        (2 ^ (w - 1) + sgn n + (if rb.1 ≤ lim then rb.1 else lim), flagIf (rb.2 || lim < rb.1) flagNX)

/-- The datum of greatest magnitude: a NaN or an infinity wins (R27, R28). -/
def maxMag (vs : List Fp) : Fp :=
  vs.foldl (fun acc v => match acc, v with
    | .nan s, _ => .nan s
    | _, .nan s => .nan s
    | .inf n, _ => .inf n
    | _, .inf n => .inf n
    | .fin n m e, .fin _ m' e' => if (Dy.ofFin false m e).lt (Dy.ofFin false m' e') then .fin false m' e' else .fin n m e)
    (.fin false 0 0)

/-- The quantiser of R27 and R28 on the 32 inputs of a block: EA, EB, the elements and the flags. -/
def quantBlock (f : Sbf) (x : Bool) (vs : List Fp) : Nat × Nat × List Nat × Flags :=
  let ex := sbfExps f x (maxMag vs)
  let es := vs.map (sbfElem f x ex.2.1 ex.1)
  (ex.2.1, ex.1, es.map Prod.fst, es.foldl (fun a p => a ||| p.2) ex.2.2)

/-- The value of a GS8 code as a dyadic; none for 0xFF (R29). -/
def gs8Val (g : Nat) : Option Dy :=
  let e := g / 8
  let f := g % 8
  if g = 0xFF then none
  else if e = 0 then some { m := f, e := -17 }
  else some { m := 8 + f, e := (e : Int) - 18 }

/-- The GS8 code nearest a positive magnitude, ties to even, before the limit (R29): 0xFF is 1.875 × 2^16 here. -/
def gs8Near (m : Nat) (e : Int) : Nat :=
  let top : Int := (Nat.log2 m : Int) + e
  if top < -14 then (roundAt .rne false m e (-17)).1
  else
    let r := (roundAt .rne false m e (top - 3)).1
    let code : Int := (top + 15) * 8 + (r : Int) - 8
    if 255 < code then 255 else code.toNat

/-- The GS8 encoding of an f32 value (R115). -/
def gs8Enc (bits : Nat) : Nat × Flags :=
  match decodeF .f32 bits with
  | .nan sg => (0xFF, flagIf sg flagNV)
  | .inf n => if n then (0xFF, flagNV) else (0xFE, flagSAT ||| flagNX)
  | .fin n m e =>
    if m = 0 then (0, 0)
    else if n then (0xFF, flagNV)
    else
      let g0 := gs8Near m e
      let g := if g0 = 0xFF then 0xFE else g0
      let exact := match gs8Val g with
        | some d => d.eq (Dy.ofFin false m e)
        | none => false
      (g, flagIf (g0 == 0xFF) flagSAT ||| flagIf (!exact) flagNX ||| flagIf (g == 0) flagUF)

/-- `Gs8` as an f32 encoding (R116): exact. -/
def gs8F32 (g : Nat) : Nat :=
  match gs8Val g with
  | none => canonNaN .f32
  | some d => (roundF .f32 .rne false false d.m.natAbs d.e).1

/-! ### The counter-based generator (R35) -/

def cbrngRound (x key kr rot : Nat) : Nat :=
  let M := 2 ^ 64
  let x1 := x ^^^ ((key + kr) % M)
  let x2 := (x1 * 0xA3B195C4E62D7F0B) % M
  let x3 := x2 ^^^ (x2 >>> 31)
  ((x3 <<< rot) % M) ||| (x3 >>> (64 - rot))

/-- `Cbrng(key, ctr)`. -/
def cbrng (key ctr : Nat) : Nat :=
  let a := cbrngRound ctr key 0x5A17C3E90B4D2F61 23
  let b := cbrngRound a key 0x8E2F6B03D7A91C45 41
  let c := cbrngRound b key 0x13C59E7AF04B86D2 13
  cbrngRound c key 0xC96D1F283AE5B70F 37

/-! ### CRC-32C (R15, R95) -/

def crcBits : Nat → Nat → Nat
  | 0, s => s
  | k + 1, s => crcBits k (if s % 2 = 1 then (s / 2) ^^^ 0x82F63B78 else s / 2)

def crcByte (s b : Nat) : Nat := crcBits 8 (s ^^^ (b % 256))

/-- The low `n` bytes of `b` taken into the state `s`. -/
def crcBytes : Nat → Nat → Nat → Nat
  | 0, s, _ => s
  | n + 1, s, b => crcBytes n (crcByte s b) (b / 256)

/-- The check value of a byte string (R15). -/
def crc32c (bs : List Byte) : Nat := (bs.foldl (fun s b => crcByte s b.toNat) 0xFFFFFFFF) ^^^ 0xFFFFFFFF

end Sys2Proof.Machine
end

