-- ==== Sys2Proof/Machine/Flags.lean ====
section
/-! DEFINITION. The result and the flags of every arithmetic instruction as functions of its operand words (R86 to R118):
no state, no destination. An instruction without flags answers the word alone. -/

namespace Sys2Proof.Machine

/-! ### 64-bit integers (R86 to R95) -/

def ofInt (x : Int) : Word := BitVec.ofInt 64 x

def boolWord (b : Bool) : Word := if b then 1 else 0

def alAbs (a : Word) : Word × Flags := (if a.toInt < 0 then 0 - a else a, flagIf (a == 0x8000000000000000) flagOF)

def alMulh (a b : Word) : Word := ofInt (a.toInt * b.toInt / (2 ^ 64 : Nat))

def alMulhu (a b : Word) : Word := Word.ofN (a.toNat * b.toNat / 2 ^ 64)

def alMin (a b : Word) : Word := if a.toInt < b.toInt then a else b

def alMax (a b : Word) : Word := if a.toInt < b.toInt then b else a

def alMinu (a b : Word) : Word := if a.toNat < b.toNat then a else b

def alMaxu (a b : Word) : Word := if a.toNat < b.toNat then b else a

/-- Leading zero bits, counted down from bit `n - 1`. -/
def clzFrom : Nat → Word → Nat
  | 0, _ => 0
  | n + 1, a => if a.getLsbD n then 0 else clzFrom n a + 1

/-- Trailing zero bits among the `n` bits from bit `k`. -/
def ctzFrom : Nat → Nat → Word → Nat
  | 0, _, _ => 0
  | n + 1, k, a => if a.getLsbD k then 0 else ctzFrom n (k + 1) a + 1

/-- One bits below bit `n`. -/
def popBelow : Nat → Word → Nat
  | 0, _ => 0
  | n + 1, a => popBelow n a + (if a.getLsbD n then 1 else 0)

/-- The low `n` bits of `a` in reverse order. -/
def brevFrom : Nat → Nat → Nat → Nat
  | 0, _, acc => acc
  | n + 1, a, acc => brevFrom n (a / 2) (2 * acc + a % 2)

/-- Quotient and remainder of R89, signed. -/
def divS (a b : Word) : Int × Int × Flags :=
  if b = 0 then (-1, a.toInt, flagDZ)
  else if a = 0x8000000000000000 ∧ b.toInt = -1 then (-(2 ^ 63 : Nat), 0, flagOF)
  else (a.toInt.tdiv b.toInt, a.toInt.tmod b.toInt, 0)

/-- Quotient and remainder of R89, unsigned. -/
def divU (a b : Word) : Nat × Nat × Flags :=
  if b = 0 then (2 ^ 64 - 1, a.toNat, flagDZ) else (a.toNat / b.toNat, a.toNat % b.toNat, 0)

/-- Sum and carry out (R90). -/
def addCarry (a b : Word) (cin : Bool) : Word × Bool :=
  let t := a.toNat + b.toNat + (if cin then 1 else 0)
  (Word.ofN t, decide (2 ^ 64 ≤ t))

/-- Difference and borrow out (R90). -/
def subBorrow (a b : Word) (cin : Bool) : Word × Bool :=
  let t : Int := (a.toNat : Int) - b.toNat - (if cin then 1 else 0)
  (ofInt t, decide (t < 0))

/-- Position and length of a bit field (R91). -/
def fieldPos (b : Word) : Nat := b.bits 0 6

def fieldLen (b : Word) : Nat := if 64 < b.bits 6 7 then 64 else b.bits 6 7

def alBfx (a b : Word) : Word := Word.ofN (a.bits (fieldPos b) (fieldLen b))

def alBfi (a b c : Word) : Word :=
  let p := fieldPos b
  let mask := Word.ofN ((2 ^ fieldLen b - 1) <<< p)
  (c &&& ~~~mask) ||| (Word.ofN (a.bits 0 (fieldLen b) <<< p) &&& mask)

/-- The width chosen by a two-bit code: 8, 16 or 32. -/
def extWidth (w : BitVec 2) : Nat := 8 * 2 ^ w.toNat

def alSext (w : Nat) (a : Word) : Word := ofInt (toSigned w a.toNat)

def alZext (w : Nat) (a : Word) : Word := Word.ofN (a.toNat % 2 ^ w)

def alMovk (a : Word) (imm : BitVec 16) (j : Nat) : Word :=
  (a &&& ~~~(Word.ofN (0xFFFF <<< (16 * j)))) ||| Word.ofN (imm.toNat <<< (16 * j))

/-- The truth of a condition (R96). -/
def condHolds (c : Cond) (a b : Word) : Bool :=
  match c with
  | .eq => a == b
  | .ne => a != b
  | .lt => decide (a.toInt < b.toInt)
  | .le => decide (a.toInt ≤ b.toInt)
  | .gt => decide (b.toInt < a.toInt)
  | .ge => decide (b.toInt ≤ a.toInt)
  | .ltu => decide (a.toNat < b.toNat)
  | .leu => decide (a.toNat ≤ b.toNat)
  | .gtu => decide (b.toNat < a.toNat)
  | .geu => decide (b.toNat ≤ a.toNat)
  | .tst => a &&& b != 0
  | .ntst => a &&& b == 0

/-! ### Lanes (R17, R53) -/

/-- Lane `i` of width `w` as its bits. -/
def laneBits (w : Nat) (v : Word) (i : Nat) : Nat := (v.toNat >>> (w * i)) % 2 ^ w

/-- A word from its lanes, lane 0 first. -/
def ofLanes (w : Nat) : List Nat → Nat
  | [] => 0
  | x :: xs => x % 2 ^ w + 2 ^ w * ofLanes w xs

/-- A word whose lane i is `f i`, with the flags of all lanes. -/
def mapLanes (w : Nat) (f : Nat → Nat × Flags) : Word × Flags :=
  let rs := (List.range (64 / w)).map f
  (Word.ofN (ofLanes w (rs.map Prod.fst)), rs.foldl (fun acc r => acc ||| r.2) 0)

/-- Lane `i` of an integer type as an integer. -/
def intLane (t : ITy) (v : Word) (i : Nat) : Int :=
  if tySigned t then toSigned t.width (laneBits t.width v i) else (laneBits t.width v i : Int)

/-- An exact integer as a lane: wrapped, or clamped when X is set (R101). -/
def intResult (t : ITy) (x : Bool) (r : Int) : Nat × Flags :=
  if x then satInt (tySigned t) t.width r else (wrapInt t.width r, 0)

/-- An operation on integer lanes that gives an exact integer. -/
def laneInt2 (t : ITy) (x : Bool) (f : Int → Int → Int) (a b : Word) : Word × Flags :=
  mapLanes t.width fun i => intResult t x (f (intLane t a i) (intLane t b i))

def fpLane (t : FTy) (v : Word) (i : Nat) : Fp := decodeF t (laneBits t.width v i)

/-- An operation on float lanes. -/
def laneFp1 (t : FTy) (f : Fp → Nat × Flags) (a : Word) : Word × Flags :=
  mapLanes t.width fun i => f (fpLane t a i)

def laneFp2 (t : FTy) (f : Fp → Fp → Nat × Flags) (a b : Word) : Word × Flags :=
  mapLanes t.width fun i => f (fpLane t a i) (fpLane t b i)

/-- The product of two lanes and an addend with the flags of the product (R102). -/
def fmaLane (t : FTy) (rm : Rm) (x : Bool) (p : Fp × Flags) (z : Fp) : Nat × Flags :=
  let r := sumFp t rm x [p.1, z]
  (r.1, r.2 ||| p.2)

def vAdd (t : Ty) (rm : Rm) (x : Bool) (a b : Word) : Word × Flags :=
  match t with
  | .int t => laneInt2 t x (· + ·) a b
  | .flt t => laneFp2 t (fun p q => sumFp t rm x [p, q]) a b

def vSub (t : Ty) (rm : Rm) (x : Bool) (a b : Word) : Word × Flags :=
  match t with
  | .int t => laneInt2 t x (· - ·) a b
  | .flt t => laneFp2 t (fun p q => sumFp t rm x [p, q.negate]) a b

def vMul (t : Ty) (rm : Rm) (x : Bool) (a b : Word) : Word × Flags :=
  match t with
  | .int t => laneInt2 t x (· * ·) a b
  | .flt t => laneFp2 t (fun p q =>
      let m := mulFp p q
      let r := sumFp t rm x [m.1]
      (r.1, r.2 ||| m.2)) a b

/-- x × y + z with the signs of the product and of the addend chosen (R102). -/
def vFma (t : FTy) (rm : Rm) (x negP negZ : Bool) (a b c : Word) : Word × Flags :=
  mapLanes t.width fun i =>
    let p := mulFp (fpLane t a i) (fpLane t b i)
    let z := fpLane t c i
    fmaLane t rm x (if negP then p.1.negate else p.1, p.2) (if negZ then z.negate else z)

def vMinMax (t : Ty) (isMax : Bool) (a b : Word) : Word × Flags :=
  match t with
  | .int t => laneInt2 t false (fun p q => if isMax then (if p < q then q else p) else (if p < q then p else q)) a b
  | .flt t => mapLanes t.width fun i => minmaxFp t isMax (laneBits t.width a i) (laneBits t.width b i)

/-- `vclamp`: the maximum first, then the minimum (R103). -/
def vClamp (t : Ty) (a b c : Word) : Word × Flags :=
  let m := vMinMax t true a b
  let r := vMinMax t false m.1 c
  (r.1, m.2 ||| r.2)

def vAbs (t : Ty) (x : Bool) (a : Word) : Word × Flags :=
  match t with
  | .int t => mapLanes t.width fun i => intResult t x (let p := intLane t a i; if p < 0 then -p else p)
  | .flt t => mapLanes t.width fun i => (laneBits t.width a i % 2 ^ (t.width - 1), 0)

def vNeg (t : Ty) (x : Bool) (a : Word) : Word × Flags :=
  match t with
  | .int t => mapLanes t.width fun i => intResult t x (0 - intLane t a i)
  | .flt t => mapLanes t.width fun i => (laneBits t.width a i ^^^ 2 ^ (t.width - 1), 0)

/-- Whether `vcmp` finds its condition in float lanes, and the flags (R104). -/
def fcond (c : Cond) (a b : Fp) : Bool × Flags :=
  if a.isNaN || b.isNaN then
    let quietCond := c == .eq || c == .ne
    (c == .ne, flagIf (if quietCond then a.isSig || b.isSig else true) flagNV)
  else (match c with
    | .eq => fpEq a b
    | .ne => !fpEq a b
    | .lt => fpLt a b
    | .le => fpLt a b || fpEq a b
    | .gt => fpLt b a
    | .ge => fpLt b a || fpEq a b
    | _ => false, 0)

def icond (t : ITy) (c : Cond) (a b : Nat) : Bool :=
  let v (n : Nat) : Int := if tySigned t then toSigned t.width n else (n : Int)
  match c with
  | .eq => a == b
  | .ne => a != b
  | .lt => decide (v a < v b)
  | .le => decide (v a ≤ v b)
  | .gt => decide (v b < v a)
  | .ge => decide (v b ≤ v a)
  | .ltu => decide (a < b)
  | .leu => decide (a ≤ b)
  | .gtu => decide (b < a)
  | .geu => decide (b ≤ a)
  | .tst => a &&& b != 0
  | .ntst => a &&& b == 0

def vCmp (t : Ty) (c : Cond) (a b : Word) : Word × Flags :=
  mapLanes t.width fun i =>
    let p := laneBits t.width a i
    let q := laneBits t.width b i
    let r : Bool × Flags := match t with
      | .int t => (icond t c p q, 0)
      | .flt t => fcond c (decodeF t p) (decodeF t q)
    (if r.1 then 2 ^ t.width - 1 else 0, r.2)

def vSel (w : Nat) (a b c : Word) : Word :=
  (mapLanes w fun i => (if laneBits w c i ≠ 0 then laneBits w a i else laneBits w b i, 0)).1

def vShuf (w : Nat) (a b c : Word) : Word :=
  let n := 64 / w
  (mapLanes w fun i =>
    let t := c.bits (8 * i) 8
    let k := t % 16
    (if t.testBit 7 ∨ 2 * n ≤ k then 0 else if k < n then laneBits w a k else laneBits w b (k - n), 0)).1

def vBcast (w j : Nat) (a : Word) : Word := (mapLanes w fun _ => (laneBits w a j, 0)).1

def vIns (w j : Nat) (a b : Word) : Word :=
  (mapLanes w fun i => (if i = j then laneBits w b 0 else laneBits w a i, 0)).1

def vExt (t : Ty) (j : Nat) (a : Word) : Word :=
  match t with
  | .int t => ofInt (intLane t a j)
  | .flt t => Word.ofN (laneBits t.width a j)

/-- Lanes narrowed to half width, keeping the signedness (R106). -/
def vPack (t : ITy) (x : Bool) (a b : Word) : Word × Flags :=
  let n := 64 / t.width
  mapLanes (t.width / 2) fun i =>
    let p := if i < n then intLane t a i else intLane t b (i - n)
    if x then satInt (tySigned t) (t.width / 2) p else (wrapInt (t.width / 2) p, 0)

/-- The float type of double width (R106). -/
def wideFTy : FTy → FTy
  | .f16 => .f32
  | .bf16 => .f32
  | .e4m3 => .f16
  | .e5m2 => .f16
  | .f32 => .f32

def vUnpk (t : Ty) (hi : Bool) (a : Word) : Word × Flags :=
  let w := t.width
  let off := if hi then 64 / w / 2 else 0
  mapLanes (2 * w) fun i => match t with
    | .int t => (wrapInt (2 * t.width) (intLane t a (off + i)), 0)
    | .flt t => convF (wideFTy t) .rne false (fpLane t a (off + i))

/-- One lane converted (R107). -/
def cvtLane (src dst : Ty) (rm : Rm) (x : Bool) (a : Word) (i : Nat) : Nat × Flags :=
  match src, dst with
  | .int s, .int d => intResult d x (intLane s a i)
  | .int s, .flt d =>
    let v := intLane s a i
    roundF d rm x (decide (v < 0)) v.natAbs 0
  | .flt s, .flt d => convF d rm x (fpLane s a i)
  | .flt s, .int d => toIntF (tySigned d) d.width rm (fpLane s a i)

def vCvt (src dst : Ty) (rm : Rm) (x : Bool) (a : Word) : Word × Flags :=
  mapLanes dst.width fun i => if i < 64 / src.width then cvtLane src dst rm x a i else (0, 0)

/-- The mode of `vrnd`: its own, or the mode in force (R108). -/
def rndMode (code : BitVec 3) (rm : Rm) : Rm :=
  match code.toNat with
  | 0 => .rne
  | 1 => .rtz
  | 2 => .rdn
  | 3 => .rup
  | _ => rm

def vRnd (t : FTy) (rm : Rm) (a : Word) : Word × Flags := mapLanes t.width fun i => rintF t rm (laneBits t.width a i)

/-- Shift of each lane by y mod w; `arith` copies the sign bit (R102). -/
def vShl (t : ITy) (a b : Word) : Word :=
  (mapLanes t.width fun i => (laneBits t.width a i <<< (laneBits t.width b i % t.width), 0)).1

def vShr (t : ITy) (a b : Word) : Word :=
  (mapLanes t.width fun i => (laneBits t.width a i >>> (laneBits t.width b i % t.width), 0)).1

def vSar (t : ITy) (a b : Word) : Word :=
  (mapLanes t.width fun i =>
    (wrapInt t.width (toSigned t.width (laneBits t.width a i) / (2 ^ (laneBits t.width b i % t.width) : Nat)), 0)).1

def vMulh (t : ITy) (a b : Word) : Word :=
  (mapLanes t.width fun i => (wrapInt t.width (intLane t a i * intLane t b i / (2 ^ t.width : Nat)), 0)).1

def vAvg (t : ITy) (a b : Word) : Word :=
  (mapLanes t.width fun i => (wrapInt t.width ((intLane t a i + intLane t b i + 1) / 2), 0)).1

def vMad (t : ITy) (x : Bool) (a b c : Word) : Word × Flags :=
  mapLanes t.width fun i => intResult t x (intLane t a i * intLane t b i + intLane t c i)

def vClass (t : FTy) (a : Word) : Word := (mapLanes t.width fun i => (classF t (laneBits t.width a i), 0)).1

def vCpsgn (t : FTy) (a b : Word) : Word :=
  let h := 2 ^ (t.width - 1)
  (mapLanes t.width fun i => (laneBits t.width a i % h + h * (laneBits t.width b i / h), 0)).1

/-- Clamped to an n-bit field of the lane's signedness (R110). -/
def vSatn (t : ITy) (n : Nat) (a : Word) : Word × Flags :=
  mapLanes t.width fun i =>
    let v := intLane t a i
    let lo := laneMin (tySigned t) n
    let hi := laneMax (tySigned t) n
    if v < lo then (wrapInt t.width lo, flagSAT)
    else if hi < v then (wrapInt t.width hi, flagSAT)
    else (wrapInt t.width v, 0)

/-- The terms of a horizontal operation. -/
def fpLanes (t : FTy) (a : Word) : List Fp := (List.range (64 / t.width)).map (fpLane t a)

def intLanes (t : ITy) (a : Word) : List Int := (List.range (64 / t.width)).map (intLane t a)

def vSum (t : Ty) (rm : Rm) (x : Bool) (a : Word) : Word × Flags :=
  match t with
  | .int t =>
    let r := intResult t x ((intLanes t a).foldl (· + ·) 0)
    (Word.ofN r.1, r.2)
  | .flt t =>
    let r := sumFp t rm x (fpLanes t a)
    (Word.ofN r.1, r.2)

/-- The sum widened: to 64 bits for integer lanes, to f32 for float lanes (R111). -/
def vSumw (t : Ty) (rm : Rm) (x : Bool) (a : Word) : Word × Flags :=
  match t with
  | .int t => (ofInt ((intLanes t a).foldl (· + ·) 0), 0)
  | .flt t =>
    let r := sumFp .f32 rm x (fpLanes t a)
    (Word.ofN r.1, r.2)

/-- The greatest or least lane (R111). -/
def vHoriz (t : Ty) (isMax : Bool) (a : Word) : Word × Flags :=
  match t with
  | .int t =>
    let ls := intLanes t a
    let pick (p q : Int) : Int := if isMax then (if p < q then q else p) else (if p < q then p else q)
    (Word.ofN (wrapInt t.width (ls.tail.foldl pick (ls.headD 0))), 0)
  | .flt t =>
    let ls := (List.range (64 / t.width)).map (laneBits t.width a)
    let sig := ls.any (fun b => (decodeF t b).isSig)
    let r := ls.tail.foldl (fun acc b => (minmaxFp t isMax acc b).1) (ls.headD 0)
    if ls.any (fun b => (decodeF t b).isNaN) then (Word.ofN (canonNaN t), flagIf sig flagNV) else (Word.ofN r, 0)

/-- `vdot` (R111). -/
def vDot (t : Ty) (rm : Rm) (x : Bool) (a b c : Word) : Word × Flags :=
  match t with
  | .int t =>
    let s := (List.range (64 / t.width)).foldl (fun acc i => acc + intLane t a i * intLane t b i) 0
    let c' : Int := if tySigned t then c.toInt else (c.toNat : Int)
    let r := if x then satInt (tySigned t) 64 (c' + s) else (wrapInt 64 (c' + s), 0)
    (Word.ofN r.1, r.2)
  | .flt t =>
    let ps := (List.range (64 / t.width)).map fun i => mulFp (fpLane t a i) (fpLane t b i)
    let r := sumFp .f32 rm x (decodeF .f32 (c.bits 0 32) :: ps.map Prod.fst)
    (Word.ofN r.1, ps.foldl (fun acc p => acc ||| p.2) r.2)

def vScale (t : FTy) (rm : Rm) (x : Bool) (a b : Word) : Word × Flags :=
  mapLanes t.width fun i => scaleF t rm x (fpLane t a i) (toSigned t.width (laneBits t.width b i))

/-! ### Narrow formats (R112 to R118) -/

def nfBexp (f : Sbf) (t : FTy) (x : Bool) (a : Word) : Word × Flags :=
  let r := sbfExps f x (fpLane t a 0)
  (Word.ofN (r.1 * 256 + r.2.1), r.2.2)

def nfBenc (f : Sbf) (t : FTy) (x : Bool) (a b : Word) : Word × Flags :=
  let rs := (fpLanes t a).map (sbfElem f x (b.bits 0 8) (b.bits 8 8))
  (Word.ofN (ofLanes (sbfWidth f) (rs.map Prod.fst)), rs.foldl (fun acc r => acc ||| r.2) 0)

def nfBdec (f : Sbf) (t : FTy) (rm : Rm) (x : Bool) (a b : Word) : Word × Flags :=
  mapLanes t.width fun i =>
    convF t rm x (sbfVal f (b.bits 0 8) (b.bits 8 8) (a.bits (sbfWidth f * i) (sbfWidth f)))

/-- The side band byte of `scput` (R115). -/
def nfSideByte (f32 : Bool) (b : Word) : Byte × Flags :=
  if f32 then
    let r := gs8Enc (b.bits 0 32)
    (BitVec.ofNat 8 r.1, r.2)
  else (BitVec.ofNat 8 b.toNat, 0)

/-- What `scget` makes of a side band byte (R116). -/
def nfSideVal (f32 : Bool) (g : Byte) : Word := if f32 then Word.ofN (gs8F32 g.toNat) else Word.ofN g.toNat

def nfPair (b : Word) (g : Byte) : Word := Word.ofN (b.bits 0 56 * 256 + g.toNat)

def nfHdrw (a b : Word) : Word := Word.ofN (b.bits 0 32 * 2 ^ 32 + a.bits 0 8)

end Sys2Proof.Machine
end

