-- ==== Sys2Proof/Config.lean ====
section
/-! DEFINITION. What an implementation fixes, and the free values: opaque constants about which nothing can be proved. -/

namespace Sys2Proof.Config

/-- Delay in cycles of the n-th untimed happening whose time the spec leaves open (log entry 5). -/
opaque freeDelay : Nat → Nat

/-- The n-th free 64-bit value the machine meets (log entry 6). -/
opaque freeWord : Nat → Word

/-- The fused `SECKEY` word of key slot `s` (R427: "fused"; log entry 7). -/
opaque fusedKey : Nat → Word

/-- Whether an HSS signature verifies under RFC 8554 for key slot `slot` (an external standard; log entry 7). -/
opaque lmsVerifies : Nat → List Byte → List Byte → Bool

/-- The HSS level count of a signature (RFC 8554; log entry 7). -/
opaque lmsLevels : List Byte → Nat

/-- SHA-256 of a byte string (an external standard named by R428; log entry 7). -/
opaque sha256 : List Byte → BitVec 256

/-- The HSS signature the security unit makes over a message with the n-th one-time key (R428; log entry 7). -/
opaque lmsSign : Nat → List Byte → List Byte

/-- Channel of die `d` that holds physical address `pa` when the channels of `mask` are retired:
the spec names an interleave and does not give it (R436; log entry 8). -/
opaque interleave : Nat → Nat → Nat → Nat

/-- Beats that a stream port of a region holds, minus 1: the spec says that a full one freezes, and gives no size (log entry 14). -/
opaque portDepth : Nat

/-- Whether a context may use tile `t` of the weight stack of island `i` of die `d`: the window of R169, which no chapter lays
down (log entry 15). -/
opaque tileWindow : Nat → Nat → Nat → Nat → Bool

/-- Beats in a row of a packet whose header does not give them: a reserved FMT, or no valid front tile (R173; log entry 16). -/
opaque packetRow : Nat → Nat

/-- The 32 bytes of a sequencer channel in a memory-tile record, from its numbers: the spec names what they hold and not where
(R345; log entry 29). -/
opaque chanRecord : List Nat → Nat

/-- The numbers of a sequencer channel read back from such a record (log entry 29). -/
opaque chanNumbers : Nat → List Nat

/-- One-time signatures of the attestation slot when the package is new (R428; log entry 7). -/
opaque attSignatures : Nat

/-- Usable bytes of device memory: 240 GiB (R11). -/
def deviceBytes : Nat := 240 * 2 ^ 30

end Sys2Proof.Config
end

