-- ==== Sys2Proof/Decode.lean ====
section
/-! DEFINITION. The instruction word: its fields, the decoder of both forms and the encoder (R38 to R52), and the block
header (R46, R47). The decoder is total and names what it rejects. -/

namespace Sys2Proof

/-- Why a word is no instruction: the rows of R52 in the order in which they are reported. -/
inductive Reject where
  /-- The opcode is undefined (R49). -/
  | undefined
  /-- The opcode is legal only in the other form, or is `bhdr` (R50). -/
  | form
  /-- A selector is reserved for its position (R41). -/
  | selector
  /-- An unused field is nonzero, or a field holds a reserved value (R40). -/
  | field
  /-- A reserved MC value (R39). -/
  | mc
  /-- PS = 0 with PN = 1 (R43). -/
  | pred
  /-- [58:52] or [7:5] nonzero in the block form (R38). -/
  | blockBits
  /-- The LSID rules of R45. -/
  | lsid
deriving DecidableEq, Repr

/-- A word cut at the boundaries of R38; `top` is [63:52]. -/
structure Fields where
  top : BitVec 12
  op : BitVec 8
  d : BitVec 8
  a : BitVec 8
  b : BitVec 8
  c : BitVec 8
  ps : BitVec 3
  pn : Bool
  stg : BitVec 3
  ty : BitVec 4
  x : Bool
deriving DecidableEq, Repr

def Fields.pack (f : Fields) : Word :=
  f.top ++ f.op ++ f.d ++ f.a ++ f.b ++ f.c ++ f.ps ++ BitVec.ofBool f.pn ++ f.stg ++ f.ty ++ BitVec.ofBool f.x

def Fields.unpack (w : Word) : Fields where
  top := w.extractLsb' 52 12
  op := w.extractLsb' 44 8
  d := w.extractLsb' 36 8
  a := w.extractLsb' 28 8
  b := w.extractLsb' 20 8
  c := w.extractLsb' 12 8
  ps := w.extractLsb' 9 3
  pn := w.getLsbD 8
  stg := w.extractLsb' 5 3
  ty := w.extractLsb' 1 4
  x := w.getLsbD 0

/-- `ok` under a condition, else the rejection. -/
def Reject.unless (c : Bool) (r : Reject) {α : Type} (v : α) : Except Reject α :=
  if c then .ok v else .error r

/-! ### Selectors (R41) -/

def Sel.src (m : Form) (s : BitVec 8) : Except Reject Src :=
  let n := s.toNat
  if n < 64 then .ok (.row s)
  else if n < 192 then
    if m = .timed then .ok (.row s) else if n < 72 then .ok (.h (s.extractLsb' 0 3)) else .error .selector
  else if n < 200 then .ok (.route (s.extractLsb' 0 3))
  else match n with
    | 200 => .ok .latch
    | 201 => .ok .north
    | 202 => .ok .east
    | 203 => .ok .south
    | 204 => .ok .west
    | 205 => .ok (.konst 0)
    | 206 => .ok (.konst 1)
    | 207 => .ok (.konst 2)
    | 208 => .ok (.konst 3)
    | 209 => .ok .zero
    | 210 => .ok .side
    | _ => .error .selector

def Sel.dst (m : Form) (s : BitVec 8) : Except Reject Dst :=
  let n := s.toNat
  if n < 64 then .ok (.row s)
  else if n < 192 then
    if m = .timed then .ok (.row s) else if n < 72 then .ok (.h (s.extractLsb' 0 3)) else .error .selector
  else if n < 200 then .ok (.route (s.extractLsb' 0 3))
  else match n with
    | 200 => .ok .latch
    | 209 => .ok .zero
    | _ => .error .selector

def Sel.dstLoad (m : Form) (s : BitVec 8) : Except Reject Dst := do
  let d ← Sel.dst m s
  Reject.unless (d.okLoad m) .selector d

def Sel.dstSend (m : Form) (s : BitVec 8) : Except Reject Dst := do
  let d ← Sel.dst m s
  Reject.unless (d.okSend m) .selector d

def Sel.dstAcas (m : Form) (s : BitVec 8) : Except Reject Dst := do
  let d ← Sel.dst m s
  Reject.unless (d.okAcas m) .selector d

/-- A destination that must be h0 to h7. -/
def Sel.dstH (s : BitVec 8) : Except Reject (BitVec 3) :=
  Reject.unless (64 ≤ s.toNat && s.toNat < 72) .selector (s.extractLsb' 0 3)

/-- The eight destinations of a line: the first selector names them (R130). -/
def Sel.lineDst (m : Form) (s : BitVec 8) : Except Reject LineDst :=
  if s.toNat = 192 then Reject.unless (m == .timed) .selector .routes
  else Reject.unless ((LineDst.rows s).ok m) .selector (.rows s)

def Sel.lineSrc (m : Form) (s : BitVec 8) : Except Reject LineSrc :=
  if s.toNat = 192 then Reject.unless (m == .timed) .selector .routes
  else Reject.unless ((LineSrc.rows s).ok m) .selector (.rows s)

/-- A selector that must name a route port. -/
def Sel.routeSel (s : BitVec 8) : Except Reject (BitVec 3) :=
  Reject.unless (192 ≤ s.toNat && s.toNat < 200) .selector (s.extractLsb' 0 3)

/-- The tag operand chosen by TG (R139). With TG = 1 the operand's field is unused. -/
def Sel.tag (m : Form) (ty : BitVec 4) (s : BitVec 8) : Except Reject Tag :=
  match ty.toNat with
  | 0 => do
    let t ← Sel.src m s
    .ok (.op t)
  | 1 => Reject.unless (m == .timed && s == 0) .field .inst
  | _ => .error .field

/-- The value of `dqst`: an element of size MC.SZ, or a line when TY[2] is set (R152). -/
def Sel.dqVal (m : Form) (f : Fields) : Except Reject DqVal :=
  if f.ty.getLsbD 2 then do
    let l ← Sel.lineSrc m f.b
    .ok (.line l)
  else do
    let s ← Sel.src m f.b
    .ok (.elem s (f.c.extractLsb' 5 2))

/-! ### Fields and codes (R40, and the entries) -/

def Fld.zero (s : BitVec 8) : Except Reject Unit := Reject.unless (s == 0) .field ()

/-- A predicate p1 to p7 as a destination code. -/
def Fld.pred1 (s : BitVec 8) : Except Reject (BitVec 3) :=
  Reject.unless (1 ≤ s.toNat && s.toNat < 8) .field (s.extractLsb' 0 3)

/-- A predicate p0 to p7 as a source code. -/
def Fld.pred0 (s : BitVec 8) : Except Reject (BitVec 3) :=
  Reject.unless (s.toNat < 8) .field (s.extractLsb' 0 3)

def Fld.imm16 (f : Fields) : Except Reject (BitVec 16) := .ok (f.b ++ f.c)

def Fld.imm6 (f : Fields) : Except Reject (BitVec 6) :=
  Reject.unless (f.b == 0 && f.c.toNat < 64) .field (f.c.extractLsb' 0 6)

def Fld.kget (f : Fields) : Except Reject (BitVec 4 × BitVec 2) :=
  Reject.unless (f.b == 0 && f.c.toNat < 64) .field (f.c.extractLsb' 2 4, f.c.extractLsb' 0 2)

def Fld.ident (m : Form) (f : Fields) : Except Reject (BitVec 4) :=
  Reject.unless (f.b == 0 && f.c.toNat < 16 && identOk m (f.c.extractLsb' 0 4)) .field (f.c.extractLsb' 0 4)

def Fld.trapCode (f : Fields) : Except Reject (BitVec 8) :=
  Reject.unless (f.b == 0 && 0xC0 ≤ f.c.toNat) .field f.c

def Fld.csrNum (f : Fields) : Except Reject (BitVec 16) :=
  Reject.unless (csrNumOk (f.b ++ f.c)) .field (f.b ++ f.c)

/-- The mask of `nul` over D, A, B and C: m[31] is 0 for `.st`, m[31:8] for `.h` (R263). -/
def Fld.nulMask (st : Bool) (f : Fields) : Except Reject (BitVec 32) :=
  let m := f.d ++ f.a ++ f.b ++ f.c
  Reject.unless (if st then decide (m.toNat < 2 ^ 31) else decide (m.toNat < 2 ^ 8)) .field m

def Fld.tyZero (f : Fields) : Except Reject Unit := Reject.unless (f.ty == 0) .field ()

/-- The lane type of a code (R101). -/
def Fld.tyOf (n : Nat) : Except Reject Ty :=
  match n with
  | 0 => .ok (.int .s8)
  | 1 => .ok (.int .s16)
  | 2 => .ok (.int .s32)
  | 3 => .ok (.int .s64)
  | 4 => .ok (.int .n8)
  | 5 => .ok (.int .n16)
  | 6 => .ok (.int .n32)
  | 7 => .ok (.flt .f16)
  | 8 => .ok (.flt .bf16)
  | 9 => .ok (.flt .f32)
  | 10 => .ok (.flt .e4m3)
  | 11 => .ok (.flt .e5m2)
  | _ => .error .field

def Fld.ty (f : Fields) : Except Reject Ty := Fld.tyOf f.ty.toNat

def Fld.ity (f : Fields) : Except Reject ITy :=
  match Fld.tyOf f.ty.toNat with
  | .ok (.int t) => .ok t
  | _ => .error .field

def Fld.fty (f : Fields) : Except Reject FTy :=
  match Fld.tyOf f.ty.toNat with
  | .ok (.flt t) => .ok t
  | _ => .error .field

/-- Float types f16, bf16 and f32 only. -/
def Fld.fty3 (f : Fields) : Except Reject FTy := do
  let t ← Fld.fty f
  Reject.unless (t != .e4m3 && t != .e5m2) .field t

/-- Source types of `vpack` (R106). -/
def Fld.packTy (f : Fields) : Except Reject ITy := do
  let t ← Fld.ity f
  Reject.unless (t != .s8 && t != .n8) .field t

/-- Source types of `vunpk` (R106). -/
def Fld.unpkTy (f : Fields) : Except Reject Ty := do
  let t ← Fld.ty f
  Reject.unless (t != .int .s64 && t != .flt .f32) .field t

def Fld.low3 (f : Fields) : Except Reject (BitVec 3) :=
  Reject.unless (f.ty.toNat < 8) .field (f.ty.extractLsb' 0 3)

def Fld.low2 (f : Fields) : Except Reject (BitVec 2) :=
  Reject.unless (f.ty.toNat < 4) .field (f.ty.extractLsb' 0 2)

def Fld.below3 (f : Fields) : Except Reject (BitVec 2) :=
  Reject.unless (f.ty.toNat < 3) .field (f.ty.extractLsb' 0 2)

/-- TY = base, base + 1 or base + 2: the width of `sext` and `zext` (R91). -/
def Fld.width3 (base : Nat) (f : Fields) : Except Reject (BitVec 2) :=
  Reject.unless (base ≤ f.ty.toNat && f.ty.toNat < base + 3) .field (f.ty.extractLsb' 0 2)

/-- The condition of a code (R96). -/
def Fld.cond (n : Nat) : Except Reject Cond :=
  match n with
  | 0 => .ok .eq
  | 1 => .ok .ne
  | 2 => .ok .lt
  | 3 => .ok .le
  | 4 => .ok .gt
  | 5 => .ok .ge
  | 6 => .ok .ltu
  | 7 => .ok .leu
  | 8 => .ok .gtu
  | 9 => .ok .geu
  | 10 => .ok .tst
  | 11 => .ok .ntst
  | _ => .error .field

/-- TY[3] negates p[TY[2:0]], which is not p0 (R99). -/
def Fld.negPred (f : Fields) : Except Reject (Bool × BitVec 3) :=
  Reject.unless (f.ty.extractLsb' 0 3 != 0) .field (f.ty.getLsbD 3, f.ty.extractLsb' 0 3)

/-- n8 (TY 4) or f32 (TY 9) (R115). -/
def Fld.n8f32 (f : Fields) : Except Reject Bool :=
  match f.ty.toNat with
  | 4 => .ok false
  | 9 => .ok true
  | _ => .error .field

/-- `.sx` of a load, with SZ 0 to 2 only (R130). -/
def Fld.sx (f : Fields) : Except Reject Bool :=
  match f.ty.toNat with
  | 0 => .ok false
  | 1 => Reject.unless (f.c.extractLsb' 5 2 != 3) .field true
  | _ => .error .field

/-- LINE and Q of `dqld` (R152). -/
def Fld.lineQ (f : Fields) : Except Reject (Bool × BitVec 2) :=
  Reject.unless (!f.ty.getLsbD 3) .field (f.ty.getLsbD 2, f.ty.extractLsb' 0 2)

/-- Q of `dqst`; LINE stands in its value operand (R152). -/
def Fld.lineQst (f : Fields) : Except Reject (BitVec 2) :=
  Reject.unless (!f.ty.getLsbD 3) .field (f.ty.extractLsb' 0 2)

/-- The status predicate of an instruction that reports through one in the timed form; 0 in a block (R142, R233). -/
def Fld.status (m : Form) (f : Fields) : Except Reject (BitVec 3) :=
  Reject.unless (f.ty.toNat < 8 && (m == .timed || f.ty == 0)) .field (f.ty.extractLsb' 0 3)

/-- The same with TY[3] already read as the variant. -/
def Fld.launchSt (m : Form) (f : Fields) : Except Reject (BitVec 3) :=
  Reject.unless (m == .timed || f.ty.extractLsb' 0 3 == 0) .field (f.ty.extractLsb' 0 3)

def Fld.parity (f : Fields) : Except Reject Parity :=
  match f.ty.toNat with
  | 0 => .ok .cur
  | 1 => .ok .even
  | 2 => .ok .odd
  | _ => .error .field

/-- Scopes 1 to 4 in TY (R164). -/
def Fld.scope14 (f : Fields) : Except Reject (BitVec 3) :=
  Reject.unless (1 ≤ f.ty.toNat && f.ty.toNat ≤ 4) .field (f.ty.extractLsb' 0 3)

def Fld.fenceKind (f : Fields) : Except Reject FenceKind :=
  match f.ty.toNat with
  | 1 => .ok .acq
  | 2 => .ok .rel
  | 3 => .ok .acqrel
  | _ => .error .field

def Fld.flag1 (f : Fields) : Except Reject Bool :=
  match f.ty.toNat with
  | 0 => .ok false
  | 1 => .ok true
  | _ => .error .field

def Fld.sredTy (f : Fields) : Except Reject SredTy :=
  match f.ty.toNat with
  | 2 => .ok .s32
  | 3 => .ok .s64
  | 9 => .ok .f32
  | _ => .error .field

def Fld.ccOp (f : Fields) : Except Reject CcOp :=
  match f.ty.toNat with
  | 0 => .ok .fadd
  | 1 => .ok .fmin
  | 2 => .ok .fmax
  | 3 => .ok .iadd
  | _ => .error .field

/-- `.rel` (TY 4) or a level 0 to 3 (R234). -/
def Fld.cancel (f : Fields) : Except Reject (Bool × BitVec 2) :=
  Reject.unless (f.ty.toNat ≤ 4) .field (f.ty.getLsbD 2, f.ty.extractLsb' 0 2)

/-- A level 0 to 3 in TY[1:0]; TY[3] is read as the variant (R235). -/
def Fld.level (f : Fields) : Except Reject (BitVec 2) :=
  Reject.unless (!f.ty.getLsbD 2) .field (f.ty.extractLsb' 0 2)

def Fld.timedOnly (m : Form) : Except Reject Unit := Reject.unless (m == .timed) .field ()

def Fld.vcond (t : Ty) (c : BitVec 8) : Except Reject Cond := do
  let k ← Fld.cond c.toNat
  Reject.unless (vcondOk t k) .field k

def Fld.half (c : BitVec 8) : Except Reject Bool :=
  match c.toNat with
  | 0 => .ok false
  | 1 => .ok true
  | _ => .error .field

/-- A lane index below `Lanes(ty)` (R105). -/
def Fld.lane (t : Ty) (c : BitVec 8) : Except Reject (BitVec 3) :=
  Reject.unless (c.toNat < t.lanes) .field (c.extractLsb' 0 3)

def Fld.rmode (c : BitVec 8) : Except Reject (BitVec 3) :=
  Reject.unless (c.toNat ≤ 4) .field (c.extractLsb' 0 3)

def Fld.satn (t : ITy) (c : BitVec 8) : Except Reject (BitVec 8) :=
  Reject.unless (1 ≤ c.toNat && c.toNat ≤ t.width) .field c

def Fld.sbf (c : BitVec 8) : Except Reject Sbf :=
  match c.toNat with
  | 0 => .ok .sbf4
  | 1 => .ok .sbf6
  | 2 => .ok .sbf8
  | _ => .error .field

def Fld.sredOp (c : BitVec 8) : Except Reject SredOp :=
  match c.toNat with
  | 0 => .ok .add
  | 1 => .ok .min
  | 2 => .ok .max
  | _ => .error .field

/-- Scopes 1 to 3 in C (R403). -/
def Fld.scope3 (c : BitVec 8) : Except Reject (BitVec 2) :=
  Reject.unless (1 ≤ c.toNat && c.toNat ≤ 3) .field (c.extractLsb' 0 2)

def Fld.xZero (f : Fields) : Except Reject Unit := Reject.unless (!f.x) .field ()

/-- X has a meaning for float lanes only. -/
def Fld.xFloat (t : Ty) (f : Fields) : Except Reject Bool :=
  Reject.unless (!f.x || t.isFloat) .field f.x

/-- X of `sred`: only for a float sum (R210). -/
def Fld.xSred (t : SredTy) (op : SredOp) (f : Fields) : Except Reject Bool :=
  Reject.unless (!f.x || (t == .f32 && op == .add)) .field f.x

/-! ### The memory control field (R39): [7] ORI, [6:5] SZ, [4] ETR, [3:0] SCP -/

def Mc.sz (c : BitVec 8) : BitVec 2 := c.extractLsb' 5 2

def Mc.scp (c : BitVec 8) : Nat := (c.extractLsb' 0 4).toNat

def Mc.element (f : Fields) : Except Reject (Bool × BitVec 2) :=
  Reject.unless (!f.c.getLsbD 4 && Mc.scp f.c == 0 && (!f.c.getLsbD 7 || Mc.sz f.c == 3)) .mc (f.c.getLsbD 7, Mc.sz f.c)

def Mc.line (f : Fields) : Except Reject Bool :=
  Reject.unless (f.c.extractLsb' 0 7 == 0) .mc (f.c.getLsbD 7)

/-- Orientation, and whether the elements are 16 bits wide (R123, R130). -/
def Mc.transpose (f : Fields) : Except Reject (Bool × Bool) :=
  Reject.unless (f.c.getLsbD 4 && Mc.scp f.c == 0 && (Mc.sz f.c).toNat < 2) .mc (f.c.getLsbD 7, Mc.sz f.c == 1)

def Mc.size (f : Fields) : Except Reject (BitVec 2) :=
  Reject.unless (!f.c.getLsbD 7 && !f.c.getLsbD 4 && Mc.scp f.c == 0) .mc (Mc.sz f.c)

def Mc.dqld (f : Fields) : Except Reject (BitVec 2) := do
  let sz ← Mc.size f
  Reject.unless (!f.ty.getLsbD 2 || sz == 3) .mc sz

def Mc.dqst (f : Fields) : Except Reject (BitVec 3) :=
  Reject.unless (!f.c.getLsbD 7 && !f.c.getLsbD 4 && Mc.scp f.c ≤ 4 && (!f.ty.getLsbD 2 || Mc.sz f.c == 3)) .mc
    (f.c.extractLsb' 0 3)

def Mc.versioned (f : Fields) : Except Reject (BitVec 3) :=
  Reject.unless (!f.c.getLsbD 7 && !f.c.getLsbD 4 && Mc.sz f.c == 3 && 1 ≤ Mc.scp f.c && Mc.scp f.c ≤ 4) .mc
    (f.c.extractLsb' 0 3)

def Mc.ring (f : Fields) : Except Reject (BitVec 2) :=
  Reject.unless (f.c.toNat < 3) .mc (f.c.extractLsb' 0 2)

/-- 64 bits (SZ 3) or 32 bits (SZ 2), and the scope 0 to 2 (R142). -/
def Mc.atomic (f : Fields) : Except Reject (Bool × BitVec 2) :=
  Reject.unless (!f.c.getLsbD 7 && !f.c.getLsbD 4 && 2 ≤ (Mc.sz f.c).toNat && Mc.scp f.c ≤ 2) .mc
    (Mc.sz f.c == 3, f.c.extractLsb' 0 2)

def Mc.atomic32 (f : Fields) : Except Reject (BitVec 2) :=
  Reject.unless (!f.c.getLsbD 7 && !f.c.getLsbD 4 && Mc.sz f.c == 2 && Mc.scp f.c ≤ 2) .mc (f.c.extractLsb' 0 2)

def Mc.fence (f : Fields) : Except Reject (BitVec 3) :=
  Reject.unless (f.c.toNat ≤ 4) .mc (f.c.extractLsb' 0 3)

/-! ### The opcodes -/

/-- Opcode 0x00: NOP. -/
def Parse.op00 (_m : Form) (f : Fields) : Except Reject (Hd → Instr) := do
  Fld.zero f.d
  Fld.zero f.a
  Fld.zero f.b
  Fld.zero f.c
  Fld.tyZero f
  Fld.xZero f
  .ok fun h => Instr.nop h

/-- Opcode 0x01: ADD. -/
def Parse.op01 (m : Form) (f : Fields) : Except Reject (Hd → Instr) := do
  let d ← Sel.dst m f.d
  let a ← Sel.src m f.a
  let b ← Sel.src m f.b
  Fld.zero f.c
  Fld.tyZero f
  Fld.xZero f
  .ok fun h => Instr.add h d a b

/-- Opcode 0x02: ADDI. -/
def Parse.op02 (m : Form) (f : Fields) : Except Reject (Hd → Instr) := do
  let d ← Sel.dst m f.d
  let a ← Sel.src m f.a
  let imm ← Fld.imm16 f
  Fld.tyZero f
  Fld.xZero f
  .ok fun h => Instr.addi h d a imm

/-- Opcode 0x03: SUB. -/
def Parse.op03 (m : Form) (f : Fields) : Except Reject (Hd → Instr) := do
  let d ← Sel.dst m f.d
  let a ← Sel.src m f.a
  let b ← Sel.src m f.b
  Fld.zero f.c
  Fld.tyZero f
  Fld.xZero f
  .ok fun h => Instr.sub h d a b

/-- Opcode 0x04: ADC. -/
def Parse.op04 (m : Form) (f : Fields) : Except Reject (Hd → Instr) := do
  let d ← Sel.dst m f.d
  let a ← Sel.src m f.a
  let b ← Sel.src m f.b
  Fld.zero f.c
  let cp ← Fld.low3 f
  Fld.xZero f
  .ok fun h => Instr.adc h d a b cp

/-- Opcode 0x05: SBB. -/
def Parse.op05 (m : Form) (f : Fields) : Except Reject (Hd → Instr) := do
  let d ← Sel.dst m f.d
  let a ← Sel.src m f.a
  let b ← Sel.src m f.b
  Fld.zero f.c
  let cp ← Fld.low3 f
  Fld.xZero f
  .ok fun h => Instr.sbb h d a b cp

/-- Opcode 0x06: MUL. -/
def Parse.op06 (m : Form) (f : Fields) : Except Reject (Hd → Instr) := do
  let d ← Sel.dst m f.d
  let a ← Sel.src m f.a
  let b ← Sel.src m f.b
  Fld.zero f.c
  Fld.tyZero f
  Fld.xZero f
  .ok fun h => Instr.mul h d a b

/-- Opcode 0x07: MULH. -/
def Parse.op07 (m : Form) (f : Fields) : Except Reject (Hd → Instr) := do
  let d ← Sel.dst m f.d
  let a ← Sel.src m f.a
  let b ← Sel.src m f.b
  Fld.zero f.c
  Fld.tyZero f
  Fld.xZero f
  .ok fun h => Instr.mulh h d a b

/-- Opcode 0x08: MULHU. -/
def Parse.op08 (m : Form) (f : Fields) : Except Reject (Hd → Instr) := do
  let d ← Sel.dst m f.d
  let a ← Sel.src m f.a
  let b ← Sel.src m f.b
  Fld.zero f.c
  Fld.tyZero f
  Fld.xZero f
  .ok fun h => Instr.mulhu h d a b

/-- Opcode 0x09: MAD. -/
def Parse.op09 (m : Form) (f : Fields) : Except Reject (Hd → Instr) := do
  let d ← Sel.dst m f.d
  let a ← Sel.src m f.a
  let b ← Sel.src m f.b
  let c ← Sel.src m f.c
  Fld.tyZero f
  Fld.xZero f
  .ok fun h => Instr.mad h d a b c

/-- Opcode 0x0A: DIV. -/
def Parse.op0A (m : Form) (f : Fields) : Except Reject (Hd → Instr) := do
  let d ← Sel.dst m f.d
  let a ← Sel.src m f.a
  let b ← Sel.src m f.b
  Fld.zero f.c
  Fld.tyZero f
  Fld.xZero f
  .ok fun h => Instr.div h d a b

/-- Opcode 0x0B: DIVU. -/
def Parse.op0B (m : Form) (f : Fields) : Except Reject (Hd → Instr) := do
  let d ← Sel.dst m f.d
  let a ← Sel.src m f.a
  let b ← Sel.src m f.b
  Fld.zero f.c
  Fld.tyZero f
  Fld.xZero f
  .ok fun h => Instr.divu h d a b

/-- Opcode 0x0C: REM. -/
def Parse.op0C (m : Form) (f : Fields) : Except Reject (Hd → Instr) := do
  let d ← Sel.dst m f.d
  let a ← Sel.src m f.a
  let b ← Sel.src m f.b
  Fld.zero f.c
  Fld.tyZero f
  Fld.xZero f
  .ok fun h => Instr.rem h d a b

/-- Opcode 0x0D: REMU. -/
def Parse.op0D (m : Form) (f : Fields) : Except Reject (Hd → Instr) := do
  let d ← Sel.dst m f.d
  let a ← Sel.src m f.a
  let b ← Sel.src m f.b
  Fld.zero f.c
  Fld.tyZero f
  Fld.xZero f
  .ok fun h => Instr.remu h d a b

/-- Opcode 0x0E: MIN. -/
def Parse.op0E (m : Form) (f : Fields) : Except Reject (Hd → Instr) := do
  let d ← Sel.dst m f.d
  let a ← Sel.src m f.a
  let b ← Sel.src m f.b
  Fld.zero f.c
  Fld.tyZero f
  Fld.xZero f
  .ok fun h => Instr.min h d a b

/-- Opcode 0x0F: MAX. -/
def Parse.op0F (m : Form) (f : Fields) : Except Reject (Hd → Instr) := do
  let d ← Sel.dst m f.d
  let a ← Sel.src m f.a
  let b ← Sel.src m f.b
  Fld.zero f.c
  Fld.tyZero f
  Fld.xZero f
  .ok fun h => Instr.max h d a b

/-- Opcode 0x10: MINU. -/
def Parse.op10 (m : Form) (f : Fields) : Except Reject (Hd → Instr) := do
  let d ← Sel.dst m f.d
  let a ← Sel.src m f.a
  let b ← Sel.src m f.b
  Fld.zero f.c
  Fld.tyZero f
  Fld.xZero f
  .ok fun h => Instr.minu h d a b

/-- Opcode 0x11: MAXU. -/
def Parse.op11 (m : Form) (f : Fields) : Except Reject (Hd → Instr) := do
  let d ← Sel.dst m f.d
  let a ← Sel.src m f.a
  let b ← Sel.src m f.b
  Fld.zero f.c
  Fld.tyZero f
  Fld.xZero f
  .ok fun h => Instr.maxu h d a b

/-- Opcode 0x12: ABS. -/
def Parse.op12 (m : Form) (f : Fields) : Except Reject (Hd → Instr) := do
  let d ← Sel.dst m f.d
  let a ← Sel.src m f.a
  Fld.zero f.b
  Fld.zero f.c
  Fld.tyZero f
  Fld.xZero f
  .ok fun h => Instr.abs h d a

/-- Opcode 0x13: AND. -/
def Parse.op13 (m : Form) (f : Fields) : Except Reject (Hd → Instr) := do
  let d ← Sel.dst m f.d
  let a ← Sel.src m f.a
  let b ← Sel.src m f.b
  Fld.zero f.c
  Fld.tyZero f
  Fld.xZero f
  .ok fun h => Instr.and h d a b

/-- Opcode 0x14: ANDI. -/
def Parse.op14 (m : Form) (f : Fields) : Except Reject (Hd → Instr) := do
  let d ← Sel.dst m f.d
  let a ← Sel.src m f.a
  let imm ← Fld.imm16 f
  Fld.tyZero f
  Fld.xZero f
  .ok fun h => Instr.andi h d a imm

/-- Opcode 0x15: OR. -/
def Parse.op15 (m : Form) (f : Fields) : Except Reject (Hd → Instr) := do
  let d ← Sel.dst m f.d
  let a ← Sel.src m f.a
  let b ← Sel.src m f.b
  Fld.zero f.c
  Fld.tyZero f
  Fld.xZero f
  .ok fun h => Instr.or h d a b

/-- Opcode 0x16: ORI. -/
def Parse.op16 (m : Form) (f : Fields) : Except Reject (Hd → Instr) := do
  let d ← Sel.dst m f.d
  let a ← Sel.src m f.a
  let imm ← Fld.imm16 f
  Fld.tyZero f
  Fld.xZero f
  .ok fun h => Instr.ori h d a imm

/-- Opcode 0x17: XOR. -/
def Parse.op17 (m : Form) (f : Fields) : Except Reject (Hd → Instr) := do
  let d ← Sel.dst m f.d
  let a ← Sel.src m f.a
  let b ← Sel.src m f.b
  Fld.zero f.c
  Fld.tyZero f
  Fld.xZero f
  .ok fun h => Instr.xor h d a b

/-- Opcode 0x18: XORI. -/
def Parse.op18 (m : Form) (f : Fields) : Except Reject (Hd → Instr) := do
  let d ← Sel.dst m f.d
  let a ← Sel.src m f.a
  let imm ← Fld.imm16 f
  Fld.tyZero f
  Fld.xZero f
  .ok fun h => Instr.xori h d a imm

/-- Opcode 0x19: ANDN. -/
def Parse.op19 (m : Form) (f : Fields) : Except Reject (Hd → Instr) := do
  let d ← Sel.dst m f.d
  let a ← Sel.src m f.a
  let b ← Sel.src m f.b
  Fld.zero f.c
  Fld.tyZero f
  Fld.xZero f
  .ok fun h => Instr.andn h d a b

/-- Opcode 0x1A: SHL. -/
def Parse.op1A (m : Form) (f : Fields) : Except Reject (Hd → Instr) := do
  let d ← Sel.dst m f.d
  let a ← Sel.src m f.a
  let b ← Sel.src m f.b
  Fld.zero f.c
  Fld.tyZero f
  Fld.xZero f
  .ok fun h => Instr.shl h d a b

/-- Opcode 0x1B: SHLI. -/
def Parse.op1B (m : Form) (f : Fields) : Except Reject (Hd → Instr) := do
  let d ← Sel.dst m f.d
  let a ← Sel.src m f.a
  let imm ← Fld.imm6 f
  Fld.tyZero f
  Fld.xZero f
  .ok fun h => Instr.shli h d a imm

/-- Opcode 0x1C: SHR. -/
def Parse.op1C (m : Form) (f : Fields) : Except Reject (Hd → Instr) := do
  let d ← Sel.dst m f.d
  let a ← Sel.src m f.a
  let b ← Sel.src m f.b
  Fld.zero f.c
  Fld.tyZero f
  Fld.xZero f
  .ok fun h => Instr.shr h d a b

/-- Opcode 0x1D: SHRI. -/
def Parse.op1D (m : Form) (f : Fields) : Except Reject (Hd → Instr) := do
  let d ← Sel.dst m f.d
  let a ← Sel.src m f.a
  let imm ← Fld.imm6 f
  Fld.tyZero f
  Fld.xZero f
  .ok fun h => Instr.shri h d a imm

/-- Opcode 0x1E: SAR. -/
def Parse.op1E (m : Form) (f : Fields) : Except Reject (Hd → Instr) := do
  let d ← Sel.dst m f.d
  let a ← Sel.src m f.a
  let b ← Sel.src m f.b
  Fld.zero f.c
  Fld.tyZero f
  Fld.xZero f
  .ok fun h => Instr.sar h d a b

/-- Opcode 0x1F: SARI. -/
def Parse.op1F (m : Form) (f : Fields) : Except Reject (Hd → Instr) := do
  let d ← Sel.dst m f.d
  let a ← Sel.src m f.a
  let imm ← Fld.imm6 f
  Fld.tyZero f
  Fld.xZero f
  .ok fun h => Instr.sari h d a imm

/-- Opcode 0x20: ROL. -/
def Parse.op20 (m : Form) (f : Fields) : Except Reject (Hd → Instr) := do
  let d ← Sel.dst m f.d
  let a ← Sel.src m f.a
  let b ← Sel.src m f.b
  Fld.zero f.c
  Fld.tyZero f
  Fld.xZero f
  .ok fun h => Instr.rol h d a b

/-- Opcode 0x21: CLZ. -/
def Parse.op21 (m : Form) (f : Fields) : Except Reject (Hd → Instr) := do
  let d ← Sel.dst m f.d
  let a ← Sel.src m f.a
  Fld.zero f.b
  Fld.zero f.c
  Fld.tyZero f
  Fld.xZero f
  .ok fun h => Instr.clz h d a

/-- Opcode 0x22: CTZ. -/
def Parse.op22 (m : Form) (f : Fields) : Except Reject (Hd → Instr) := do
  let d ← Sel.dst m f.d
  let a ← Sel.src m f.a
  Fld.zero f.b
  Fld.zero f.c
  Fld.tyZero f
  Fld.xZero f
  .ok fun h => Instr.ctz h d a

/-- Opcode 0x23: POPC. -/
def Parse.op23 (m : Form) (f : Fields) : Except Reject (Hd → Instr) := do
  let d ← Sel.dst m f.d
  let a ← Sel.src m f.a
  Fld.zero f.b
  Fld.zero f.c
  Fld.tyZero f
  Fld.xZero f
  .ok fun h => Instr.popc h d a

/-- Opcode 0x24: BREV. -/
def Parse.op24 (m : Form) (f : Fields) : Except Reject (Hd → Instr) := do
  let d ← Sel.dst m f.d
  let a ← Sel.src m f.a
  Fld.zero f.b
  Fld.zero f.c
  Fld.tyZero f
  Fld.xZero f
  .ok fun h => Instr.brev h d a

/-- Opcode 0x25: BFX. -/
def Parse.op25 (m : Form) (f : Fields) : Except Reject (Hd → Instr) := do
  let d ← Sel.dst m f.d
  let a ← Sel.src m f.a
  let b ← Sel.src m f.b
  Fld.zero f.c
  Fld.tyZero f
  Fld.xZero f
  .ok fun h => Instr.bfx h d a b

/-- Opcode 0x26: BFI. -/
def Parse.op26 (m : Form) (f : Fields) : Except Reject (Hd → Instr) := do
  let d ← Sel.dst m f.d
  let a ← Sel.src m f.a
  let b ← Sel.src m f.b
  let c ← Sel.src m f.c
  Fld.tyZero f
  Fld.xZero f
  .ok fun h => Instr.bfi h d a b c

/-- Opcode 0x27: SEXT. -/
def Parse.op27 (m : Form) (f : Fields) : Except Reject (Hd → Instr) := do
  let d ← Sel.dst m f.d
  let a ← Sel.src m f.a
  Fld.zero f.b
  Fld.zero f.c
  let w ← Fld.width3 0 f
  Fld.xZero f
  .ok fun h => Instr.sext h d a w

/-- Opcode 0x28: ZEXT. -/
def Parse.op28 (m : Form) (f : Fields) : Except Reject (Hd → Instr) := do
  let d ← Sel.dst m f.d
  let a ← Sel.src m f.a
  Fld.zero f.b
  Fld.zero f.c
  let w ← Fld.width3 4 f
  Fld.xZero f
  .ok fun h => Instr.zext h d a w

/-- Opcode 0x29: MOVH. -/
def Parse.op29 (m : Form) (f : Fields) : Except Reject (Hd → Instr) := do
  let d ← Sel.dst m f.d
  Fld.zero f.a
  let imm ← Fld.imm16 f
  Fld.tyZero f
  Fld.xZero f
  .ok fun h => Instr.movh h d imm

/-- Opcode 0x2A: MOVI. -/
def Parse.op2A (m : Form) (f : Fields) : Except Reject (Hd → Instr) := do
  let d ← Sel.dst m f.d
  Fld.zero f.a
  let imm ← Fld.imm16 f
  Fld.tyZero f
  Fld.xZero f
  .ok fun h => Instr.movi h d imm

/-- Opcode 0x2B: MOVK. -/
def Parse.op2B (m : Form) (f : Fields) : Except Reject (Hd → Instr) := do
  let d ← Sel.dst m f.d
  let a ← Sel.src m f.a
  let imm ← Fld.imm16 f
  let j ← Fld.low2 f
  Fld.xZero f
  .ok fun h => Instr.movk h d a imm j

/-- Opcode 0x2C: ADDSAT. -/
def Parse.op2C (m : Form) (f : Fields) : Except Reject (Hd → Instr) := do
  let d ← Sel.dst m f.d
  let a ← Sel.src m f.a
  let b ← Sel.src m f.b
  Fld.zero f.c
  let ty ← Fld.ity f
  Fld.xZero f
  .ok fun h => Instr.addsat h d a b ty

/-- Opcode 0x2D: SUBSAT. -/
def Parse.op2D (m : Form) (f : Fields) : Except Reject (Hd → Instr) := do
  let d ← Sel.dst m f.d
  let a ← Sel.src m f.a
  let b ← Sel.src m f.b
  Fld.zero f.c
  let ty ← Fld.ity f
  Fld.xZero f
  .ok fun h => Instr.subsat h d a b ty

/-- Opcode 0x2E: CBRNG. -/
def Parse.op2E (m : Form) (f : Fields) : Except Reject (Hd → Instr) := do
  let d ← Sel.dst m f.d
  let a ← Sel.src m f.a
  let b ← Sel.src m f.b
  Fld.zero f.c
  Fld.tyZero f
  Fld.xZero f
  .ok fun h => Instr.cbrng h d a b

/-- Opcode 0x2F: CRC. -/
def Parse.op2F (m : Form) (f : Fields) : Except Reject (Hd → Instr) := do
  let d ← Sel.dst m f.d
  let a ← Sel.src m f.a
  let b ← Sel.src m f.b
  Fld.zero f.c
  let n ← Fld.low2 f
  Fld.xZero f
  .ok fun h => Instr.crc h d a b n

/-- Opcode 0x30: CMP. -/
def Parse.op30 (m : Form) (f : Fields) : Except Reject (Hd → Instr) := do
  let a ← Sel.src m f.a
  let b ← Sel.src m f.b
  let pd ← Fld.pred1 f.d
  Fld.zero f.c
  let cond ← Fld.cond f.ty.toNat
  Fld.xZero f
  .ok fun h => Instr.cmp h pd a b cond

/-- Opcode 0x31: CMPI. -/
def Parse.op31 (m : Form) (f : Fields) : Except Reject (Hd → Instr) := do
  let a ← Sel.src m f.a
  let pd ← Fld.pred1 f.d
  let imm ← Fld.imm16 f
  let cond ← Fld.cond f.ty.toNat
  Fld.xZero f
  .ok fun h => Instr.cmpi h pd a imm cond

/-- Opcode 0x32: PLOG. -/
def Parse.op32 (_m : Form) (f : Fields) : Except Reject (Hd → Instr) := do
  let pd ← Fld.pred1 f.d
  let pa ← Fld.pred0 f.a
  let pb ← Fld.pred0 f.b
  Fld.zero f.c
  let fn := f.ty
  Fld.xZero f
  .ok fun h => Instr.plog h pd pa pb fn

/-- Opcode 0x33: PMOV_GET, PMOV_PUT. -/
def Parse.op33 (m : Form) (f : Fields) : Except Reject (Hd → Instr) := do
  if f.ty.toNat = 0 then
    let d ← Sel.dst m f.d
    Fld.zero f.a
    Fld.zero f.b
    Fld.zero f.c
    Fld.xZero f
    .ok fun h => Instr.pmovGet h d
  else if f.ty.toNat = 1 then
    let a ← Sel.src m f.a
    Fld.zero f.d
    Fld.zero f.b
    Fld.zero f.c
    Fld.xZero f
    .ok fun h => Instr.pmovPut h a
  else .error .field

/-- Opcode 0x34: SEL. -/
def Parse.op34 (m : Form) (f : Fields) : Except Reject (Hd → Instr) := do
  let d ← Sel.dst m f.d
  let a ← Sel.src m f.a
  let b ← Sel.src m f.b
  Fld.zero f.c
  let (neg, p) ← Fld.negPred f
  Fld.xZero f
  .ok fun h => Instr.sel h d a b neg p

/-- Opcode 0x35: MOV. -/
def Parse.op35 (m : Form) (f : Fields) : Except Reject (Hd → Instr) := do
  let d ← Sel.dst m f.d
  let a ← Sel.src m f.a
  Fld.zero f.b
  Fld.zero f.c
  Fld.tyZero f
  Fld.xZero f
  .ok fun h => Instr.mov h d a

/-- Opcode 0x36: KGET. -/
def Parse.op36 (m : Form) (f : Fields) : Except Reject (Hd → Instr) := do
  let d ← Sel.dst m f.d
  Fld.zero f.a
  let (n, j) ← Fld.kget f
  Fld.tyZero f
  Fld.xZero f
  .ok fun h => Instr.kget h d n j

/-- Opcode 0x37: GETID. -/
def Parse.op37 (m : Form) (f : Fields) : Except Reject (Hd → Instr) := do
  let d ← Sel.dst m f.d
  Fld.zero f.a
  let id ← Fld.ident m f
  Fld.tyZero f
  Fld.xZero f
  .ok fun h => Instr.getid h d id

/-- Opcode 0x38: PCNT. -/
def Parse.op38 (m : Form) (f : Fields) : Except Reject (Hd → Instr) := do
  let d ← Sel.dst m f.d
  let a ← Sel.src m f.a
  let b ← Sel.src m f.b
  Fld.zero f.c
  Fld.tyZero f
  Fld.xZero f
  .ok fun h => Instr.pcnt h d a b

/-- Opcode 0x40: VADD. -/
def Parse.op40 (m : Form) (f : Fields) : Except Reject (Hd → Instr) := do
  let d ← Sel.dst m f.d
  let a ← Sel.src m f.a
  let b ← Sel.src m f.b
  Fld.zero f.c
  let ty ← Fld.ty f
  let x := f.x
  .ok fun h => Instr.vadd h d a b ty x

/-- Opcode 0x41: VSUB. -/
def Parse.op41 (m : Form) (f : Fields) : Except Reject (Hd → Instr) := do
  let d ← Sel.dst m f.d
  let a ← Sel.src m f.a
  let b ← Sel.src m f.b
  Fld.zero f.c
  let ty ← Fld.ty f
  let x := f.x
  .ok fun h => Instr.vsub h d a b ty x

/-- Opcode 0x42: VMUL. -/
def Parse.op42 (m : Form) (f : Fields) : Except Reject (Hd → Instr) := do
  let d ← Sel.dst m f.d
  let a ← Sel.src m f.a
  let b ← Sel.src m f.b
  Fld.zero f.c
  let ty ← Fld.ty f
  let x := f.x
  .ok fun h => Instr.vmul h d a b ty x

/-- Opcode 0x43: VFMA. -/
def Parse.op43 (m : Form) (f : Fields) : Except Reject (Hd → Instr) := do
  let d ← Sel.dst m f.d
  let a ← Sel.src m f.a
  let b ← Sel.src m f.b
  let c ← Sel.src m f.c
  let ty ← Fld.fty f
  let x := f.x
  .ok fun h => Instr.vfma h d a b c ty x

/-- Opcode 0x44: VFMS. -/
def Parse.op44 (m : Form) (f : Fields) : Except Reject (Hd → Instr) := do
  let d ← Sel.dst m f.d
  let a ← Sel.src m f.a
  let b ← Sel.src m f.b
  let c ← Sel.src m f.c
  let ty ← Fld.fty f
  let x := f.x
  .ok fun h => Instr.vfms h d a b c ty x

/-- Opcode 0x45: VFNMA. -/
def Parse.op45 (m : Form) (f : Fields) : Except Reject (Hd → Instr) := do
  let d ← Sel.dst m f.d
  let a ← Sel.src m f.a
  let b ← Sel.src m f.b
  let c ← Sel.src m f.c
  let ty ← Fld.fty f
  let x := f.x
  .ok fun h => Instr.vfnma h d a b c ty x

/-- Opcode 0x46: VMIN. -/
def Parse.op46 (m : Form) (f : Fields) : Except Reject (Hd → Instr) := do
  let d ← Sel.dst m f.d
  let a ← Sel.src m f.a
  let b ← Sel.src m f.b
  Fld.zero f.c
  let ty ← Fld.ty f
  Fld.xZero f
  .ok fun h => Instr.vmin h d a b ty

/-- Opcode 0x47: VMAX. -/
def Parse.op47 (m : Form) (f : Fields) : Except Reject (Hd → Instr) := do
  let d ← Sel.dst m f.d
  let a ← Sel.src m f.a
  let b ← Sel.src m f.b
  Fld.zero f.c
  let ty ← Fld.ty f
  Fld.xZero f
  .ok fun h => Instr.vmax h d a b ty

/-- Opcode 0x48: VABS. -/
def Parse.op48 (m : Form) (f : Fields) : Except Reject (Hd → Instr) := do
  let d ← Sel.dst m f.d
  let a ← Sel.src m f.a
  Fld.zero f.b
  Fld.zero f.c
  let ty ← Fld.ty f
  let x := f.x
  .ok fun h => Instr.vabs h d a ty x

/-- Opcode 0x49: VNEG. -/
def Parse.op49 (m : Form) (f : Fields) : Except Reject (Hd → Instr) := do
  let d ← Sel.dst m f.d
  let a ← Sel.src m f.a
  Fld.zero f.b
  Fld.zero f.c
  let ty ← Fld.ty f
  let x := f.x
  .ok fun h => Instr.vneg h d a ty x

/-- Opcode 0x4A: VCMP. -/
def Parse.op4A (m : Form) (f : Fields) : Except Reject (Hd → Instr) := do
  let d ← Sel.dst m f.d
  let a ← Sel.src m f.a
  let b ← Sel.src m f.b
  let ty ← Fld.ty f
  let cond ← Fld.vcond ty f.c
  Fld.xZero f
  .ok fun h => Instr.vcmp h d a b cond ty

/-- Opcode 0x4B: VSEL. -/
def Parse.op4B (m : Form) (f : Fields) : Except Reject (Hd → Instr) := do
  let d ← Sel.dst m f.d
  let a ← Sel.src m f.a
  let b ← Sel.src m f.b
  let c ← Sel.src m f.c
  let ty ← Fld.ty f
  Fld.xZero f
  .ok fun h => Instr.vsel h d a b c ty

/-- Opcode 0x4C: VDIV. -/
def Parse.op4C (m : Form) (f : Fields) : Except Reject (Hd → Instr) := do
  let d ← Sel.dst m f.d
  let a ← Sel.src m f.a
  let b ← Sel.src m f.b
  Fld.zero f.c
  let ty ← Fld.fty f
  let x := f.x
  .ok fun h => Instr.vdiv h d a b ty x

/-- Opcode 0x4D: VSQRT. -/
def Parse.op4D (m : Form) (f : Fields) : Except Reject (Hd → Instr) := do
  let d ← Sel.dst m f.d
  let a ← Sel.src m f.a
  Fld.zero f.b
  Fld.zero f.c
  let ty ← Fld.fty f
  let x := f.x
  .ok fun h => Instr.vsqrt h d a ty x

/-- Opcode 0x4E: VRCP. -/
def Parse.op4E (m : Form) (f : Fields) : Except Reject (Hd → Instr) := do
  let d ← Sel.dst m f.d
  let a ← Sel.src m f.a
  Fld.zero f.b
  Fld.zero f.c
  let ty ← Fld.fty f
  let x := f.x
  .ok fun h => Instr.vrcp h d a ty x

/-- Opcode 0x4F: VRSQ. -/
def Parse.op4F (m : Form) (f : Fields) : Except Reject (Hd → Instr) := do
  let d ← Sel.dst m f.d
  let a ← Sel.src m f.a
  Fld.zero f.b
  Fld.zero f.c
  let ty ← Fld.fty f
  let x := f.x
  .ok fun h => Instr.vrsq h d a ty x

/-- Opcode 0x50: VEXP2. -/
def Parse.op50 (m : Form) (f : Fields) : Except Reject (Hd → Instr) := do
  let d ← Sel.dst m f.d
  let a ← Sel.src m f.a
  Fld.zero f.b
  Fld.zero f.c
  let ty ← Fld.fty f
  let x := f.x
  .ok fun h => Instr.vexp2 h d a ty x

/-- Opcode 0x51: VLOG2. -/
def Parse.op51 (m : Form) (f : Fields) : Except Reject (Hd → Instr) := do
  let d ← Sel.dst m f.d
  let a ← Sel.src m f.a
  Fld.zero f.b
  Fld.zero f.c
  let ty ← Fld.fty f
  let x := f.x
  .ok fun h => Instr.vlog2 h d a ty x

/-- Opcode 0x52: VTANH. -/
def Parse.op52 (m : Form) (f : Fields) : Except Reject (Hd → Instr) := do
  let d ← Sel.dst m f.d
  let a ← Sel.src m f.a
  Fld.zero f.b
  Fld.zero f.c
  let ty ← Fld.fty f
  let x := f.x
  .ok fun h => Instr.vtanh h d a ty x

/-- Opcode 0x53: VSCALE. -/
def Parse.op53 (m : Form) (f : Fields) : Except Reject (Hd → Instr) := do
  let d ← Sel.dst m f.d
  let a ← Sel.src m f.a
  let b ← Sel.src m f.b
  Fld.zero f.c
  let ty ← Fld.fty f
  let x := f.x
  .ok fun h => Instr.vscale h d a b ty x

/-- Opcode 0x54: VCLAMP. -/
def Parse.op54 (m : Form) (f : Fields) : Except Reject (Hd → Instr) := do
  let d ← Sel.dst m f.d
  let a ← Sel.src m f.a
  let b ← Sel.src m f.b
  let c ← Sel.src m f.c
  let ty ← Fld.ty f
  Fld.xZero f
  .ok fun h => Instr.vclamp h d a b c ty

/-- Opcode 0x55: VSUM. -/
def Parse.op55 (m : Form) (f : Fields) : Except Reject (Hd → Instr) := do
  let d ← Sel.dst m f.d
  let a ← Sel.src m f.a
  Fld.zero f.b
  Fld.zero f.c
  let ty ← Fld.ty f
  let x := f.x
  .ok fun h => Instr.vsum h d a ty x

/-- Opcode 0x56: VMAXH. -/
def Parse.op56 (m : Form) (f : Fields) : Except Reject (Hd → Instr) := do
  let d ← Sel.dst m f.d
  let a ← Sel.src m f.a
  Fld.zero f.b
  Fld.zero f.c
  let ty ← Fld.ty f
  Fld.xZero f
  .ok fun h => Instr.vmaxh h d a ty

/-- Opcode 0x57: VDOT. -/
def Parse.op57 (m : Form) (f : Fields) : Except Reject (Hd → Instr) := do
  let d ← Sel.dst m f.d
  let a ← Sel.src m f.a
  let b ← Sel.src m f.b
  let c ← Sel.src m f.c
  let ty ← Fld.ty f
  let x := f.x
  .ok fun h => Instr.vdot h d a b c ty x

/-- Opcode 0x58: VSHUF. -/
def Parse.op58 (m : Form) (f : Fields) : Except Reject (Hd → Instr) := do
  let d ← Sel.dst m f.d
  let a ← Sel.src m f.a
  let b ← Sel.src m f.b
  let c ← Sel.src m f.c
  let ty ← Fld.ty f
  Fld.xZero f
  .ok fun h => Instr.vshuf h d a b c ty

/-- Opcode 0x59: VPACK. -/
def Parse.op59 (m : Form) (f : Fields) : Except Reject (Hd → Instr) := do
  let d ← Sel.dst m f.d
  let a ← Sel.src m f.a
  let b ← Sel.src m f.b
  Fld.zero f.c
  let ty ← Fld.packTy f
  let x := f.x
  .ok fun h => Instr.vpack h d a b ty x

/-- Opcode 0x5A: VUNPK. -/
def Parse.op5A (m : Form) (f : Fields) : Except Reject (Hd → Instr) := do
  let d ← Sel.dst m f.d
  let a ← Sel.src m f.a
  Fld.zero f.b
  let ty ← Fld.unpkTy f
  let hi ← Fld.half f.c
  Fld.xZero f
  .ok fun h => Instr.vunpk h d a hi ty

/-- Opcode 0x5B: VBCAST. -/
def Parse.op5B (m : Form) (f : Fields) : Except Reject (Hd → Instr) := do
  let d ← Sel.dst m f.d
  let a ← Sel.src m f.a
  Fld.zero f.b
  let ty ← Fld.ty f
  let j ← Fld.lane ty f.c
  Fld.xZero f
  .ok fun h => Instr.vbcast h d a j ty

/-- Opcode 0x5C: VINS. -/
def Parse.op5C (m : Form) (f : Fields) : Except Reject (Hd → Instr) := do
  let d ← Sel.dst m f.d
  let a ← Sel.src m f.a
  let b ← Sel.src m f.b
  let ty ← Fld.ty f
  let j ← Fld.lane ty f.c
  Fld.xZero f
  .ok fun h => Instr.vins h d a b j ty

/-- Opcode 0x5D: VEXT. -/
def Parse.op5D (m : Form) (f : Fields) : Except Reject (Hd → Instr) := do
  let d ← Sel.dst m f.d
  let a ← Sel.src m f.a
  Fld.zero f.b
  let ty ← Fld.ty f
  let j ← Fld.lane ty f.c
  Fld.xZero f
  .ok fun h => Instr.vext h d a j ty

/-- Opcode 0x5E: VCVT. -/
def Parse.op5E (m : Form) (f : Fields) : Except Reject (Hd → Instr) := do
  let d ← Sel.dst m f.d
  let a ← Sel.src m f.a
  Fld.zero f.b
  let ty ← Fld.ty f
  let dst ← Fld.tyOf f.c.toNat
  let x := f.x
  .ok fun h => Instr.vcvt h d a dst ty x

/-- Opcode 0x5F: VRND. -/
def Parse.op5F (m : Form) (f : Fields) : Except Reject (Hd → Instr) := do
  let d ← Sel.dst m f.d
  let a ← Sel.src m f.a
  Fld.zero f.b
  let ty ← Fld.fty f
  let mode ← Fld.rmode f.c
  Fld.xZero f
  .ok fun h => Instr.vrnd h d a mode ty

/-- Opcode 0x60: VAND. -/
def Parse.op60 (m : Form) (f : Fields) : Except Reject (Hd → Instr) := do
  let d ← Sel.dst m f.d
  let a ← Sel.src m f.a
  let b ← Sel.src m f.b
  Fld.zero f.c
  let ty ← Fld.ty f
  Fld.xZero f
  .ok fun h => Instr.vand h d a b ty

/-- Opcode 0x61: VOR. -/
def Parse.op61 (m : Form) (f : Fields) : Except Reject (Hd → Instr) := do
  let d ← Sel.dst m f.d
  let a ← Sel.src m f.a
  let b ← Sel.src m f.b
  Fld.zero f.c
  let ty ← Fld.ty f
  Fld.xZero f
  .ok fun h => Instr.vor h d a b ty

/-- Opcode 0x62: VXOR. -/
def Parse.op62 (m : Form) (f : Fields) : Except Reject (Hd → Instr) := do
  let d ← Sel.dst m f.d
  let a ← Sel.src m f.a
  let b ← Sel.src m f.b
  Fld.zero f.c
  let ty ← Fld.ty f
  Fld.xZero f
  .ok fun h => Instr.vxor h d a b ty

/-- Opcode 0x63: VSHL. -/
def Parse.op63 (m : Form) (f : Fields) : Except Reject (Hd → Instr) := do
  let d ← Sel.dst m f.d
  let a ← Sel.src m f.a
  let b ← Sel.src m f.b
  Fld.zero f.c
  let ty ← Fld.ity f
  Fld.xZero f
  .ok fun h => Instr.vshl h d a b ty

/-- Opcode 0x64: VSHR. -/
def Parse.op64 (m : Form) (f : Fields) : Except Reject (Hd → Instr) := do
  let d ← Sel.dst m f.d
  let a ← Sel.src m f.a
  let b ← Sel.src m f.b
  Fld.zero f.c
  let ty ← Fld.ity f
  Fld.xZero f
  .ok fun h => Instr.vshr h d a b ty

/-- Opcode 0x65: VSAR. -/
def Parse.op65 (m : Form) (f : Fields) : Except Reject (Hd → Instr) := do
  let d ← Sel.dst m f.d
  let a ← Sel.src m f.a
  let b ← Sel.src m f.b
  Fld.zero f.c
  let ty ← Fld.ity f
  Fld.xZero f
  .ok fun h => Instr.vsar h d a b ty

/-- Opcode 0x66: VMULH. -/
def Parse.op66 (m : Form) (f : Fields) : Except Reject (Hd → Instr) := do
  let d ← Sel.dst m f.d
  let a ← Sel.src m f.a
  let b ← Sel.src m f.b
  Fld.zero f.c
  let ty ← Fld.ity f
  Fld.xZero f
  .ok fun h => Instr.vmulh h d a b ty

/-- Opcode 0x67: VAVG. -/
def Parse.op67 (m : Form) (f : Fields) : Except Reject (Hd → Instr) := do
  let d ← Sel.dst m f.d
  let a ← Sel.src m f.a
  let b ← Sel.src m f.b
  Fld.zero f.c
  let ty ← Fld.ity f
  Fld.xZero f
  .ok fun h => Instr.vavg h d a b ty

/-- Opcode 0x68: VCLASS. -/
def Parse.op68 (m : Form) (f : Fields) : Except Reject (Hd → Instr) := do
  let d ← Sel.dst m f.d
  let a ← Sel.src m f.a
  Fld.zero f.b
  Fld.zero f.c
  let ty ← Fld.fty f
  Fld.xZero f
  .ok fun h => Instr.vclass h d a ty

/-- Opcode 0x69: VCPSGN. -/
def Parse.op69 (m : Form) (f : Fields) : Except Reject (Hd → Instr) := do
  let d ← Sel.dst m f.d
  let a ← Sel.src m f.a
  let b ← Sel.src m f.b
  Fld.zero f.c
  let ty ← Fld.fty f
  Fld.xZero f
  .ok fun h => Instr.vcpsgn h d a b ty

/-- Opcode 0x6A: VMAD. -/
def Parse.op6A (m : Form) (f : Fields) : Except Reject (Hd → Instr) := do
  let d ← Sel.dst m f.d
  let a ← Sel.src m f.a
  let b ← Sel.src m f.b
  let c ← Sel.src m f.c
  let ty ← Fld.ity f
  let x := f.x
  .ok fun h => Instr.vmad h d a b c ty x

/-- Opcode 0x6B: VSATN. -/
def Parse.op6B (m : Form) (f : Fields) : Except Reject (Hd → Instr) := do
  let d ← Sel.dst m f.d
  let a ← Sel.src m f.a
  Fld.zero f.b
  let ty ← Fld.ity f
  let n ← Fld.satn ty f.c
  Fld.xZero f
  .ok fun h => Instr.vsatn h d a n ty

/-- Opcode 0x6C: VMINH. -/
def Parse.op6C (m : Form) (f : Fields) : Except Reject (Hd → Instr) := do
  let d ← Sel.dst m f.d
  let a ← Sel.src m f.a
  Fld.zero f.b
  Fld.zero f.c
  let ty ← Fld.ty f
  Fld.xZero f
  .ok fun h => Instr.vminh h d a ty

/-- Opcode 0x6D: VSUMW. -/
def Parse.op6D (m : Form) (f : Fields) : Except Reject (Hd → Instr) := do
  let d ← Sel.dst m f.d
  let a ← Sel.src m f.a
  Fld.zero f.b
  Fld.zero f.c
  let ty ← Fld.ty f
  let x ← Fld.xFloat ty f
  .ok fun h => Instr.vsumw h d a ty x

/-- Opcode 0x70: BEXP. -/
def Parse.op70 (m : Form) (f : Fields) : Except Reject (Hd → Instr) := do
  let d ← Sel.dst m f.d
  let a ← Sel.src m f.a
  Fld.zero f.b
  let ty ← Fld.fty3 f
  let sf ← Fld.sbf f.c
  let x := f.x
  .ok fun h => Instr.bexp h d a sf ty x

/-- Opcode 0x71: BENC. -/
def Parse.op71 (m : Form) (f : Fields) : Except Reject (Hd → Instr) := do
  let d ← Sel.dst m f.d
  let a ← Sel.src m f.a
  let b ← Sel.src m f.b
  let ty ← Fld.fty3 f
  let sf ← Fld.sbf f.c
  let x := f.x
  .ok fun h => Instr.benc h d a b sf ty x

/-- Opcode 0x72: BDEC. -/
def Parse.op72 (m : Form) (f : Fields) : Except Reject (Hd → Instr) := do
  let d ← Sel.dst m f.d
  let a ← Sel.src m f.a
  let b ← Sel.src m f.b
  let ty ← Fld.fty f
  let sf ← Fld.sbf f.c
  let x := f.x
  .ok fun h => Instr.bdec h d a b sf ty x

/-- Opcode 0x73: SCPUT. -/
def Parse.op73 (m : Form) (f : Fields) : Except Reject (Hd → Instr) := do
  let o ← Sel.routeSel f.d
  let a ← Sel.src m f.a
  let b ← Sel.src m f.b
  Fld.zero f.c
  let f32 ← Fld.n8f32 f
  Fld.xZero f
  .ok fun h => Instr.scput h o a b f32

/-- Opcode 0x74: SCGET. -/
def Parse.op74 (m : Form) (f : Fields) : Except Reject (Hd → Instr) := do
  let d ← Sel.dst m f.d
  let i ← Sel.routeSel f.a
  Fld.zero f.b
  Fld.zero f.c
  let f32 ← Fld.n8f32 f
  Fld.xZero f
  .ok fun h => Instr.scget h d i f32

/-- Opcode 0x75: SCPAIR. -/
def Parse.op75 (m : Form) (f : Fields) : Except Reject (Hd → Instr) := do
  let d ← Sel.dst m f.d
  let i ← Sel.routeSel f.a
  let b ← Sel.src m f.b
  Fld.zero f.c
  Fld.tyZero f
  Fld.xZero f
  .ok fun h => Instr.scpair h d i b

/-- Opcode 0x76: HDRW. -/
def Parse.op76 (m : Form) (f : Fields) : Except Reject (Hd → Instr) := do
  let d ← Sel.dst m f.d
  let a ← Sel.src m f.a
  let b ← Sel.src m f.b
  Fld.zero f.c
  Fld.tyZero f
  Fld.xZero f
  .ok fun h => Instr.hdrw h d a b

/-- Opcode 0x77: HDRR_FMT, HDRR_SCALE. -/
def Parse.op77 (m : Form) (f : Fields) : Except Reject (Hd → Instr) := do
  if f.ty.toNat = 0 then
    let d ← Sel.dst m f.d
    let a ← Sel.src m f.a
    Fld.zero f.b
    Fld.zero f.c
    Fld.xZero f
    .ok fun h => Instr.hdrrFmt h d a
  else if f.ty.toNat = 1 then
    let d ← Sel.dst m f.d
    let a ← Sel.src m f.a
    Fld.zero f.b
    Fld.zero f.c
    Fld.xZero f
    .ok fun h => Instr.hdrrScale h d a
  else .error .field

/-- Opcode 0x80: LD. -/
def Parse.op80 (m : Form) (f : Fields) : Except Reject (Hd → Instr) := do
  let d ← Sel.dstLoad m f.d
  let a ← Sel.src m f.a
  Fld.zero f.b
  let sx ← Fld.sx f
  Fld.xZero f
  let (col, sz) ← Mc.element f
  .ok fun h => Instr.ld h d a col sz sx

/-- Opcode 0x81: ST. -/
def Parse.op81 (m : Form) (f : Fields) : Except Reject (Hd → Instr) := do
  let a ← Sel.src m f.a
  let b ← Sel.src m f.b
  Fld.zero f.d
  Fld.tyZero f
  Fld.xZero f
  let (col, sz) ← Mc.element f
  .ok fun h => Instr.st h a b col sz

/-- Opcode 0x82: LDL. -/
def Parse.op82 (m : Form) (f : Fields) : Except Reject (Hd → Instr) := do
  let d ← Sel.lineDst m f.d
  let a ← Sel.src m f.a
  Fld.zero f.b
  Fld.tyZero f
  Fld.xZero f
  let col ← Mc.line f
  .ok fun h => Instr.ldl h d a col

/-- Opcode 0x83: STL. -/
def Parse.op83 (m : Form) (f : Fields) : Except Reject (Hd → Instr) := do
  let a ← Sel.src m f.a
  let b ← Sel.lineSrc m f.b
  Fld.zero f.d
  Fld.tyZero f
  Fld.xZero f
  let col ← Mc.line f
  .ok fun h => Instr.stl h a b col

/-- Opcode 0x84: LDT. -/
def Parse.op84 (m : Form) (f : Fields) : Except Reject (Hd → Instr) := do
  let d ← Sel.lineDst m f.d
  let a ← Sel.src m f.a
  Fld.zero f.b
  Fld.tyZero f
  Fld.xZero f
  let (col, half) ← Mc.transpose f
  .ok fun h => Instr.ldt h d a col half

/-- Opcode 0x85: LDX. -/
def Parse.op85 (m : Form) (f : Fields) : Except Reject (Hd → Instr) := do
  let d ← Sel.dstLoad m f.d
  let a ← Sel.src m f.a
  let b ← Sel.src m f.b
  let sx ← Fld.sx f
  Fld.xZero f
  let (col, sz) ← Mc.element f
  .ok fun h => Instr.ldx h d a b col sz sx

/-- Opcode 0x86: STX. -/
def Parse.op86 (m : Form) (f : Fields) : Except Reject (Hd → Instr) := do
  let v ← Sel.src m f.d
  let a ← Sel.src m f.a
  let b ← Sel.src m f.b
  Fld.tyZero f
  Fld.xZero f
  let (col, sz) ← Mc.element f
  .ok fun h => Instr.stx h v a b col sz

/-- Opcode 0x87: LDP. -/
def Parse.op87 (m : Form) (f : Fields) : Except Reject (Hd → Instr) := do
  let d ← Sel.dst m f.d
  let a ← Sel.src m f.a
  Fld.zero f.b
  let sx ← Fld.sx f
  Fld.xZero f
  let sz ← Mc.size f
  .ok fun h => Instr.ldp h d a sz sx

/-- Opcode 0x88: STP. -/
def Parse.op88 (m : Form) (f : Fields) : Except Reject (Hd → Instr) := do
  let a ← Sel.src m f.a
  let b ← Sel.src m f.b
  Fld.zero f.d
  Fld.tyZero f
  Fld.xZero f
  let sz ← Mc.size f
  .ok fun h => Instr.stp h a b sz

/-- Opcode 0x89: DQLD. -/
def Parse.op89 (m : Form) (f : Fields) : Except Reject (Hd → Instr) := do
  let a ← Sel.src m f.a
  Fld.zero f.d
  Fld.zero f.b
  let (line, q) ← Fld.lineQ f
  Fld.xZero f
  let sz ← Mc.dqld f
  .ok fun h => Instr.dqld h a sz line q

/-- Opcode 0x8A: DQST. -/
def Parse.op8A (m : Form) (f : Fields) : Except Reject (Hd → Instr) := do
  let a ← Sel.src m f.a
  let b ← Sel.dqVal m f
  Fld.zero f.d
  let q ← Fld.lineQst f
  Fld.xZero f
  let scp ← Mc.dqst f
  .ok fun h => Instr.dqst h a b scp q

/-- Opcode 0x8B: DQPOP. -/
def Parse.op8B (m : Form) (f : Fields) : Except Reject (Hd → Instr) := do
  let d ← Sel.dst m f.d
  Fld.zero f.a
  Fld.zero f.b
  let q ← Fld.low2 f
  Fld.xZero f
  Fld.zero f.c
  .ok fun h => Instr.dqpop h d q

/-- Opcode 0x8C: DQWT. -/
def Parse.op8C (_m : Form) (f : Fields) : Except Reject (Hd → Instr) := do
  Fld.zero f.d
  Fld.zero f.a
  Fld.zero f.b
  let q ← Fld.low2 f
  Fld.xZero f
  Fld.zero f.c
  .ok fun h => Instr.dqwt h q

/-- Opcode 0x8D: VLD. -/
def Parse.op8D (m : Form) (f : Fields) : Except Reject (Hd → Instr) := do
  let d ← Sel.dst m f.d
  let a ← Sel.src m f.a
  let b ← Sel.src m f.b
  Fld.tyZero f
  Fld.xZero f
  let scp ← Mc.versioned f
  .ok fun h => Instr.vld h d a b scp

/-- Opcode 0x8E: VST. -/
def Parse.op8E (m : Form) (f : Fields) : Except Reject (Hd → Instr) := do
  let d ← Sel.dst m f.d
  let a ← Sel.src m f.a
  let b ← Sel.src m f.b
  Fld.tyZero f
  Fld.xZero f
  let scp ← Mc.versioned f
  .ok fun h => Instr.vst h d a b scp

/-- Opcode 0x8F: VRCL. -/
def Parse.op8F (m : Form) (f : Fields) : Except Reject (Hd → Instr) := do
  let a ← Sel.src m f.a
  let b ← Sel.src m f.b
  Fld.zero f.d
  Fld.tyZero f
  Fld.xZero f
  let scp ← Mc.versioned f
  .ok fun h => Instr.vrcl h a b scp

/-- Opcode 0x90: AGCFG. -/
def Parse.op90 (m : Form) (f : Fields) : Except Reject (Hd → Instr) := do
  let a ← Sel.src m f.a
  let b ← Sel.src m f.b
  Fld.zero f.d
  Fld.tyZero f
  Fld.xZero f
  Fld.zero f.c
  .ok fun h => Instr.agcfg h a b

/-- Opcode 0x91: AGSTART. -/
def Parse.op91 (m : Form) (f : Fields) : Except Reject (Hd → Instr) := do
  let a ← Sel.src m f.a
  let b ← Sel.src m f.b
  Fld.zero f.d
  Fld.tyZero f
  Fld.xZero f
  Fld.zero f.c
  .ok fun h => Instr.agstart h a b

/-- Opcode 0x92: AGEOS. -/
def Parse.op92 (m : Form) (f : Fields) : Except Reject (Hd → Instr) := do
  let a ← Sel.src m f.a
  Fld.zero f.d
  Fld.zero f.b
  Fld.tyZero f
  Fld.xZero f
  Fld.zero f.c
  .ok fun h => Instr.ageos h a

/-- Opcode 0x93: QTKT. -/
def Parse.op93 (m : Form) (f : Fields) : Except Reject (Hd → Instr) := do
  let d ← Sel.dst m f.d
  let a ← Sel.src m f.a
  let t ← Sel.tag m f.ty f.b
  Fld.xZero f
  Fld.zero f.c
  .ok fun h => Instr.qtkt h d a t

/-- Opcode 0x94: QPUSH. -/
def Parse.op94 (m : Form) (f : Fields) : Except Reject (Hd → Instr) := do
  let a ← Sel.src m f.a
  let t ← Sel.tag m f.ty f.d
  let b ← Sel.src m f.b
  Fld.xZero f
  let scp ← Mc.ring f
  .ok fun h => Instr.qpush h a b t scp

/-- Opcode 0x95: QPOP. -/
def Parse.op95 (m : Form) (f : Fields) : Except Reject (Hd → Instr) := do
  let d ← Sel.dst m f.d
  let a ← Sel.src m f.a
  Fld.zero f.b
  Fld.tyZero f
  Fld.xZero f
  let scp ← Mc.ring f
  .ok fun h => Instr.qpop h d a scp

/-- Opcode 0x96: QCNT. -/
def Parse.op96 (m : Form) (f : Fields) : Except Reject (Hd → Instr) := do
  let d ← Sel.dst m f.d
  let a ← Sel.src m f.a
  Fld.zero f.b
  Fld.tyZero f
  Fld.xZero f
  Fld.zero f.c
  .ok fun h => Instr.qcnt h d a

/-- Opcode 0x97: PLDX. -/
def Parse.op97 (m : Form) (f : Fields) : Except Reject (Hd → Instr) := do
  let d ← Sel.dst m f.d
  let a ← Sel.src m f.a
  let b ← Sel.src m f.b
  let sx ← Fld.sx f
  Fld.xZero f
  let sz ← Mc.size f
  .ok fun h => Instr.pldx h d a b sz sx

/-- Opcode 0x98: PSTX. -/
def Parse.op98 (m : Form) (f : Fields) : Except Reject (Hd → Instr) := do
  let v ← Sel.src m f.d
  let a ← Sel.src m f.a
  let b ← Sel.src m f.b
  Fld.tyZero f
  Fld.xZero f
  let sz ← Mc.size f
  .ok fun h => Instr.pstx h v a b sz

/-- Opcode 0xA0: AADD. -/
def Parse.opA0 (m : Form) (f : Fields) : Except Reject (Hd → Instr) := do
  let d ← Sel.dstSend m f.d
  let a ← Sel.src m f.a
  let b ← Sel.src m f.b
  let st ← Fld.status m f
  Fld.xZero f
  let (w64, scp) ← Mc.atomic f
  .ok fun h => Instr.aadd h d a b w64 scp st

/-- Opcode 0xA1: AMIN. -/
def Parse.opA1 (m : Form) (f : Fields) : Except Reject (Hd → Instr) := do
  let d ← Sel.dstSend m f.d
  let a ← Sel.src m f.a
  let b ← Sel.src m f.b
  let st ← Fld.status m f
  Fld.xZero f
  let (w64, scp) ← Mc.atomic f
  .ok fun h => Instr.amin h d a b w64 scp st

/-- Opcode 0xA2: AMAX. -/
def Parse.opA2 (m : Form) (f : Fields) : Except Reject (Hd → Instr) := do
  let d ← Sel.dstSend m f.d
  let a ← Sel.src m f.a
  let b ← Sel.src m f.b
  let st ← Fld.status m f
  Fld.xZero f
  let (w64, scp) ← Mc.atomic f
  .ok fun h => Instr.amax h d a b w64 scp st

/-- Opcode 0xA3: AMINU. -/
def Parse.opA3 (m : Form) (f : Fields) : Except Reject (Hd → Instr) := do
  let d ← Sel.dstSend m f.d
  let a ← Sel.src m f.a
  let b ← Sel.src m f.b
  let st ← Fld.status m f
  Fld.xZero f
  let (w64, scp) ← Mc.atomic f
  .ok fun h => Instr.aminu h d a b w64 scp st

/-- Opcode 0xA4: AMAXU. -/
def Parse.opA4 (m : Form) (f : Fields) : Except Reject (Hd → Instr) := do
  let d ← Sel.dstSend m f.d
  let a ← Sel.src m f.a
  let b ← Sel.src m f.b
  let st ← Fld.status m f
  Fld.xZero f
  let (w64, scp) ← Mc.atomic f
  .ok fun h => Instr.amaxu h d a b w64 scp st

/-- Opcode 0xA5: AAND. -/
def Parse.opA5 (m : Form) (f : Fields) : Except Reject (Hd → Instr) := do
  let d ← Sel.dstSend m f.d
  let a ← Sel.src m f.a
  let b ← Sel.src m f.b
  let st ← Fld.status m f
  Fld.xZero f
  let (w64, scp) ← Mc.atomic f
  .ok fun h => Instr.aand h d a b w64 scp st

/-- Opcode 0xA6: AOR. -/
def Parse.opA6 (m : Form) (f : Fields) : Except Reject (Hd → Instr) := do
  let d ← Sel.dstSend m f.d
  let a ← Sel.src m f.a
  let b ← Sel.src m f.b
  let st ← Fld.status m f
  Fld.xZero f
  let (w64, scp) ← Mc.atomic f
  .ok fun h => Instr.aor h d a b w64 scp st

/-- Opcode 0xA7: AXOR. -/
def Parse.opA7 (m : Form) (f : Fields) : Except Reject (Hd → Instr) := do
  let d ← Sel.dstSend m f.d
  let a ← Sel.src m f.a
  let b ← Sel.src m f.b
  let st ← Fld.status m f
  Fld.xZero f
  let (w64, scp) ← Mc.atomic f
  .ok fun h => Instr.axor h d a b w64 scp st

/-- Opcode 0xA8: ASWP. -/
def Parse.opA8 (m : Form) (f : Fields) : Except Reject (Hd → Instr) := do
  let d ← Sel.dstSend m f.d
  let a ← Sel.src m f.a
  let b ← Sel.src m f.b
  let st ← Fld.status m f
  Fld.xZero f
  let (w64, scp) ← Mc.atomic f
  .ok fun h => Instr.aswp h d a b w64 scp st

/-- Opcode 0xA9: ACAS. -/
def Parse.opA9 (m : Form) (f : Fields) : Except Reject (Hd → Instr) := do
  let d ← Sel.dstAcas m f.d
  let a ← Sel.src m f.a
  let b ← Sel.src m f.b
  let st ← Fld.status m f
  Fld.xZero f
  let (w64, scp) ← Mc.atomic f
  .ok fun h => Instr.acas h d a b w64 scp st

/-- Opcode 0xAA: AFADD. -/
def Parse.opAA (m : Form) (f : Fields) : Except Reject (Hd → Instr) := do
  let d ← Sel.dstSend m f.d
  let a ← Sel.src m f.a
  let b ← Sel.src m f.b
  let st ← Fld.status m f
  let x := f.x
  let scp ← Mc.atomic32 f
  .ok fun h => Instr.afadd h d a b scp st x

/-- Opcode 0xAB: AINC. -/
def Parse.opAB (m : Form) (f : Fields) : Except Reject (Hd → Instr) := do
  let d ← Sel.dstSend m f.d
  let a ← Sel.src m f.a
  let b ← Sel.src m f.b
  let st ← Fld.status m f
  Fld.xZero f
  let (w64, scp) ← Mc.atomic f
  .ok fun h => Instr.ainc h d a b w64 scp st

/-- Opcode 0xAC: ADEC. -/
def Parse.opAC (m : Form) (f : Fields) : Except Reject (Hd → Instr) := do
  let d ← Sel.dstSend m f.d
  let a ← Sel.src m f.a
  let b ← Sel.src m f.b
  let st ← Fld.status m f
  Fld.xZero f
  let (w64, scp) ← Mc.atomic f
  .ok fun h => Instr.adec h d a b w64 scp st

/-- Opcode 0xAD: REDADD. -/
def Parse.opAD (m : Form) (f : Fields) : Except Reject (Hd → Instr) := do
  let a ← Sel.src m f.a
  let b ← Sel.src m f.b
  Fld.zero f.d
  let st ← Fld.status m f
  Fld.xZero f
  let (w64, scp) ← Mc.atomic f
  .ok fun h => Instr.redadd h a b w64 scp st

/-- Opcode 0xAE: REDFADD. -/
def Parse.opAE (m : Form) (f : Fields) : Except Reject (Hd → Instr) := do
  let a ← Sel.src m f.a
  let b ← Sel.src m f.b
  Fld.zero f.d
  let st ← Fld.status m f
  let x := f.x
  let scp ← Mc.atomic32 f
  .ok fun h => Instr.redfadd h a b scp st x

/-- Opcode 0xAF: REDMAX. -/
def Parse.opAF (m : Form) (f : Fields) : Except Reject (Hd → Instr) := do
  let a ← Sel.src m f.a
  let b ← Sel.src m f.b
  Fld.zero f.d
  let st ← Fld.status m f
  Fld.xZero f
  let (w64, scp) ← Mc.atomic f
  .ok fun h => Instr.redmax h a b w64 scp st

/-- Opcode 0xB0: BARINIT. -/
def Parse.opB0 (m : Form) (f : Fields) : Except Reject (Hd → Instr) := do
  let a ← Sel.src m f.a
  let b ← Sel.src m f.b
  Fld.zero f.d
  Fld.zero f.c
  Fld.tyZero f
  Fld.xZero f
  .ok fun h => Instr.barinit h a b

/-- Opcode 0xB1: BAREXP. -/
def Parse.opB1 (m : Form) (f : Fields) : Except Reject (Hd → Instr) := do
  let d ← Sel.dstSend m f.d
  let a ← Sel.src m f.a
  let b ← Sel.src m f.b
  let par ← Fld.parity f
  let scp ← Fld.scope3 f.c
  Fld.xZero f
  .ok fun h => Instr.barexp h d a b scp par

/-- Opcode 0xB2: BARARR. -/
def Parse.opB2 (m : Form) (f : Fields) : Except Reject (Hd → Instr) := do
  let d ← Sel.dstSend m f.d
  let a ← Sel.src m f.a
  let b ← Sel.src m f.b
  let par ← Fld.parity f
  let scp ← Fld.scope3 f.c
  Fld.xZero f
  .ok fun h => Instr.bararr h d a b scp par

/-- Opcode 0xB3: BARWT. -/
def Parse.opB3 (m : Form) (f : Fields) : Except Reject (Hd → Instr) := do
  let d ← Sel.dst m f.d
  let a ← Sel.src m f.a
  let b ← Sel.src m f.b
  Fld.tyZero f
  let scp ← Fld.scope3 f.c
  Fld.xZero f
  .ok fun h => Instr.barwt h d a b scp

/-- Opcode 0xB4: BARTST. -/
def Parse.opB4 (m : Form) (f : Fields) : Except Reject (Hd → Instr) := do
  let d ← Sel.dst m f.d
  let a ← Sel.src m f.a
  Fld.zero f.b
  Fld.zero f.c
  let sel ← Fld.below3 f
  Fld.xZero f
  .ok fun h => Instr.bartst h d a sel

/-- Opcode 0xB5: TLSIG. -/
def Parse.opB5 (m : Form) (f : Fields) : Except Reject (Hd → Instr) := do
  let a ← Sel.src m f.a
  let b ← Sel.src m f.b
  Fld.zero f.d
  Fld.zero f.c
  let scp ← Fld.scope14 f
  Fld.xZero f
  .ok fun h => Instr.tlsig h a b scp

/-- Opcode 0xB6: TLWT. -/
def Parse.opB6 (m : Form) (f : Fields) : Except Reject (Hd → Instr) := do
  let a ← Sel.src m f.a
  let b ← Sel.src m f.b
  Fld.zero f.d
  Fld.zero f.c
  let scp ← Fld.scope14 f
  Fld.xZero f
  .ok fun h => Instr.tlwt h a b scp

/-- Opcode 0xB7: TLRD. -/
def Parse.opB7 (m : Form) (f : Fields) : Except Reject (Hd → Instr) := do
  let d ← Sel.dst m f.d
  let a ← Sel.src m f.a
  Fld.zero f.b
  Fld.zero f.c
  Fld.tyZero f
  Fld.xZero f
  .ok fun h => Instr.tlrd h d a

/-- Opcode 0xB8: FENCE. -/
def Parse.opB8 (_m : Form) (f : Fields) : Except Reject (Hd → Instr) := do
  Fld.zero f.d
  Fld.zero f.a
  Fld.zero f.b
  let kind ← Fld.fenceKind f
  Fld.xZero f
  let scp ← Mc.fence f
  .ok fun h => Instr.fence h scp kind

/-- Opcode 0xB9: DRAIN. -/
def Parse.opB9 (_m : Form) (f : Fields) : Except Reject (Hd → Instr) := do
  Fld.zero f.d
  Fld.zero f.a
  Fld.zero f.b
  Fld.zero f.c
  Fld.tyZero f
  Fld.xZero f
  .ok fun h => Instr.drain h

/-- Opcode 0xBA: WTICK, WTICK_REL. -/
def Parse.opBA (m : Form) (f : Fields) : Except Reject (Hd → Instr) := do
  if f.ty.toNat = 0 then
    let d ← Sel.dst m f.d
    let a ← Sel.src m f.a
    let imm ← Fld.imm16 f
    Fld.xZero f
    .ok fun h => Instr.wtick h d a imm
  else if f.ty.toNat = 1 then
    let d ← Sel.dst m f.d
    Fld.zero f.a
    let imm ← Fld.imm16 f
    Fld.xZero f
    .ok fun h => Instr.wtickRel h d imm
  else .error .field

/-- Opcode 0xBB: POWQ, POWQ_WAIT. -/
def Parse.opBB (m : Form) (f : Fields) : Except Reject (Hd → Instr) := do
  if f.ty.toNat = 0 then
    let d ← Sel.dstSend m f.d
    let a ← Sel.src m f.a
    Fld.zero f.b
    Fld.zero f.c
    Fld.xZero f
    .ok fun h => Instr.powq h d a
  else if f.ty.toNat = 1 then
    let d ← Sel.dstSend m f.d
    let a ← Sel.src m f.a
    Fld.zero f.b
    Fld.zero f.c
    Fld.timedOnly m
    Fld.xZero f
    .ok fun h => Instr.powqWait h d a
  else .error .field

/-- Opcode 0xBC: POWRL. -/
def Parse.opBC (m : Form) (f : Fields) : Except Reject (Hd → Instr) := do
  let a ← Sel.src m f.a
  Fld.zero f.d
  Fld.zero f.b
  Fld.zero f.c
  Fld.tyZero f
  Fld.xZero f
  .ok fun h => Instr.powrl h a

/-- Opcode 0xBD: FUTWT. -/
def Parse.opBD (m : Form) (f : Fields) : Except Reject (Hd → Instr) := do
  let d ← Sel.dstSend m f.d
  let a ← Sel.src m f.a
  let b ← Sel.src m f.b
  Fld.zero f.c
  Fld.tyZero f
  Fld.xZero f
  .ok fun h => Instr.futwt h d a b

/-- Opcode 0xBE: FUTSET, FUTSET_CLR. -/
def Parse.opBE (m : Form) (f : Fields) : Except Reject (Hd → Instr) := do
  if f.ty.toNat = 0 then
    let d ← Sel.dst m f.d
    let a ← Sel.src m f.a
    let b ← Sel.src m f.b
    Fld.zero f.c
    Fld.xZero f
    .ok fun h => Instr.futset h d a b
  else if f.ty.toNat = 1 then
    let d ← Sel.dst m f.d
    let a ← Sel.src m f.a
    Fld.zero f.b
    Fld.zero f.c
    Fld.xZero f
    .ok fun h => Instr.futsetClr h d a
  else .error .field

/-- Opcode 0xBF: YIELD. -/
def Parse.opBF (m : Form) (f : Fields) : Except Reject (Hd → Instr) := do
  let a ← Sel.src m f.a
  Fld.zero f.d
  Fld.zero f.b
  Fld.zero f.c
  Fld.tyZero f
  Fld.xZero f
  .ok fun h => Instr.yield h a

/-- Opcode 0xC0: MXSEL_ACQ, MXSEL_REL. -/
def Parse.opC0 (m : Form) (f : Fields) : Except Reject (Hd → Instr) := do
  if f.ty.toNat = 0 then
    let d ← Sel.dstSend m f.d
    let a ← Sel.src m f.a
    Fld.zero f.b
    Fld.zero f.c
    Fld.xZero f
    .ok fun h => Instr.mxselAcq h d a
  else if f.ty.toNat = 1 then
    let d ← Sel.dstSend m f.d
    let a ← Sel.src m f.a
    Fld.zero f.b
    Fld.zero f.c
    Fld.xZero f
    .ok fun h => Instr.mxselRel h d a
  else .error .field

/-- Opcode 0xC1: MXLDB. -/
def Parse.opC1 (m : Form) (f : Fields) : Except Reject (Hd → Instr) := do
  let d ← Sel.dstSend m f.d
  let a ← Sel.src m f.a
  let b ← Sel.src m f.b
  Fld.zero f.c
  Fld.tyZero f
  Fld.xZero f
  .ok fun h => Instr.mxldb h d a b

/-- Opcode 0xC2: MXSWB. -/
def Parse.opC2 (m : Form) (f : Fields) : Except Reject (Hd → Instr) := do
  let d ← Sel.dstSend m f.d
  let a ← Sel.src m f.a
  Fld.zero f.b
  Fld.zero f.c
  Fld.tyZero f
  Fld.xZero f
  .ok fun h => Instr.mxswb h d a

/-- Opcode 0xC3: MXZERO. -/
def Parse.opC3 (m : Form) (f : Fields) : Except Reject (Hd → Instr) := do
  let d ← Sel.dstSend m f.d
  let a ← Sel.src m f.a
  let b ← Sel.src m f.b
  Fld.zero f.c
  Fld.tyZero f
  Fld.xZero f
  .ok fun h => Instr.mxzero h d a b

/-- Opcode 0xC4: MXMAC_CHAN, MXMAC_STORE, MXMAC_FILL, MXMAC_PFILL. -/
def Parse.opC4 (m : Form) (f : Fields) : Except Reject (Hd → Instr) := do
  if f.ty.toNat = 0 then
    let d ← Sel.dstSend m f.d
    let a ← Sel.src m f.a
    let b ← Sel.src m f.b
    Fld.zero f.c
    Fld.xZero f
    .ok fun h => Instr.mxmacChan h d a b
  else if f.ty.toNat = 1 then
    let d ← Sel.dstSend m f.d
    let a ← Sel.src m f.a
    let b ← Sel.src m f.b
    Fld.zero f.c
    Fld.xZero f
    .ok fun h => Instr.mxmacStore h d a b
  else if f.ty.toNat = 2 then
    let d ← Sel.dstSend m f.d
    let a ← Sel.src m f.a
    let b ← Sel.src m f.b
    let c ← Sel.src m f.c
    Fld.xZero f
    .ok fun h => Instr.mxmacFill h d a b c
  else if f.ty.toNat = 3 then
    let d ← Sel.dstSend m f.d
    let a ← Sel.src m f.a
    let b ← Sel.src m f.b
    let c ← Sel.src m f.c
    Fld.xZero f
    .ok fun h => Instr.mxmacPfill h d a b c
  else .error .field

/-- Opcode 0xC5: MXSC. -/
def Parse.opC5 (m : Form) (f : Fields) : Except Reject (Hd → Instr) := do
  let d ← Sel.dstSend m f.d
  let a ← Sel.src m f.a
  let b ← Sel.src m f.b
  let c ← Sel.src m f.c
  let isB ← Fld.flag1 f
  Fld.xZero f
  .ok fun h => Instr.mxsc h d a b c isB

/-- Opcode 0xC6: MXDRN. -/
def Parse.opC6 (m : Form) (f : Fields) : Except Reject (Hd → Instr) := do
  let d ← Sel.dstSend m f.d
  let a ← Sel.src m f.a
  let b ← Sel.src m f.b
  Fld.zero f.c
  let clr ← Fld.flag1 f
  let x := f.x
  .ok fun h => Instr.mxdrn h d a b clr x

/-- Opcode 0xC7: MXACC. -/
def Parse.opC7 (m : Form) (f : Fields) : Except Reject (Hd → Instr) := do
  let d ← Sel.dstSend m f.d
  let a ← Sel.src m f.a
  let b ← Sel.src m f.b
  Fld.zero f.c
  Fld.tyZero f
  Fld.xZero f
  .ok fun h => Instr.mxacc h d a b

/-- Opcode 0xC8: MXSAVE. -/
def Parse.opC8 (m : Form) (f : Fields) : Except Reject (Hd → Instr) := do
  let d ← Sel.dstSend m f.d
  let a ← Sel.src m f.a
  let b ← Sel.src m f.b
  Fld.zero f.c
  Fld.tyZero f
  Fld.xZero f
  .ok fun h => Instr.mxsave h d a b

/-- Opcode 0xC9: MXREST. -/
def Parse.opC9 (m : Form) (f : Fields) : Except Reject (Hd → Instr) := do
  let d ← Sel.dstSend m f.d
  let a ← Sel.src m f.a
  let b ← Sel.src m f.b
  Fld.zero f.c
  Fld.tyZero f
  Fld.xZero f
  .ok fun h => Instr.mxrest h d a b

/-- Opcode 0xCA: MXST. -/
def Parse.opCA (m : Form) (f : Fields) : Except Reject (Hd → Instr) := do
  let d ← Sel.dstSend m f.d
  let a ← Sel.src m f.a
  let b ← Sel.src m f.b
  let c ← Sel.src m f.c
  let clr ← Fld.flag1 f
  let x := f.x
  .ok fun h => Instr.mxst h d a b c clr x

/-- Opcode 0xCB: MXCOL_RD, MXCOL_RET. -/
def Parse.opCB (m : Form) (f : Fields) : Except Reject (Hd → Instr) := do
  if f.ty.toNat = 0 then
    let d ← Sel.dst m f.d
    let a ← Sel.src m f.a
    let b ← Sel.src m f.b
    Fld.zero f.c
    Fld.xZero f
    .ok fun h => Instr.mxcolRd h d a b
  else if f.ty.toNat = 1 then
    let d ← Sel.dstSend m f.d
    let a ← Sel.src m f.a
    let b ← Sel.src m f.b
    Fld.zero f.c
    Fld.xZero f
    .ok fun h => Instr.mxcolRet h d a b
  else .error .field

/-- Opcode 0xCC: MXWST. -/
def Parse.opCC (m : Form) (f : Fields) : Except Reject (Hd → Instr) := do
  let d ← Sel.dstSend m f.d
  let a ← Sel.src m f.a
  let b ← Sel.src m f.b
  Fld.zero f.c
  Fld.tyZero f
  Fld.xZero f
  .ok fun h => Instr.mxwst h d a b

/-- Opcode 0xCD: MXFMT. -/
def Parse.opCD (m : Form) (f : Fields) : Except Reject (Hd → Instr) := do
  let d ← Sel.dstSend m f.d
  let a ← Sel.src m f.a
  let b ← Sel.src m f.b
  Fld.zero f.c
  Fld.tyZero f
  Fld.xZero f
  .ok fun h => Instr.mxfmt h d a b

/-- Opcode 0xCE: MXPEEK_ACC, MXPEEK_ST, MXPEEK_TA, MXPEEK_TB. -/
def Parse.opCE (m : Form) (f : Fields) : Except Reject (Hd → Instr) := do
  if f.ty.toNat = 0 then
    let d ← Sel.dst m f.d
    let a ← Sel.src m f.a
    let b ← Sel.src m f.b
    Fld.zero f.c
    Fld.xZero f
    .ok fun h => Instr.mxpeekAcc h d a b
  else if f.ty.toNat = 1 then
    let d ← Sel.dst m f.d
    let a ← Sel.src m f.a
    Fld.zero f.b
    Fld.zero f.c
    Fld.xZero f
    .ok fun h => Instr.mxpeekSt h d a
  else if f.ty.toNat = 2 then
    let d ← Sel.dst m f.d
    let a ← Sel.src m f.a
    let b ← Sel.src m f.b
    Fld.zero f.c
    Fld.xZero f
    .ok fun h => Instr.mxpeekTa h d a b
  else if f.ty.toNat = 3 then
    let d ← Sel.dst m f.d
    let a ← Sel.src m f.a
    let b ← Sel.src m f.b
    Fld.zero f.c
    Fld.xZero f
    .ok fun h => Instr.mxpeekTb h d a b
  else .error .field

/-- Opcode 0xD0: SBIND. -/
def Parse.opD0 (m : Form) (f : Fields) : Except Reject (Hd → Instr) := do
  let a ← Sel.src m f.a
  let b ← Sel.src m f.b
  let c ← Sel.src m f.c
  Fld.zero f.d
  Fld.tyZero f
  Fld.xZero f
  .ok fun h => Instr.sbind h a b c

/-- Opcode 0xD1: SCPY, SCPY_CHK. -/
def Parse.opD1 (m : Form) (f : Fields) : Except Reject (Hd → Instr) := do
  if f.ty.toNat = 0 then
    let d ← Sel.dstSend m f.d
    let a ← Sel.src m f.a
    let b ← Sel.src m f.b
    Fld.zero f.c
    Fld.xZero f
    .ok fun h => Instr.scpy h d a b
  else if f.ty.toNat = 1 then
    let d ← Sel.dstSend m f.d
    let a ← Sel.src m f.a
    let b ← Sel.src m f.b
    let c ← Sel.src m f.c
    Fld.xZero f
    .ok fun h => Instr.scpyChk h d a b c
  else .error .field

/-- Opcode 0xD2: SGAT. -/
def Parse.opD2 (m : Form) (f : Fields) : Except Reject (Hd → Instr) := do
  let d ← Sel.dstSend m f.d
  let a ← Sel.src m f.a
  Fld.zero f.b
  Fld.zero f.c
  Fld.tyZero f
  Fld.xZero f
  .ok fun h => Instr.sgat h d a

/-- Opcode 0xD3: SSCT. -/
def Parse.opD3 (m : Form) (f : Fields) : Except Reject (Hd → Instr) := do
  let d ← Sel.dstSend m f.d
  let a ← Sel.src m f.a
  Fld.zero f.b
  Fld.zero f.c
  Fld.tyZero f
  Fld.xZero f
  .ok fun h => Instr.ssct h d a

/-- Opcode 0xD4: SRED. -/
def Parse.opD4 (m : Form) (f : Fields) : Except Reject (Hd → Instr) := do
  let d ← Sel.dstSend m f.d
  let a ← Sel.src m f.a
  Fld.zero f.b
  let ty ← Fld.sredTy f
  let op ← Fld.sredOp f.c
  let x ← Fld.xSred ty op f
  .ok fun h => Instr.sred h d a op ty x

/-- Opcode 0xD5: SFILL. -/
def Parse.opD5 (m : Form) (f : Fields) : Except Reject (Hd → Instr) := do
  let d ← Sel.dstSend m f.d
  let a ← Sel.src m f.a
  let b ← Sel.src m f.b
  Fld.zero f.c
  Fld.tyZero f
  Fld.xZero f
  .ok fun h => Instr.sfill h d a b

/-- Opcode 0xD6: SCVT. -/
def Parse.opD6 (m : Form) (f : Fields) : Except Reject (Hd → Instr) := do
  let d ← Sel.dstSend m f.d
  let a ← Sel.src m f.a
  let b ← Sel.src m f.b
  let c ← Sel.src m f.c
  Fld.tyZero f
  let x := f.x
  .ok fun h => Instr.scvt h d a b c x

/-- Opcode 0xD7: SCAN. -/
def Parse.opD7 (m : Form) (f : Fields) : Except Reject (Hd → Instr) := do
  let d ← Sel.dstSend m f.d
  let a ← Sel.src m f.a
  let b ← Sel.src m f.b
  Fld.zero f.c
  Fld.tyZero f
  Fld.xZero f
  .ok fun h => Instr.scan h d a b

/-- Opcode 0xD8: SST, SST_FLAGS. -/
def Parse.opD8 (m : Form) (f : Fields) : Except Reject (Hd → Instr) := do
  if f.ty.toNat = 0 then
    let d ← Sel.dst m f.d
    let a ← Sel.src m f.a
    Fld.zero f.b
    Fld.zero f.c
    Fld.xZero f
    .ok fun h => Instr.sst h d a
  else if f.ty.toNat = 1 then
    let d ← Sel.dst m f.d
    let a ← Sel.src m f.a
    Fld.zero f.b
    Fld.zero f.c
    Fld.xZero f
    .ok fun h => Instr.sstFlags h d a
  else .error .field

/-- Opcode 0xD9: SPAT. -/
def Parse.opD9 (m : Form) (f : Fields) : Except Reject (Hd → Instr) := do
  let a ← Sel.src m f.a
  let b ← Sel.src m f.b
  Fld.zero f.d
  Fld.zero f.c
  Fld.tyZero f
  Fld.xZero f
  .ok fun h => Instr.spat h a b

/-- Opcode 0xDA: CCRED. -/
def Parse.opDA (m : Form) (f : Fields) : Except Reject (Hd → Instr) := do
  let d ← Sel.dstSend m f.d
  let a ← Sel.src m f.a
  let b ← Sel.src m f.b
  Fld.zero f.c
  let op ← Fld.ccOp f
  Fld.xZero f
  .ok fun h => Instr.ccred h d a b op

/-- Opcode 0xDB: CCBC. -/
def Parse.opDB (m : Form) (f : Fields) : Except Reject (Hd → Instr) := do
  let d ← Sel.dstSend m f.d
  let a ← Sel.src m f.a
  let b ← Sel.src m f.b
  Fld.zero f.c
  Fld.tyZero f
  Fld.xZero f
  .ok fun h => Instr.ccbc h d a b

/-- Opcode 0xDC: CCAG. -/
def Parse.opDC (m : Form) (f : Fields) : Except Reject (Hd → Instr) := do
  let d ← Sel.dstSend m f.d
  let a ← Sel.src m f.a
  let b ← Sel.src m f.b
  Fld.zero f.c
  Fld.tyZero f
  Fld.xZero f
  .ok fun h => Instr.ccag h d a b

/-- Opcode 0xDD: CCSEND. -/
def Parse.opDD (m : Form) (f : Fields) : Except Reject (Hd → Instr) := do
  let d ← Sel.dstSend m f.d
  let a ← Sel.src m f.a
  let b ← Sel.src m f.b
  let c ← Sel.src m f.c
  Fld.tyZero f
  Fld.xZero f
  .ok fun h => Instr.ccsend h d a b c

/-- Opcode 0xDE: CCRECV. -/
def Parse.opDE (m : Form) (f : Fields) : Except Reject (Hd → Instr) := do
  let d ← Sel.dstSend m f.d
  let a ← Sel.src m f.a
  let b ← Sel.src m f.b
  let c ← Sel.src m f.c
  Fld.tyZero f
  Fld.xZero f
  .ok fun h => Instr.ccrecv h d a b c

/-- Opcode 0xDF: CCBAR. -/
def Parse.opDF (m : Form) (f : Fields) : Except Reject (Hd → Instr) := do
  let d ← Sel.dstSend m f.d
  let a ← Sel.src m f.a
  let b ← Sel.src m f.b
  Fld.zero f.c
  Fld.tyZero f
  Fld.xZero f
  .ok fun h => Instr.ccbar h d a b

/-- Opcode 0xE0: BR. -/
def Parse.opE0 (_m : Form) (f : Fields) : Except Reject (Hd → Instr) := do
  Fld.zero f.d
  Fld.zero f.a
  let imm ← Fld.imm16 f
  Fld.tyZero f
  Fld.xZero f
  .ok fun h => Instr.br h imm

/-- Opcode 0xE1: EXIT. -/
def Parse.opE1 (m : Form) (f : Fields) : Except Reject (Hd → Instr) := do
  let a ← Sel.src m f.a
  Fld.zero f.d
  Fld.zero f.b
  Fld.zero f.c
  Fld.tyZero f
  Fld.xZero f
  .ok fun h => Instr.exit h a

/-- Opcode 0xE2: NUL_ST, NUL_H. -/
def Parse.opE2 (_m : Form) (f : Fields) : Except Reject (Hd → Instr) := do
  if f.ty.toNat = 0 then
    let mask ← Fld.nulMask true f
    Fld.xZero f
    .ok fun h => Instr.nulSt h mask
  else if f.ty.toNat = 1 then
    let mask ← Fld.nulMask false f
    Fld.xZero f
    .ok fun h => Instr.nulH h mask
  else .error .field

/-- Opcode 0xE3: JPOST. -/
def Parse.opE3 (m : Form) (f : Fields) : Except Reject (Hd → Instr) := do
  let d ← Sel.dstSend m f.d
  let a ← Sel.src m f.a
  let b ← Sel.src m f.b
  Fld.zero f.c
  Fld.tyZero f
  Fld.xZero f
  .ok fun h => Instr.jpost h d a b

/-- Opcode 0xE4: JWAIT. -/
def Parse.opE4 (m : Form) (f : Fields) : Except Reject (Hd → Instr) := do
  let a ← Sel.src m f.a
  let b ← Sel.src m f.b
  Fld.zero f.d
  Fld.zero f.c
  Fld.tyZero f
  Fld.xZero f
  .ok fun h => Instr.jwait h a b

/-- Opcode 0xE5: LAUNCH, LAUNCH_SEQ. -/
def Parse.opE5 (m : Form) (f : Fields) : Except Reject (Hd → Instr) := do
  if f.ty.toNat < 8 then
    let d ← Sel.dstSend m f.d
    let a ← Sel.src m f.a
    let b ← Sel.src m f.b
    let c ← Sel.src m f.c
    let st ← Fld.launchSt m f
    Fld.xZero f
    .ok fun h => Instr.launch h d a b c st
  else if 8 ≤ f.ty.toNat then
    let d ← Sel.dstSend m f.d
    let a ← Sel.src m f.a
    let c ← Sel.src m f.c
    Fld.zero f.b
    let st ← Fld.launchSt m f
    Fld.xZero f
    .ok fun h => Instr.launchSeq h d a c st
  else .error .field

/-- Opcode 0xE6: CANCEL. -/
def Parse.opE6 (m : Form) (f : Fields) : Except Reject (Hd → Instr) := do
  let d ← Sel.dstSend m f.d
  let a ← Sel.src m f.a
  Fld.zero f.b
  Fld.zero f.c
  let (rel, level) ← Fld.cancel f
  Fld.xZero f
  .ok fun h => Instr.cancel h d a rel level

/-- Opcode 0xE7: CMPL, CMPL_WAIT. -/
def Parse.opE7 (m : Form) (f : Fields) : Except Reject (Hd → Instr) := do
  if f.ty.toNat < 8 then
    let d ← Sel.dst m f.d
    let a ← Sel.src m f.a
    Fld.zero f.b
    Fld.zero f.c
    let level ← Fld.level f
    Fld.xZero f
    .ok fun h => Instr.cmpl h d a level
  else if 8 ≤ f.ty.toNat then
    let d ← Sel.dst m f.d
    let a ← Sel.src m f.a
    Fld.zero f.b
    Fld.zero f.c
    let level ← Fld.level f
    Fld.xZero f
    .ok fun h => Instr.cmplWait h d a level
  else .error .field

/-- Opcode 0xE8: GFORK. -/
def Parse.opE8 (m : Form) (f : Fields) : Except Reject (Hd → Instr) := do
  let d ← Sel.dstSend m f.d
  let a ← Sel.src m f.a
  let b ← Sel.src m f.b
  let c ← Sel.src m f.c
  Fld.tyZero f
  Fld.xZero f
  .ok fun h => Instr.gfork h d a b c

/-- Opcode 0xE9: GREW. -/
def Parse.opE9 (m : Form) (f : Fields) : Except Reject (Hd → Instr) := do
  let d ← Sel.dstSend m f.d
  let a ← Sel.src m f.a
  let b ← Sel.src m f.b
  let c ← Sel.src m f.c
  Fld.tyZero f
  Fld.xZero f
  .ok fun h => Instr.grew h d a b c

/-- Opcode 0xEA: GBAR. -/
def Parse.opEA (m : Form) (f : Fields) : Except Reject (Hd → Instr) := do
  let d ← Sel.dst m f.d
  let a ← Sel.src m f.a
  Fld.zero f.b
  Fld.zero f.c
  Fld.tyZero f
  Fld.xZero f
  .ok fun h => Instr.gbar h d a

/-- Opcode 0xEB: GADV. -/
def Parse.opEB (m : Form) (f : Fields) : Except Reject (Hd → Instr) := do
  let d ← Sel.dst m f.d
  let a ← Sel.src m f.a
  let b ← Sel.src m f.b
  Fld.zero f.c
  Fld.tyZero f
  Fld.xZero f
  .ok fun h => Instr.gadv h d a b

/-- Opcode 0xEC: GCAN, GCAN_ALL. -/
def Parse.opEC (m : Form) (f : Fields) : Except Reject (Hd → Instr) := do
  if f.ty.toNat = 0 then
    let d ← Sel.dstSend m f.d
    let a ← Sel.src m f.a
    let b ← Sel.src m f.b
    Fld.zero f.c
    Fld.xZero f
    .ok fun h => Instr.gcan h d a b
  else if f.ty.toNat = 1 then
    let d ← Sel.dstSend m f.d
    let a ← Sel.src m f.a
    Fld.zero f.b
    Fld.zero f.c
    Fld.xZero f
    .ok fun h => Instr.gcanAll h d a
  else .error .field

/-- Opcode 0xED: GST. -/
def Parse.opED (m : Form) (f : Fields) : Except Reject (Hd → Instr) := do
  let d ← Sel.dst m f.d
  let a ← Sel.src m f.a
  Fld.zero f.b
  Fld.zero f.c
  Fld.tyZero f
  Fld.xZero f
  .ok fun h => Instr.gst h d a

/-- Opcode 0xEE: BCALL. -/
def Parse.opEE (_m : Form) (f : Fields) : Except Reject (Hd → Instr) := do
  let d ← Sel.dstH f.d
  Fld.zero f.a
  let imm ← Fld.imm16 f
  Fld.tyZero f
  Fld.xZero f
  .ok fun h => Instr.bcall h d imm

/-- Opcode 0xEF: BRET. -/
def Parse.opEF (m : Form) (f : Fields) : Except Reject (Hd → Instr) := do
  let a ← Sel.src m f.a
  Fld.zero f.d
  Fld.zero f.b
  Fld.zero f.c
  Fld.tyZero f
  Fld.xZero f
  .ok fun h => Instr.bret h a

/-- Opcode 0xF0: TRAP. -/
def Parse.opF0 (m : Form) (f : Fields) : Except Reject (Hd → Instr) := do
  let a ← Sel.src m f.a
  Fld.zero f.d
  let code ← Fld.trapCode f
  Fld.tyZero f
  Fld.xZero f
  .ok fun h => Instr.trap h a code

/-- Opcode 0xF1: BRK. -/
def Parse.opF1 (_m : Form) (f : Fields) : Except Reject (Hd → Instr) := do
  Fld.zero f.d
  Fld.zero f.a
  let imm ← Fld.imm16 f
  Fld.tyZero f
  Fld.xZero f
  .ok fun h => Instr.brk h imm

/-- Opcode 0xF2: CSRR. -/
def Parse.opF2 (m : Form) (f : Fields) : Except Reject (Hd → Instr) := do
  let d ← Sel.dst m f.d
  Fld.zero f.a
  let num ← Fld.csrNum f
  Fld.tyZero f
  Fld.xZero f
  .ok fun h => Instr.csrr h d num

/-- Opcode 0xF3: CSRW. -/
def Parse.opF3 (m : Form) (f : Fields) : Except Reject (Hd → Instr) := do
  let a ← Sel.src m f.a
  Fld.zero f.d
  let num ← Fld.csrNum f
  Fld.tyZero f
  Fld.xZero f
  .ok fun h => Instr.csrw h a num

/-- Opcode 0xF4: HALT. -/
def Parse.opF4 (m : Form) (f : Fields) : Except Reject (Hd → Instr) := do
  let a ← Sel.src m f.a
  Fld.zero f.d
  Fld.zero f.b
  Fld.zero f.c
  Fld.tyZero f
  Fld.xZero f
  .ok fun h => Instr.halt h a

/-- Opcode 0xF5: TRACE. -/
def Parse.opF5 (m : Form) (f : Fields) : Except Reject (Hd → Instr) := do
  let a ← Sel.src m f.a
  Fld.zero f.d
  let imm ← Fld.imm16 f
  Fld.tyZero f
  Fld.xZero f
  .ok fun h => Instr.trace h a imm

/-- Opcode 0xF6: CFGINV, CFGINV_ALL. -/
def Parse.opF6 (m : Form) (f : Fields) : Except Reject (Hd → Instr) := do
  if f.ty.toNat = 0 then
    let a ← Sel.src m f.a
    Fld.zero f.d
    Fld.zero f.b
    Fld.zero f.c
    Fld.xZero f
    .ok fun h => Instr.cfginv h a
  else if f.ty.toNat = 1 then
    Fld.zero f.d
    Fld.zero f.a
    Fld.zero f.b
    Fld.zero f.c
    Fld.xZero f
    .ok fun h => Instr.cfginvAll h
  else .error .field

/-- Opcode 0xF7: STEST_RUN, STEST_ST. -/
def Parse.opF7 (m : Form) (f : Fields) : Except Reject (Hd → Instr) := do
  if f.ty.toNat = 0 then
    let d ← Sel.dstSend m f.d
    let a ← Sel.src m f.a
    Fld.zero f.b
    Fld.zero f.c
    Fld.xZero f
    .ok fun h => Instr.stestRun h d a
  else if f.ty.toNat = 1 then
    let d ← Sel.dst m f.d
    let a ← Sel.src m f.a
    Fld.zero f.b
    Fld.zero f.c
    Fld.xZero f
    .ok fun h => Instr.stestSt h d a
  else .error .field

/-- The fields of a word as an instruction lacking its head, by opcode (R49, R51): rows 1 to 5 of R52's table. -/
def Parse.body (m : Form) (f : Fields) : Except Reject (Hd → Instr) :=
  match f.op.toNat with
  | 0x00 => Parse.op00 m f
  | 0x01 => Parse.op01 m f
  | 0x02 => Parse.op02 m f
  | 0x03 => Parse.op03 m f
  | 0x04 => Parse.op04 m f
  | 0x05 => Parse.op05 m f
  | 0x06 => Parse.op06 m f
  | 0x07 => Parse.op07 m f
  | 0x08 => Parse.op08 m f
  | 0x09 => Parse.op09 m f
  | 0x0A => Parse.op0A m f
  | 0x0B => Parse.op0B m f
  | 0x0C => Parse.op0C m f
  | 0x0D => Parse.op0D m f
  | 0x0E => Parse.op0E m f
  | 0x0F => Parse.op0F m f
  | 0x10 => Parse.op10 m f
  | 0x11 => Parse.op11 m f
  | 0x12 => Parse.op12 m f
  | 0x13 => Parse.op13 m f
  | 0x14 => Parse.op14 m f
  | 0x15 => Parse.op15 m f
  | 0x16 => Parse.op16 m f
  | 0x17 => Parse.op17 m f
  | 0x18 => Parse.op18 m f
  | 0x19 => Parse.op19 m f
  | 0x1A => Parse.op1A m f
  | 0x1B => Parse.op1B m f
  | 0x1C => Parse.op1C m f
  | 0x1D => Parse.op1D m f
  | 0x1E => Parse.op1E m f
  | 0x1F => Parse.op1F m f
  | 0x20 => Parse.op20 m f
  | 0x21 => Parse.op21 m f
  | 0x22 => Parse.op22 m f
  | 0x23 => Parse.op23 m f
  | 0x24 => Parse.op24 m f
  | 0x25 => Parse.op25 m f
  | 0x26 => Parse.op26 m f
  | 0x27 => Parse.op27 m f
  | 0x28 => Parse.op28 m f
  | 0x29 => Parse.op29 m f
  | 0x2A => Parse.op2A m f
  | 0x2B => Parse.op2B m f
  | 0x2C => Parse.op2C m f
  | 0x2D => Parse.op2D m f
  | 0x2E => Parse.op2E m f
  | 0x2F => Parse.op2F m f
  | 0x30 => Parse.op30 m f
  | 0x31 => Parse.op31 m f
  | 0x32 => Parse.op32 m f
  | 0x33 => Parse.op33 m f
  | 0x34 => Parse.op34 m f
  | 0x35 => Parse.op35 m f
  | 0x36 => Parse.op36 m f
  | 0x37 => Parse.op37 m f
  | 0x38 => Parse.op38 m f
  | 0x40 => Parse.op40 m f
  | 0x41 => Parse.op41 m f
  | 0x42 => Parse.op42 m f
  | 0x43 => Parse.op43 m f
  | 0x44 => Parse.op44 m f
  | 0x45 => Parse.op45 m f
  | 0x46 => Parse.op46 m f
  | 0x47 => Parse.op47 m f
  | 0x48 => Parse.op48 m f
  | 0x49 => Parse.op49 m f
  | 0x4A => Parse.op4A m f
  | 0x4B => Parse.op4B m f
  | 0x4C => Parse.op4C m f
  | 0x4D => Parse.op4D m f
  | 0x4E => Parse.op4E m f
  | 0x4F => Parse.op4F m f
  | 0x50 => Parse.op50 m f
  | 0x51 => Parse.op51 m f
  | 0x52 => Parse.op52 m f
  | 0x53 => Parse.op53 m f
  | 0x54 => Parse.op54 m f
  | 0x55 => Parse.op55 m f
  | 0x56 => Parse.op56 m f
  | 0x57 => Parse.op57 m f
  | 0x58 => Parse.op58 m f
  | 0x59 => Parse.op59 m f
  | 0x5A => Parse.op5A m f
  | 0x5B => Parse.op5B m f
  | 0x5C => Parse.op5C m f
  | 0x5D => Parse.op5D m f
  | 0x5E => Parse.op5E m f
  | 0x5F => Parse.op5F m f
  | 0x60 => Parse.op60 m f
  | 0x61 => Parse.op61 m f
  | 0x62 => Parse.op62 m f
  | 0x63 => Parse.op63 m f
  | 0x64 => Parse.op64 m f
  | 0x65 => Parse.op65 m f
  | 0x66 => Parse.op66 m f
  | 0x67 => Parse.op67 m f
  | 0x68 => Parse.op68 m f
  | 0x69 => Parse.op69 m f
  | 0x6A => Parse.op6A m f
  | 0x6B => Parse.op6B m f
  | 0x6C => Parse.op6C m f
  | 0x6D => Parse.op6D m f
  | 0x70 => Parse.op70 m f
  | 0x71 => Parse.op71 m f
  | 0x72 => Parse.op72 m f
  | 0x73 => Parse.op73 m f
  | 0x74 => Parse.op74 m f
  | 0x75 => Parse.op75 m f
  | 0x76 => Parse.op76 m f
  | 0x77 => Parse.op77 m f
  | 0x80 => Parse.op80 m f
  | 0x81 => Parse.op81 m f
  | 0x82 => Parse.op82 m f
  | 0x83 => Parse.op83 m f
  | 0x84 => Parse.op84 m f
  | 0x85 => Parse.op85 m f
  | 0x86 => Parse.op86 m f
  | 0x87 => Parse.op87 m f
  | 0x88 => Parse.op88 m f
  | 0x89 => Parse.op89 m f
  | 0x8A => Parse.op8A m f
  | 0x8B => Parse.op8B m f
  | 0x8C => Parse.op8C m f
  | 0x8D => Parse.op8D m f
  | 0x8E => Parse.op8E m f
  | 0x8F => Parse.op8F m f
  | 0x90 => Parse.op90 m f
  | 0x91 => Parse.op91 m f
  | 0x92 => Parse.op92 m f
  | 0x93 => Parse.op93 m f
  | 0x94 => Parse.op94 m f
  | 0x95 => Parse.op95 m f
  | 0x96 => Parse.op96 m f
  | 0x97 => Parse.op97 m f
  | 0x98 => Parse.op98 m f
  | 0xA0 => Parse.opA0 m f
  | 0xA1 => Parse.opA1 m f
  | 0xA2 => Parse.opA2 m f
  | 0xA3 => Parse.opA3 m f
  | 0xA4 => Parse.opA4 m f
  | 0xA5 => Parse.opA5 m f
  | 0xA6 => Parse.opA6 m f
  | 0xA7 => Parse.opA7 m f
  | 0xA8 => Parse.opA8 m f
  | 0xA9 => Parse.opA9 m f
  | 0xAA => Parse.opAA m f
  | 0xAB => Parse.opAB m f
  | 0xAC => Parse.opAC m f
  | 0xAD => Parse.opAD m f
  | 0xAE => Parse.opAE m f
  | 0xAF => Parse.opAF m f
  | 0xB0 => Parse.opB0 m f
  | 0xB1 => Parse.opB1 m f
  | 0xB2 => Parse.opB2 m f
  | 0xB3 => Parse.opB3 m f
  | 0xB4 => Parse.opB4 m f
  | 0xB5 => Parse.opB5 m f
  | 0xB6 => Parse.opB6 m f
  | 0xB7 => Parse.opB7 m f
  | 0xB8 => Parse.opB8 m f
  | 0xB9 => Parse.opB9 m f
  | 0xBA => Parse.opBA m f
  | 0xBB => Parse.opBB m f
  | 0xBC => Parse.opBC m f
  | 0xBD => Parse.opBD m f
  | 0xBE => Parse.opBE m f
  | 0xBF => Parse.opBF m f
  | 0xC0 => Parse.opC0 m f
  | 0xC1 => Parse.opC1 m f
  | 0xC2 => Parse.opC2 m f
  | 0xC3 => Parse.opC3 m f
  | 0xC4 => Parse.opC4 m f
  | 0xC5 => Parse.opC5 m f
  | 0xC6 => Parse.opC6 m f
  | 0xC7 => Parse.opC7 m f
  | 0xC8 => Parse.opC8 m f
  | 0xC9 => Parse.opC9 m f
  | 0xCA => Parse.opCA m f
  | 0xCB => Parse.opCB m f
  | 0xCC => Parse.opCC m f
  | 0xCD => Parse.opCD m f
  | 0xCE => Parse.opCE m f
  | 0xD0 => Parse.opD0 m f
  | 0xD1 => Parse.opD1 m f
  | 0xD2 => Parse.opD2 m f
  | 0xD3 => Parse.opD3 m f
  | 0xD4 => Parse.opD4 m f
  | 0xD5 => Parse.opD5 m f
  | 0xD6 => Parse.opD6 m f
  | 0xD7 => Parse.opD7 m f
  | 0xD8 => Parse.opD8 m f
  | 0xD9 => Parse.opD9 m f
  | 0xDA => Parse.opDA m f
  | 0xDB => Parse.opDB m f
  | 0xDC => Parse.opDC m f
  | 0xDD => Parse.opDD m f
  | 0xDE => Parse.opDE m f
  | 0xDF => Parse.opDF m f
  | 0xE0 => Parse.opE0 m f
  | 0xE1 => Parse.opE1 m f
  | 0xE2 => Parse.opE2 m f
  | 0xE3 => Parse.opE3 m f
  | 0xE4 => Parse.opE4 m f
  | 0xE5 => Parse.opE5 m f
  | 0xE6 => Parse.opE6 m f
  | 0xE7 => Parse.opE7 m f
  | 0xE8 => Parse.opE8 m f
  | 0xE9 => Parse.opE9 m f
  | 0xEA => Parse.opEA m f
  | 0xEB => Parse.opEB m f
  | 0xEC => Parse.opEC m f
  | 0xED => Parse.opED m f
  | 0xEE => Parse.opEE m f
  | 0xEF => Parse.opEF m f
  | 0xF0 => Parse.opF0 m f
  | 0xF1 => Parse.opF1 m f
  | 0xF2 => Parse.opF2 m f
  | 0xF3 => Parse.opF3 m f
  | 0xF4 => Parse.opF4 m f
  | 0xF5 => Parse.opF5 m f
  | 0xF6 => Parse.opF6 m f
  | 0xF7 => Parse.opF7 m f
  | _ => .error .undefined

/-- Opcodes of the form the word does not have, and `bhdr` out of place (R50). -/
def Parse.formOk (m : Form) (op : BitVec 8) : Bool :=
  match m with
  | .timed => !([0xE0, 0xE1, 0xE2, 0xE4, 0xE8, 0xEE, 0xEF, 0xBD, 0xBF, 0xFE].contains op.toNat)
  | .block => !([0xB9, 0xFE].contains op.toNat)

/-- A word as an instruction of the form (R38 to R52, the per-word rows of R52 in order). -/
def decodeWord (m : Form) (w : Word) : Except Reject Instr := do
  let f := Fields.unpack w
  if !Parse.formOk m f.op then .error .form
  else
    let k ← Parse.body m f
    if f.ps == 0 && f.pn then .error .pred
    else match m with
      | .timed => .ok (k ⟨.timed f.top f.stg, f.ps, f.pn⟩)
      | .block =>
        let l := f.top.extractLsb' 7 5
        if f.top.extractLsb' 0 7 != 0 || f.stg != 0 then .error .blockBits
        else if (if lsidOp f.op then decide (l.toNat ≤ 30) else l == 31) then .ok (k ⟨.block l, f.ps, f.pn⟩)
        else .error .lsid

/-- The loader's code for a rejected word of a timed list (R52): true for `ECFG_OPC`, false for `ECFG_FIELD`. -/
def Reject.isOpc : Reject → Bool
  | .undefined => true
  | .form => true
  | _ => false

/-! ### Bytes -/

/-- The word of eight bytes, lowest address first (R3). -/
def wordOfBytes (bs : List Byte) : Word :=
  Word.ofN (bs.foldr (fun b acc => b.toNat + 256 * acc) 0)

/-- The `n` bytes of a number, lowest first. -/
def bytesOfNat : Nat → Nat → List Byte
  | 0, _ => []
  | n + 1, v => BitVec.ofNat 8 v :: bytesOfNat n (v / 256)

/-- A word as its eight bytes, lowest address first (R3). -/
def bytesOfWord (w : Word) : List Byte := bytesOfNat 8 w.toNat

/-- The instruction at the head of a byte list, with the bytes after it. Eight bytes make a word; fewer make none. -/
def decodeBytes (m : Form) (bs : List Byte) : Except Reject (Instr × List Byte) := do
  let i ← if bs.length < 8 then .error .undefined else decodeWord m (wordOfBytes (bs.take 8))
  .ok (i, bs.drop 8)

/-- The instruction whose bits are `w`: a word of the timed form, or else of the block form. The opcode table gives no row
any bits, so `nbits` is not read: a word is 64 bits, those above `nbits` zero. -/
def decodeTableWord (_nbits w : Nat) : Option Instr :=
  match decodeBytes .timed (bytesOfNat 8 w) with
  | .ok (i, _) => some i
  | .error _ => match decodeBytes .block (bytesOfNat 8 w) with
    | .ok (i, _) => some i
    | .error _ => none

/-! ### The block header (R46) -/

/-- A block header word. -/
structure Bhdr where
  count : BitVec 7
  smask : BitVec 32
  wmask : BitVec 8
  memd : Bool
  atom : Bool
deriving DecidableEq, Repr

/-- The header's fields, with OP, HVER, the reserved bits and SMASK bit 31 checked (R46, R47). -/
def decodeBhdr (w : Word) : Option Bhdr :=
  if w.bits 44 8 = 0xFE ∧ w.bits 52 5 = 0 ∧ w.bits 2 2 = 0 ∧ w.bit 43 = false then
    some { count := w.extractLsb' 57 7, smask := w.extractLsb' 12 32, wmask := w.extractLsb' 4 8,
           memd := w.getLsbD 1, atom := w.getLsbD 0 }
  else none

def encodeBhdr (h : Bhdr) : Word :=
  h.count ++ (0 : BitVec 5) ++ (0xFE : BitVec 8) ++ h.smask ++ h.wmask ++ (0 : BitVec 2) ++ BitVec.ofBool h.memd
    ++ BitVec.ofBool h.atom

/-! ### Encoding -/

/-- The fields of a word below its opcode, its head left out. -/
structure Body where
  d : BitVec 8 := 0
  a : BitVec 8 := 0
  b : BitVec 8 := 0
  c : BitVec 8 := 0
  ty : BitVec 4 := 0
  x : Bool := false
deriving DecidableEq, Repr

def Enc.src : Src → BitVec 8
  | .row n => n
  | .h k => 64 + k.zeroExtend 8
  | .route n => 192 + n.zeroExtend 8
  | .latch => 200
  | .north => 201
  | .east => 202
  | .south => 203
  | .west => 204
  | .konst n => 205 + n.zeroExtend 8
  | .zero => 209
  | .side => 210

def Enc.dst : Dst → BitVec 8
  | .row n => n
  | .h k => 64 + k.zeroExtend 8
  | .route n => 192 + n.zeroExtend 8
  | .latch => 200
  | .zero => 209

def Enc.lineDst : LineDst → BitVec 8
  | .rows n => n
  | .routes => 192

def Enc.lineSrc : LineSrc → BitVec 8
  | .rows n => n
  | .routes => 192

def Enc.route (n : BitVec 3) : BitVec 8 := 192 + n.zeroExtend 8

def Enc.tag : Tag → BitVec 8
  | .op s => Enc.src s
  | .inst => 0

def Enc.tg : Tag → BitVec 4
  | .op _ => 0
  | .inst => 1

def Enc.dqVal : DqVal → BitVec 8
  | .elem s _ => Enc.src s
  | .line l => Enc.lineSrc l

def DqVal.size : DqVal → BitVec 2
  | .elem _ sz => sz
  | .line _ => 3

def DqVal.isLine : DqVal → Bool
  | .elem _ _ => false
  | .line _ => true

def Enc.ity : ITy → BitVec 4
  | .s8 => 0
  | .s16 => 1
  | .s32 => 2
  | .s64 => 3
  | .n8 => 4
  | .n16 => 5
  | .n32 => 6

def Enc.fty : FTy → BitVec 4
  | .f16 => 7
  | .bf16 => 8
  | .f32 => 9
  | .e4m3 => 10
  | .e5m2 => 11

def Enc.ty : Ty → BitVec 4
  | .int t => Enc.ity t
  | .flt t => Enc.fty t

def Enc.sbf : Sbf → BitVec 8
  | .sbf4 => 0
  | .sbf6 => 1
  | .sbf8 => 2

def Enc.cond : Cond → BitVec 4
  | .eq => 0
  | .ne => 1
  | .lt => 2
  | .le => 3
  | .gt => 4
  | .ge => 5
  | .ltu => 6
  | .leu => 7
  | .gtu => 8
  | .geu => 9
  | .tst => 10
  | .ntst => 11

def Enc.cond8 (c : Cond) : BitVec 8 := (Enc.cond c).zeroExtend 8

def Enc.parity : Parity → BitVec 4
  | .cur => 0
  | .even => 1
  | .odd => 2

def Enc.fenceKind : FenceKind → BitVec 4
  | .acq => 1
  | .rel => 2
  | .acqrel => 3

def Enc.sredOp : SredOp → BitVec 8
  | .add => 0
  | .min => 1
  | .max => 2

def Enc.sredTy : SredTy → BitVec 4
  | .s32 => 2
  | .s64 => 3
  | .f32 => 9

def Enc.ccOp : CcOp → BitVec 4
  | .fadd => 0
  | .fmin => 1
  | .fmax => 2
  | .iadd => 3

def Enc.immHi (i : BitVec 16) : BitVec 8 := i.extractLsb' 8 8

def Enc.immLo (i : BitVec 16) : BitVec 8 := i.extractLsb' 0 8

def Enc.mc (col : Bool) (sz : BitVec 2) (etr : Bool) (scp : BitVec 4) : BitVec 8 :=
  BitVec.ofBool col ++ sz ++ BitVec.ofBool etr ++ scp

/-- The fields of an instruction word, its head left out, from the encoding rows of the entries; no step or host act has any. -/
def encBody : Instr → Option Body
  | .nop _ => some {}
  | .add _ d a b => some { d := Enc.dst d, a := Enc.src a, b := Enc.src b }
  | .addi _ d a imm => some { d := Enc.dst d, a := Enc.src a, b := Enc.immHi imm, c := Enc.immLo imm }
  | .sub _ d a b => some { d := Enc.dst d, a := Enc.src a, b := Enc.src b }
  | .adc _ d a b cp => some { d := Enc.dst d, a := Enc.src a, b := Enc.src b, ty := cp.zeroExtend 4 }
  | .sbb _ d a b cp => some { d := Enc.dst d, a := Enc.src a, b := Enc.src b, ty := cp.zeroExtend 4 }
  | .mul _ d a b => some { d := Enc.dst d, a := Enc.src a, b := Enc.src b }
  | .mulh _ d a b => some { d := Enc.dst d, a := Enc.src a, b := Enc.src b }
  | .mulhu _ d a b => some { d := Enc.dst d, a := Enc.src a, b := Enc.src b }
  | .mad _ d a b c => some { d := Enc.dst d, a := Enc.src a, b := Enc.src b, c := Enc.src c }
  | .div _ d a b => some { d := Enc.dst d, a := Enc.src a, b := Enc.src b }
  | .divu _ d a b => some { d := Enc.dst d, a := Enc.src a, b := Enc.src b }
  | .rem _ d a b => some { d := Enc.dst d, a := Enc.src a, b := Enc.src b }
  | .remu _ d a b => some { d := Enc.dst d, a := Enc.src a, b := Enc.src b }
  | .min _ d a b => some { d := Enc.dst d, a := Enc.src a, b := Enc.src b }
  | .max _ d a b => some { d := Enc.dst d, a := Enc.src a, b := Enc.src b }
  | .minu _ d a b => some { d := Enc.dst d, a := Enc.src a, b := Enc.src b }
  | .maxu _ d a b => some { d := Enc.dst d, a := Enc.src a, b := Enc.src b }
  | .abs _ d a => some { d := Enc.dst d, a := Enc.src a }
  | .and _ d a b => some { d := Enc.dst d, a := Enc.src a, b := Enc.src b }
  | .andi _ d a imm => some { d := Enc.dst d, a := Enc.src a, b := Enc.immHi imm, c := Enc.immLo imm }
  | .or _ d a b => some { d := Enc.dst d, a := Enc.src a, b := Enc.src b }
  | .ori _ d a imm => some { d := Enc.dst d, a := Enc.src a, b := Enc.immHi imm, c := Enc.immLo imm }
  | .xor _ d a b => some { d := Enc.dst d, a := Enc.src a, b := Enc.src b }
  | .xori _ d a imm => some { d := Enc.dst d, a := Enc.src a, b := Enc.immHi imm, c := Enc.immLo imm }
  | .andn _ d a b => some { d := Enc.dst d, a := Enc.src a, b := Enc.src b }
  | .shl _ d a b => some { d := Enc.dst d, a := Enc.src a, b := Enc.src b }
  | .shli _ d a imm => some { d := Enc.dst d, a := Enc.src a, c := imm.zeroExtend 8 }
  | .shr _ d a b => some { d := Enc.dst d, a := Enc.src a, b := Enc.src b }
  | .shri _ d a imm => some { d := Enc.dst d, a := Enc.src a, c := imm.zeroExtend 8 }
  | .sar _ d a b => some { d := Enc.dst d, a := Enc.src a, b := Enc.src b }
  | .sari _ d a imm => some { d := Enc.dst d, a := Enc.src a, c := imm.zeroExtend 8 }
  | .rol _ d a b => some { d := Enc.dst d, a := Enc.src a, b := Enc.src b }
  | .clz _ d a => some { d := Enc.dst d, a := Enc.src a }
  | .ctz _ d a => some { d := Enc.dst d, a := Enc.src a }
  | .popc _ d a => some { d := Enc.dst d, a := Enc.src a }
  | .brev _ d a => some { d := Enc.dst d, a := Enc.src a }
  | .bfx _ d a b => some { d := Enc.dst d, a := Enc.src a, b := Enc.src b }
  | .bfi _ d a b c => some { d := Enc.dst d, a := Enc.src a, b := Enc.src b, c := Enc.src c }
  | .sext _ d a w => some { d := Enc.dst d, a := Enc.src a, ty := w.zeroExtend 4 }
  | .zext _ d a w => some { d := Enc.dst d, a := Enc.src a, ty := w.zeroExtend 4 + 4 }
  | .movh _ d imm => some { d := Enc.dst d, b := Enc.immHi imm, c := Enc.immLo imm }
  | .movi _ d imm => some { d := Enc.dst d, b := Enc.immHi imm, c := Enc.immLo imm }
  | .movk _ d a imm j => some { d := Enc.dst d, a := Enc.src a, b := Enc.immHi imm, c := Enc.immLo imm, ty := j.zeroExtend 4 }
  | .addsat _ d a b ty => some { d := Enc.dst d, a := Enc.src a, b := Enc.src b, ty := Enc.ity ty }
  | .subsat _ d a b ty => some { d := Enc.dst d, a := Enc.src a, b := Enc.src b, ty := Enc.ity ty }
  | .cbrng _ d a b => some { d := Enc.dst d, a := Enc.src a, b := Enc.src b }
  | .crc _ d a b n => some { d := Enc.dst d, a := Enc.src a, b := Enc.src b, ty := n.zeroExtend 4 }
  | .cmp _ pd a b cond => some { d := pd.zeroExtend 8, a := Enc.src a, b := Enc.src b, ty := Enc.cond cond }
  | .cmpi _ pd a imm cond => some { d := pd.zeroExtend 8, a := Enc.src a, b := Enc.immHi imm, c := Enc.immLo imm, ty := Enc.cond cond }
  | .plog _ pd pa pb f => some { d := pd.zeroExtend 8, a := pa.zeroExtend 8, b := pb.zeroExtend 8, ty := f }
  | .pmovGet _ d => some { d := Enc.dst d }
  | .pmovPut _ a => some { a := Enc.src a, ty := 1 }
  | .sel _ d a b neg p => some { d := Enc.dst d, a := Enc.src a, b := Enc.src b, ty := BitVec.ofBool neg ++ p }
  | .mov _ d a => some { d := Enc.dst d, a := Enc.src a }
  | .kget _ d n j => some { d := Enc.dst d, c := (n ++ j).zeroExtend 8 }
  | .getid _ d id => some { d := Enc.dst d, c := id.zeroExtend 8 }
  | .pcnt _ d a b => some { d := Enc.dst d, a := Enc.src a, b := Enc.src b }
  | .vadd _ d a b ty x => some { d := Enc.dst d, a := Enc.src a, b := Enc.src b, ty := Enc.ty ty, x := x }
  | .vsub _ d a b ty x => some { d := Enc.dst d, a := Enc.src a, b := Enc.src b, ty := Enc.ty ty, x := x }
  | .vmul _ d a b ty x => some { d := Enc.dst d, a := Enc.src a, b := Enc.src b, ty := Enc.ty ty, x := x }
  | .vfma _ d a b c ty x => some { d := Enc.dst d, a := Enc.src a, b := Enc.src b, c := Enc.src c, ty := Enc.fty ty, x := x }
  | .vfms _ d a b c ty x => some { d := Enc.dst d, a := Enc.src a, b := Enc.src b, c := Enc.src c, ty := Enc.fty ty, x := x }
  | .vfnma _ d a b c ty x => some { d := Enc.dst d, a := Enc.src a, b := Enc.src b, c := Enc.src c, ty := Enc.fty ty, x := x }
  | .vmin _ d a b ty => some { d := Enc.dst d, a := Enc.src a, b := Enc.src b, ty := Enc.ty ty }
  | .vmax _ d a b ty => some { d := Enc.dst d, a := Enc.src a, b := Enc.src b, ty := Enc.ty ty }
  | .vabs _ d a ty x => some { d := Enc.dst d, a := Enc.src a, ty := Enc.ty ty, x := x }
  | .vneg _ d a ty x => some { d := Enc.dst d, a := Enc.src a, ty := Enc.ty ty, x := x }
  | .vcmp _ d a b cond ty => some { d := Enc.dst d, a := Enc.src a, b := Enc.src b, c := Enc.cond8 cond, ty := Enc.ty ty }
  | .vsel _ d a b c ty => some { d := Enc.dst d, a := Enc.src a, b := Enc.src b, c := Enc.src c, ty := Enc.ty ty }
  | .vdiv _ d a b ty x => some { d := Enc.dst d, a := Enc.src a, b := Enc.src b, ty := Enc.fty ty, x := x }
  | .vsqrt _ d a ty x => some { d := Enc.dst d, a := Enc.src a, ty := Enc.fty ty, x := x }
  | .vrcp _ d a ty x => some { d := Enc.dst d, a := Enc.src a, ty := Enc.fty ty, x := x }
  | .vrsq _ d a ty x => some { d := Enc.dst d, a := Enc.src a, ty := Enc.fty ty, x := x }
  | .vexp2 _ d a ty x => some { d := Enc.dst d, a := Enc.src a, ty := Enc.fty ty, x := x }
  | .vlog2 _ d a ty x => some { d := Enc.dst d, a := Enc.src a, ty := Enc.fty ty, x := x }
  | .vtanh _ d a ty x => some { d := Enc.dst d, a := Enc.src a, ty := Enc.fty ty, x := x }
  | .vscale _ d a b ty x => some { d := Enc.dst d, a := Enc.src a, b := Enc.src b, ty := Enc.fty ty, x := x }
  | .vclamp _ d a b c ty => some { d := Enc.dst d, a := Enc.src a, b := Enc.src b, c := Enc.src c, ty := Enc.ty ty }
  | .vsum _ d a ty x => some { d := Enc.dst d, a := Enc.src a, ty := Enc.ty ty, x := x }
  | .vmaxh _ d a ty => some { d := Enc.dst d, a := Enc.src a, ty := Enc.ty ty }
  | .vdot _ d a b c ty x => some { d := Enc.dst d, a := Enc.src a, b := Enc.src b, c := Enc.src c, ty := Enc.ty ty, x := x }
  | .vshuf _ d a b c ty => some { d := Enc.dst d, a := Enc.src a, b := Enc.src b, c := Enc.src c, ty := Enc.ty ty }
  | .vpack _ d a b ty x => some { d := Enc.dst d, a := Enc.src a, b := Enc.src b, ty := Enc.ity ty, x := x }
  | .vunpk _ d a hi ty => some { d := Enc.dst d, a := Enc.src a, c := (BitVec.ofBool hi).zeroExtend 8, ty := Enc.ty ty }
  | .vbcast _ d a j ty => some { d := Enc.dst d, a := Enc.src a, c := j.zeroExtend 8, ty := Enc.ty ty }
  | .vins _ d a b j ty => some { d := Enc.dst d, a := Enc.src a, b := Enc.src b, c := j.zeroExtend 8, ty := Enc.ty ty }
  | .vext _ d a j ty => some { d := Enc.dst d, a := Enc.src a, c := j.zeroExtend 8, ty := Enc.ty ty }
  | .vcvt _ d a dst ty x => some { d := Enc.dst d, a := Enc.src a, c := (Enc.ty dst).zeroExtend 8, ty := Enc.ty ty, x := x }
  | .vrnd _ d a mode ty => some { d := Enc.dst d, a := Enc.src a, c := mode.zeroExtend 8, ty := Enc.fty ty }
  | .vand _ d a b ty => some { d := Enc.dst d, a := Enc.src a, b := Enc.src b, ty := Enc.ty ty }
  | .vor _ d a b ty => some { d := Enc.dst d, a := Enc.src a, b := Enc.src b, ty := Enc.ty ty }
  | .vxor _ d a b ty => some { d := Enc.dst d, a := Enc.src a, b := Enc.src b, ty := Enc.ty ty }
  | .vshl _ d a b ty => some { d := Enc.dst d, a := Enc.src a, b := Enc.src b, ty := Enc.ity ty }
  | .vshr _ d a b ty => some { d := Enc.dst d, a := Enc.src a, b := Enc.src b, ty := Enc.ity ty }
  | .vsar _ d a b ty => some { d := Enc.dst d, a := Enc.src a, b := Enc.src b, ty := Enc.ity ty }
  | .vmulh _ d a b ty => some { d := Enc.dst d, a := Enc.src a, b := Enc.src b, ty := Enc.ity ty }
  | .vavg _ d a b ty => some { d := Enc.dst d, a := Enc.src a, b := Enc.src b, ty := Enc.ity ty }
  | .vclass _ d a ty => some { d := Enc.dst d, a := Enc.src a, ty := Enc.fty ty }
  | .vcpsgn _ d a b ty => some { d := Enc.dst d, a := Enc.src a, b := Enc.src b, ty := Enc.fty ty }
  | .vmad _ d a b c ty x => some { d := Enc.dst d, a := Enc.src a, b := Enc.src b, c := Enc.src c, ty := Enc.ity ty, x := x }
  | .vsatn _ d a n ty => some { d := Enc.dst d, a := Enc.src a, c := n, ty := Enc.ity ty }
  | .vminh _ d a ty => some { d := Enc.dst d, a := Enc.src a, ty := Enc.ty ty }
  | .vsumw _ d a ty x => some { d := Enc.dst d, a := Enc.src a, ty := Enc.ty ty, x := x }
  | .bexp _ d a sf ty x => some { d := Enc.dst d, a := Enc.src a, c := Enc.sbf sf, ty := Enc.fty ty, x := x }
  | .benc _ d a b sf ty x => some { d := Enc.dst d, a := Enc.src a, b := Enc.src b, c := Enc.sbf sf, ty := Enc.fty ty, x := x }
  | .bdec _ d a b sf ty x => some { d := Enc.dst d, a := Enc.src a, b := Enc.src b, c := Enc.sbf sf, ty := Enc.fty ty, x := x }
  | .scput _ o a b f32 => some { d := Enc.route o, a := Enc.src a, b := Enc.src b, ty := if f32 then 9 else 4 }
  | .scget _ d i f32 => some { d := Enc.dst d, a := Enc.route i, ty := if f32 then 9 else 4 }
  | .scpair _ d i b => some { d := Enc.dst d, a := Enc.route i, b := Enc.src b }
  | .hdrw _ d a b => some { d := Enc.dst d, a := Enc.src a, b := Enc.src b }
  | .hdrrFmt _ d a => some { d := Enc.dst d, a := Enc.src a }
  | .hdrrScale _ d a => some { d := Enc.dst d, a := Enc.src a, ty := 1 }
  | .ld _ d a col sz sx => some { d := Enc.dst d, a := Enc.src a, c := Enc.mc col sz false 0, ty := (BitVec.ofBool sx).zeroExtend 4 }
  | .st _ a b col sz => some { a := Enc.src a, b := Enc.src b, c := Enc.mc col sz false 0 }
  | .ldl _ d a col => some { d := Enc.lineDst d, a := Enc.src a, c := Enc.mc col 0 false 0 }
  | .stl _ a b col => some { a := Enc.src a, b := Enc.lineSrc b, c := Enc.mc col 0 false 0 }
  | .ldt _ d a col half => some { d := Enc.lineDst d, a := Enc.src a, c := Enc.mc col (if half then 1 else 0) true 0 }
  | .ldx _ d a b col sz sx => some { d := Enc.dst d, a := Enc.src a, b := Enc.src b, c := Enc.mc col sz false 0, ty := (BitVec.ofBool sx).zeroExtend 4 }
  | .stx _ v a b col sz => some { d := Enc.src v, a := Enc.src a, b := Enc.src b, c := Enc.mc col sz false 0 }
  | .ldp _ d a sz sx => some { d := Enc.dst d, a := Enc.src a, c := Enc.mc false sz false 0, ty := (BitVec.ofBool sx).zeroExtend 4 }
  | .stp _ a b sz => some { a := Enc.src a, b := Enc.src b, c := Enc.mc false sz false 0 }
  | .pldx _ d a b sz sx => some { d := Enc.dst d, a := Enc.src a, b := Enc.src b, c := Enc.mc false sz false 0, ty := (BitVec.ofBool sx).zeroExtend 4 }
  | .pstx _ v a b sz => some { d := Enc.src v, a := Enc.src a, b := Enc.src b, c := Enc.mc false sz false 0 }
  | .dqld _ a sz line q => some { a := Enc.src a, c := Enc.mc false sz false 0, ty := (BitVec.ofBool line ++ q).zeroExtend 4 }
  | .dqst _ a b scp q => some { a := Enc.src a, b := Enc.dqVal b, c := Enc.mc false b.size false (scp.zeroExtend 4), ty := (BitVec.ofBool b.isLine ++ q).zeroExtend 4 }
  | .dqpop _ d q => some { d := Enc.dst d, ty := q.zeroExtend 4 }
  | .dqwt _ q => some { ty := q.zeroExtend 4 }
  | .vld _ d a b scp => some { d := Enc.dst d, a := Enc.src a, b := Enc.src b, c := Enc.mc false 3 false (scp.zeroExtend 4) }
  | .vst _ d a b scp => some { d := Enc.dst d, a := Enc.src a, b := Enc.src b, c := Enc.mc false 3 false (scp.zeroExtend 4) }
  | .vrcl _ a b scp => some { a := Enc.src a, b := Enc.src b, c := Enc.mc false 3 false (scp.zeroExtend 4) }
  | .agcfg _ a b => some { a := Enc.src a, b := Enc.src b }
  | .agstart _ a b => some { a := Enc.src a, b := Enc.src b }
  | .ageos _ a => some { a := Enc.src a }
  | .qtkt _ d a t => some { d := Enc.dst d, a := Enc.src a, b := Enc.tag t, ty := Enc.tg t }
  | .qpush _ a b t scp => some { d := Enc.tag t, a := Enc.src a, b := Enc.src b, c := Enc.mc false 0 false (scp.zeroExtend 4), ty := Enc.tg t }
  | .qpop _ d a scp => some { d := Enc.dst d, a := Enc.src a, c := Enc.mc false 0 false (scp.zeroExtend 4) }
  | .qcnt _ d a => some { d := Enc.dst d, a := Enc.src a }
  | .aadd _ d a b w64 scp st => some { d := Enc.dst d, a := Enc.src a, b := Enc.src b, c := Enc.mc false (if w64 then 3 else 2) false (scp.zeroExtend 4), ty := st.zeroExtend 4 }
  | .amin _ d a b w64 scp st => some { d := Enc.dst d, a := Enc.src a, b := Enc.src b, c := Enc.mc false (if w64 then 3 else 2) false (scp.zeroExtend 4), ty := st.zeroExtend 4 }
  | .amax _ d a b w64 scp st => some { d := Enc.dst d, a := Enc.src a, b := Enc.src b, c := Enc.mc false (if w64 then 3 else 2) false (scp.zeroExtend 4), ty := st.zeroExtend 4 }
  | .aminu _ d a b w64 scp st => some { d := Enc.dst d, a := Enc.src a, b := Enc.src b, c := Enc.mc false (if w64 then 3 else 2) false (scp.zeroExtend 4), ty := st.zeroExtend 4 }
  | .amaxu _ d a b w64 scp st => some { d := Enc.dst d, a := Enc.src a, b := Enc.src b, c := Enc.mc false (if w64 then 3 else 2) false (scp.zeroExtend 4), ty := st.zeroExtend 4 }
  | .aand _ d a b w64 scp st => some { d := Enc.dst d, a := Enc.src a, b := Enc.src b, c := Enc.mc false (if w64 then 3 else 2) false (scp.zeroExtend 4), ty := st.zeroExtend 4 }
  | .aor _ d a b w64 scp st => some { d := Enc.dst d, a := Enc.src a, b := Enc.src b, c := Enc.mc false (if w64 then 3 else 2) false (scp.zeroExtend 4), ty := st.zeroExtend 4 }
  | .axor _ d a b w64 scp st => some { d := Enc.dst d, a := Enc.src a, b := Enc.src b, c := Enc.mc false (if w64 then 3 else 2) false (scp.zeroExtend 4), ty := st.zeroExtend 4 }
  | .aswp _ d a b w64 scp st => some { d := Enc.dst d, a := Enc.src a, b := Enc.src b, c := Enc.mc false (if w64 then 3 else 2) false (scp.zeroExtend 4), ty := st.zeroExtend 4 }
  | .acas _ d a b w64 scp st => some { d := Enc.dst d, a := Enc.src a, b := Enc.src b, c := Enc.mc false (if w64 then 3 else 2) false (scp.zeroExtend 4), ty := st.zeroExtend 4 }
  | .afadd _ d a b scp st x => some { d := Enc.dst d, a := Enc.src a, b := Enc.src b, c := Enc.mc false 2 false (scp.zeroExtend 4), ty := st.zeroExtend 4, x := x }
  | .ainc _ d a b w64 scp st => some { d := Enc.dst d, a := Enc.src a, b := Enc.src b, c := Enc.mc false (if w64 then 3 else 2) false (scp.zeroExtend 4), ty := st.zeroExtend 4 }
  | .adec _ d a b w64 scp st => some { d := Enc.dst d, a := Enc.src a, b := Enc.src b, c := Enc.mc false (if w64 then 3 else 2) false (scp.zeroExtend 4), ty := st.zeroExtend 4 }
  | .redadd _ a b w64 scp st => some { a := Enc.src a, b := Enc.src b, c := Enc.mc false (if w64 then 3 else 2) false (scp.zeroExtend 4), ty := st.zeroExtend 4 }
  | .redfadd _ a b scp st x => some { a := Enc.src a, b := Enc.src b, c := Enc.mc false 2 false (scp.zeroExtend 4), ty := st.zeroExtend 4, x := x }
  | .redmax _ a b w64 scp st => some { a := Enc.src a, b := Enc.src b, c := Enc.mc false (if w64 then 3 else 2) false (scp.zeroExtend 4), ty := st.zeroExtend 4 }
  | .barinit _ a b => some { a := Enc.src a, b := Enc.src b }
  | .barexp _ d a b scp par => some { d := Enc.dst d, a := Enc.src a, b := Enc.src b, c := scp.zeroExtend 8, ty := Enc.parity par }
  | .bararr _ d a b scp par => some { d := Enc.dst d, a := Enc.src a, b := Enc.src b, c := scp.zeroExtend 8, ty := Enc.parity par }
  | .barwt _ d a b scp => some { d := Enc.dst d, a := Enc.src a, b := Enc.src b, c := scp.zeroExtend 8 }
  | .bartst _ d a sel => some { d := Enc.dst d, a := Enc.src a, ty := sel.zeroExtend 4 }
  | .tlsig _ a b scp => some { a := Enc.src a, b := Enc.src b, ty := scp.zeroExtend 4 }
  | .tlwt _ a b scp => some { a := Enc.src a, b := Enc.src b, ty := scp.zeroExtend 4 }
  | .tlrd _ d a => some { d := Enc.dst d, a := Enc.src a }
  | .fence _ scp kind => some { c := Enc.mc false 0 false (scp.zeroExtend 4), ty := Enc.fenceKind kind }
  | .drain _ => some {}
  | .wtick _ d a imm => some { d := Enc.dst d, a := Enc.src a, b := Enc.immHi imm, c := Enc.immLo imm }
  | .wtickRel _ d imm => some { d := Enc.dst d, b := Enc.immHi imm, c := Enc.immLo imm, ty := 1 }
  | .powq _ d a => some { d := Enc.dst d, a := Enc.src a }
  | .powqWait _ d a => some { d := Enc.dst d, a := Enc.src a, ty := 1 }
  | .powrl _ a => some { a := Enc.src a }
  | .futwt _ d a b => some { d := Enc.dst d, a := Enc.src a, b := Enc.src b }
  | .futset _ d a b => some { d := Enc.dst d, a := Enc.src a, b := Enc.src b }
  | .futsetClr _ d a => some { d := Enc.dst d, a := Enc.src a, ty := 1 }
  | .yield _ a => some { a := Enc.src a }
  | .mxselAcq _ d a => some { d := Enc.dst d, a := Enc.src a }
  | .mxselRel _ d a => some { d := Enc.dst d, a := Enc.src a, ty := 1 }
  | .mxldb _ d a b => some { d := Enc.dst d, a := Enc.src a, b := Enc.src b }
  | .mxswb _ d a => some { d := Enc.dst d, a := Enc.src a }
  | .mxzero _ d a b => some { d := Enc.dst d, a := Enc.src a, b := Enc.src b }
  | .mxmacChan _ d a b => some { d := Enc.dst d, a := Enc.src a, b := Enc.src b }
  | .mxmacStore _ d a b => some { d := Enc.dst d, a := Enc.src a, b := Enc.src b, ty := 1 }
  | .mxmacFill _ d a b c => some { d := Enc.dst d, a := Enc.src a, b := Enc.src b, c := Enc.src c, ty := 2 }
  | .mxmacPfill _ d a b c => some { d := Enc.dst d, a := Enc.src a, b := Enc.src b, c := Enc.src c, ty := 3 }
  | .mxsc _ d a b c isB => some { d := Enc.dst d, a := Enc.src a, b := Enc.src b, c := Enc.src c, ty := (BitVec.ofBool isB).zeroExtend 4 }
  | .mxdrn _ d a b clr x => some { d := Enc.dst d, a := Enc.src a, b := Enc.src b, ty := (BitVec.ofBool clr).zeroExtend 4, x := x }
  | .mxacc _ d a b => some { d := Enc.dst d, a := Enc.src a, b := Enc.src b }
  | .mxsave _ d a b => some { d := Enc.dst d, a := Enc.src a, b := Enc.src b }
  | .mxrest _ d a b => some { d := Enc.dst d, a := Enc.src a, b := Enc.src b }
  | .mxst _ d a b c clr x => some { d := Enc.dst d, a := Enc.src a, b := Enc.src b, c := Enc.src c, ty := (BitVec.ofBool clr).zeroExtend 4, x := x }
  | .mxcolRd _ d a b => some { d := Enc.dst d, a := Enc.src a, b := Enc.src b }
  | .mxcolRet _ d a b => some { d := Enc.dst d, a := Enc.src a, b := Enc.src b, ty := 1 }
  | .mxwst _ d a b => some { d := Enc.dst d, a := Enc.src a, b := Enc.src b }
  | .mxfmt _ d a b => some { d := Enc.dst d, a := Enc.src a, b := Enc.src b }
  | .mxpeekAcc _ d a b => some { d := Enc.dst d, a := Enc.src a, b := Enc.src b }
  | .mxpeekSt _ d a => some { d := Enc.dst d, a := Enc.src a, ty := 1 }
  | .mxpeekTa _ d a b => some { d := Enc.dst d, a := Enc.src a, b := Enc.src b, ty := 2 }
  | .mxpeekTb _ d a b => some { d := Enc.dst d, a := Enc.src a, b := Enc.src b, ty := 3 }
  | .sbind _ a b c => some { a := Enc.src a, b := Enc.src b, c := Enc.src c }
  | .scpy _ d a b => some { d := Enc.dst d, a := Enc.src a, b := Enc.src b }
  | .scpyChk _ d a b c => some { d := Enc.dst d, a := Enc.src a, b := Enc.src b, c := Enc.src c, ty := 1 }
  | .sgat _ d a => some { d := Enc.dst d, a := Enc.src a }
  | .ssct _ d a => some { d := Enc.dst d, a := Enc.src a }
  | .sred _ d a op ty x => some { d := Enc.dst d, a := Enc.src a, c := Enc.sredOp op, ty := Enc.sredTy ty, x := x }
  | .sfill _ d a b => some { d := Enc.dst d, a := Enc.src a, b := Enc.src b }
  | .scvt _ d a b c x => some { d := Enc.dst d, a := Enc.src a, b := Enc.src b, c := Enc.src c, x := x }
  | .scan _ d a b => some { d := Enc.dst d, a := Enc.src a, b := Enc.src b }
  | .sst _ d a => some { d := Enc.dst d, a := Enc.src a }
  | .sstFlags _ d a => some { d := Enc.dst d, a := Enc.src a, ty := 1 }
  | .spat _ a b => some { a := Enc.src a, b := Enc.src b }
  | .ccred _ d a b op => some { d := Enc.dst d, a := Enc.src a, b := Enc.src b, ty := Enc.ccOp op }
  | .ccbc _ d a b => some { d := Enc.dst d, a := Enc.src a, b := Enc.src b }
  | .ccag _ d a b => some { d := Enc.dst d, a := Enc.src a, b := Enc.src b }
  | .ccsend _ d a b c => some { d := Enc.dst d, a := Enc.src a, b := Enc.src b, c := Enc.src c }
  | .ccrecv _ d a b c => some { d := Enc.dst d, a := Enc.src a, b := Enc.src b, c := Enc.src c }
  | .ccbar _ d a b => some { d := Enc.dst d, a := Enc.src a, b := Enc.src b }
  | .br _ imm => some { b := Enc.immHi imm, c := Enc.immLo imm }
  | .exit _ a => some { a := Enc.src a }
  | .nulSt _ m => some { d := m.extractLsb' 24 8, a := m.extractLsb' 16 8, b := m.extractLsb' 8 8, c := m.extractLsb' 0 8 }
  | .nulH _ m => some { d := m.extractLsb' 24 8, a := m.extractLsb' 16 8, b := m.extractLsb' 8 8, c := m.extractLsb' 0 8, ty := 1 }
  | .jpost _ d a b => some { d := Enc.dst d, a := Enc.src a, b := Enc.src b }
  | .jwait _ a b => some { a := Enc.src a, b := Enc.src b }
  | .launch _ d a b c st => some { d := Enc.dst d, a := Enc.src a, b := Enc.src b, c := Enc.src c, ty := st.zeroExtend 4 }
  | .launchSeq _ d a c st => some { d := Enc.dst d, a := Enc.src a, c := Enc.src c, ty := st.zeroExtend 4 + 8 }
  | .cancel _ d a rel level => some { d := Enc.dst d, a := Enc.src a, ty := (BitVec.ofBool rel ++ level).zeroExtend 4 }
  | .cmpl _ d a level => some { d := Enc.dst d, a := Enc.src a, ty := level.zeroExtend 4 }
  | .cmplWait _ d a level => some { d := Enc.dst d, a := Enc.src a, ty := level.zeroExtend 4 + 8 }
  | .gfork _ d a b c => some { d := Enc.dst d, a := Enc.src a, b := Enc.src b, c := Enc.src c }
  | .grew _ d a b c => some { d := Enc.dst d, a := Enc.src a, b := Enc.src b, c := Enc.src c }
  | .gbar _ d a => some { d := Enc.dst d, a := Enc.src a }
  | .gadv _ d a b => some { d := Enc.dst d, a := Enc.src a, b := Enc.src b }
  | .gcan _ d a b => some { d := Enc.dst d, a := Enc.src a, b := Enc.src b }
  | .gcanAll _ d a => some { d := Enc.dst d, a := Enc.src a, ty := 1 }
  | .gst _ d a => some { d := Enc.dst d, a := Enc.src a }
  | .bcall _ d imm => some { d := Enc.dst (.h d), b := Enc.immHi imm, c := Enc.immLo imm }
  | .bret _ a => some { a := Enc.src a }
  | .trap _ a code => some { a := Enc.src a, c := code }
  | .brk _ imm => some { b := Enc.immHi imm, c := Enc.immLo imm }
  | .csrr _ d num => some { d := Enc.dst d, b := Enc.immHi num, c := Enc.immLo num }
  | .csrw _ a num => some { a := Enc.src a, b := Enc.immHi num, c := Enc.immLo num }
  | .halt _ a => some { a := Enc.src a }
  | .trace _ a imm => some { a := Enc.src a, b := Enc.immHi imm, c := Enc.immLo imm }
  | .cfginv _ a => some { a := Enc.src a }
  | .cfginvAll _ => some { ty := 1 }
  | .stestRun _ d a => some { d := Enc.dst d, a := Enc.src a }
  | .stestSt _ d a => some { d := Enc.dst d, a := Enc.src a, ty := 1 }
  | .blockFetchMap _ => none
  | .blockCommit _ => none
  | .taskDispatch _ _ => none
  | .timeSliceExpiry _ => none
  | .cardFinish _ _ => none
  | .externalResultArrival _ => none
  | .scratchAccessPerformed _ => none
  | .dRequestPerformed _ _ => none
  | .arbiterSlotStart _ _ => none
  | .matrixCommandStart _ _ => none
  | .matrixCommandComplete _ _ => none
  | .matrixRowUpdate _ => none
  | .residueMismatch _ _ => none
  | .streamCommandStart _ => none
  | .streamBurst _ => none
  | .streamCommandComplete _ => none
  | .ingressFrameReceived _ _ _ _ => none
  | .placementGrant _ => none
  | .configCompleteWave _ _ => none
  | .drainToken _ _ => none
  | .quiescenceReport _ _ => none
  | .allocatorHeadTimeout _ _ => none
  | .regionMove _ _ _ _ => none
  | .tickBoundary => none
  | .timebaseLockLoss => none
  | .tableArmedStart _ _ => none
  | .laneReclaimStart _ _ _ => none
  | .tableEntryStart _ _ _ => none
  | .tableDeadlineOverrun _ _ _ => none
  | .fallbackBudgetEnd _ _ _ => none
  | .modeChangePoint _ _ => none
  | .drainLimitExpiry _ => none
  | .saveLimitExpiry _ => none
  | .contextSaveComplete _ => none
  | .contextRestoreComplete _ => none
  | .contextTeardownComplete _ => none
  | .publicationTimeout _ => none
  | .queueSlotGrant _ => none
  | .demotedQueueCheck _ => none
  | .stallDetected _ => none
  | .waitConditionMet _ => none
  | .nopPacket _ => none
  | .launchPacket _ => none
  | .deltaPacket _ => none
  | .copyPacket _ => none
  | .waitPacket _ => none
  | .signalPacket _ => none
  | .fencePacket _ => none
  | .tableInstall _ => none
  | .tableStart _ => none
  | .tableSwitch _ => none
  | .tableAcknowledge _ => none
  | .tableRemove _ => none
  | .modePrio _ => none
  | .modePause _ => none
  | .modePubto _ => none
  | .modeReslim _ => none
  | .graphPacket _ => none
  | .debugAttach _ => none
  | .debugDetach _ => none
  | .debugHalt _ => none
  | .debugResume _ => none
  | .debugReadState _ => none
  | .debugWriteState _ => none
  | .debugSetBreakpoint _ => none
  | .debugClearBreakpoint _ => none
  | .cancelPacket _ => none
  | .qctlEnable _ => none
  | .qctlDisable _ => none
  | .qctlRestart _ _ _ => none
  | .qctlResume _ => none
  | .qctlDoorbell _ => none
  | .ctxctlCreate _ _ => none
  | .ctxctlSave _ => none
  | .ctxctlRestore _ _ => none
  | .ctxctlTeardown _ => none
  | .ctxsaveWrite _ _ => none
  | .tbctlSettime => none
  | .tbctlStart => none
  | .tbadjWrite _ => none
  | .cfginvCsrWrite _ => none
  | .cfgInvalidationPerformed => none
  | .vminvWrite _ => none
  | .vmInvalidationPerformed => none
  | .futsetCsrWrite _ => none
  | .pgretireWrite _ => none
  | .expoolWrite _ _ => none
  | .chretireWrite _ _ => none
  | .channelMigrationDone _ => none
  | .attctlGo _ => none
  | .quoteComplete => none
  | .peercfgWrite _ => none
  | .shadowWrite _ _ => none
  | .cfgcacheWrite _ _ => none
  | .leaveBudgetWrite _ _ _ => none
  | .tlclrWrite _ _ => none
  | .ingressChannelWrite _ _ => none
  | .histcfgWrite _ _ _ => none
  | .trcctlWrite _ _ => none
  | .evidxWrite _ => none
  | .csrWriteOther _ _ _ _ => none
  | .hostCsrAccess _ _ _ _ => none
  | .groupDeadline _ => none
  | .groupCollection _ => none
  | .ccbarTimeout _ _ _ => none
  | .collectiveComplete _ => none
  | .flitReceived _ _ _ _ _ => none
  | .linkTrainingDone _ _ _ _ _ => none
  | .linkTrainingTimeout _ => none
  | .linkLaneFailure _ _ => none
  | .linkModuleFailure _ _ => none
  | .linkRetrainDone _ _ => none
  | .powerOnReset _ _ _ => none
  | .recoveryImageFrame _ _ => none
  | .configRecordWrite _ => none
  | .selfTestStart _ _ _ => none
  | .selfTestEnd _ _ _ _ => none
  | .selfTestOverdue _ => none
  | .ageingSample _ _ _ _ => none
  | .eccThresholdRetire _ _ => none
  | .thermalTrip _ => none
  | .pdbAccessPerformed _ => none
  | .sequencerStreamEnd _ _ => none
  | .ethernetAutoNegotiation _ _ => none

/-- [63:52] and [7:5] of a place (R38). -/
def Place.top : Place → BitVec 12
  | .timed stamp _ => stamp
  | .block l => l ++ (0 : BitVec 7)

def Place.stg : Place → BitVec 3
  | .timed _ g => g
  | .block _ => 0

/-- The fields of an instruction word. -/
def Instr.fields (i : Instr) : Option Fields :=
  match i.hd, i.opcode, encBody i with
  | some h, some op, some e =>
    some { top := h.place.top, op := op, d := e.d, a := e.a, b := e.b, c := e.c, ps := h.ps, pn := h.pn,
           stg := h.place.stg, ty := e.ty, x := e.x }
  | _, _, _ => none

/-- The word of an instruction: none for a step of the device or an act of the host, which has no encoding, and none for an
instruction that is not well-formed. -/
def encode (i : Instr) : Option Word :=
  if i.wf then i.fields.map Fields.pack else none

end Sys2Proof
end

