-- ==== Sys2Proof/Machine/State.lean ====
section
/-! DEFINITION. The state of the package as plain data: everything the spec gives the machine, on all four compute dies, with
the agenda that says which agent acts next. Tables are lists of (key, value) in strictly rising key order; a key that is not
listed holds the table's initial value. -/

namespace Sys2Proof.Machine

/-- A sparse table: strictly rising keys. -/
abbrev Tab (α : Type) := List (Nat × α)

/-! ### Who acts -/

/-- Where an instruction stands in its life: it fires; its access or command is performed; or its block's commit performs it. -/
inductive Phase where
  | fire
  | perform
  | commit
deriving DecidableEq, Repr

/-- The agent that fires or performs an instruction: a PE of a region, or a block of a task on its executor tile. -/
structure Issuer where
  /-- The compute tile and the PE (R6, R62); the executor tile of a block. -/
  die : Nat
  x : Nat
  y : Nat
  pe : Nat
  /-- Context 0 to 63, and the region handle of a timed issuer (R219). -/
  ctx : Nat
  handle : Nat
  /-- The task of a block issuer; 0 for a timed issuer. -/
  task : Nat
  /-- The instruction's index in its block, from 1 (R240). -/
  idx : Nat
  phase : Phase
  /-- The operands read at firing, for a later phase. -/
  ops : List Val
  /-- Poison of the predicate named by PS (R84). -/
  pois : Bool
  /-- The region cycle of firing and the distance h of the access (R121). -/
  fired : Nat
  dist : Nat
  /-- Ties the reply to the results that wait for it. -/
  tag : Nat
deriving DecidableEq, Repr

def Issuer.init : Issuer :=
  { die := 0, x := 0, y := 0, pe := 0, ctx := 0, handle := 0, task := 0, idx := 1, phase := .fire, ops := [], pois := false,
    fired := 0, dist := 0, tag := 0 }

/-- The host as an issuer: no context has number 64. -/
def Issuer.host : Issuer := { Issuer.init with ctx := 64 }

/-- A step of the device or an act of the outside world as the agenda holds it: one constructor per constructor of `Instr`
that is no instruction word, under the same name. -/
inductive Ev where
  | blockFetchMap (task : Nat)
  | blockCommit (task : Nat)
  | taskDispatch (die : Nat) (tile : Nat)
  | timeSliceExpiry (task : Nat)
  | cardFinish (ctx : Nat) (card : Word)
  | externalResultArrival (tile : Nat)
  | scratchAccessPerformed (tile : Nat)
  | dRequestPerformed (tile : Nat) (chan : Nat)
  | arbiterSlotStart (die : Nat) (chan : Nat)
  | matrixCommandStart (isl : Nat) (path : Nat)
  | matrixCommandComplete (isl : Nat) (num : Nat)
  | matrixRowUpdate (isl : Nat)
  | residueMismatch (isl : Nat) (col : Nat)
  | streamCommandStart (isl : Nat)
  | streamBurst (isl : Nat)
  | streamCommandComplete (isl : Nat)
  | ingressFrameReceived (port : Nat) (etype : Nat) (payload : List Byte) (fcsOk : Bool)
  | placementGrant (die : Nat)
  | configCompleteWave (ctx : Nat) (handle : Nat)
  | drainToken (ctx : Nat) (handle : Nat)
  | quiescenceReport (ctx : Nat) (handle : Nat)
  | allocatorHeadTimeout (die : Nat) (prio : Nat)
  | regionMove (ctx : Nat) (handle : Nat) (px : Nat) (py : Nat)
  | tickBoundary
  | timebaseLockLoss
  | tableArmedStart (die : Nat) (slot : Nat)
  | laneReclaimStart (die : Nat) (slot : Nat) (entry : Nat)
  | tableEntryStart (die : Nat) (slot : Nat) (entry : Nat)
  | tableDeadlineOverrun (die : Nat) (slot : Nat) (entry : Nat)
  | fallbackBudgetEnd (die : Nat) (slot : Nat) (entry : Nat)
  | modeChangePoint (die : Nat) (slot : Nat)
  | drainLimitExpiry (ctx : Nat)
  | saveLimitExpiry (ctx : Nat)
  | contextSaveComplete (ctx : Nat)
  | contextRestoreComplete (ctx : Nat)
  | contextTeardownComplete (ctx : Nat)
  | publicationTimeout (q : Nat)
  | queueSlotGrant (q : Nat)
  | demotedQueueCheck (q : Nat)
  | stallDetected (ctx : Nat)
  | waitConditionMet (q : Nat)
  | nopPacket (q : Nat)
  | launchPacket (q : Nat)
  | deltaPacket (q : Nat)
  | copyPacket (q : Nat)
  | waitPacket (q : Nat)
  | signalPacket (q : Nat)
  | fencePacket (q : Nat)
  | tableInstall (q : Nat)
  | tableStart (q : Nat)
  | tableSwitch (q : Nat)
  | tableAcknowledge (q : Nat)
  | tableRemove (q : Nat)
  | modePrio (q : Nat)
  | modePause (q : Nat)
  | modePubto (q : Nat)
  | modeReslim (q : Nat)
  | graphPacket (q : Nat)
  | debugAttach (q : Nat)
  | debugDetach (q : Nat)
  | debugHalt (q : Nat)
  | debugResume (q : Nat)
  | debugReadState (q : Nat)
  | debugWriteState (q : Nat)
  | debugSetBreakpoint (q : Nat)
  | debugClearBreakpoint (q : Nat)
  | cancelPacket (q : Nat)
  | qctlEnable (q : Nat)
  | qctlDisable (q : Nat)
  | qctlRestart (q : Nat) (clrsh : Bool) (host : Bool)
  | qctlResume (q : Nat)
  | qctlDoorbell (q : Nat)
  | ctxctlCreate (ctx : Nat) (map : Nat)
  | ctxctlSave (ctx : Nat)
  | ctxctlRestore (ctx : Nat) (map : Nat)
  | ctxctlTeardown (ctx : Nat)
  | ctxsaveWrite (ctx : Nat) (w : Word)
  | tbctlSettime
  | tbctlStart
  | tbadjWrite (w : Word)
  | cfginvCsrWrite (w : Word)
  | cfgInvalidationPerformed
  | vminvWrite (w : Word)
  | vmInvalidationPerformed
  | futsetCsrWrite (w : Word)
  | pgretireWrite (w : Word)
  | expoolWrite (die : Nat) (w : Word)
  | chretireWrite (die : Nat) (w : Word)
  | channelMigrationDone (die : Nat)
  | attctlGo (w : Word)
  | quoteComplete
  | peercfgWrite (w : Word)
  | shadowWrite (die : Nat) (w : Word)
  | cfgcacheWrite (die : Nat) (w : Word)
  | leaveBudgetWrite (die : Nat) (num : Nat) (w : Word)
  | tlclrWrite (ctx : Nat) (w : Word)
  | ingressChannelWrite (n : Nat) (w : Word)
  | histcfgWrite (die : Nat) (i : Nat) (w : Word)
  | trcctlWrite (die : Nat) (w : Word)
  | evidxWrite (w : Word)
  | csrWriteOther (die : Nat) (ctx : Nat) (num : Nat) (w : Word)
  | hostCsrAccess (pa : Nat) (len : Nat) (write : Bool) (w : Word)
  | groupDeadline (desc : Nat)
  | groupCollection (desc : Nat)
  | ccbarTimeout (die : Nat) (num : Nat) (ctx : Nat)
  | collectiveComplete (die : Nat)
  | flitReceived (link : Nat) (pos : Nat) (head : Word) (body : List Word) (crcOk : Bool)
  | linkTrainingDone (link : Nat) (ver : Nat) (optOk : Bool) (posOk : Bool) (mods : Nat)
  | linkTrainingTimeout (link : Nat)
  | linkLaneFailure (link : Nat) (spare : Bool)
  | linkModuleFailure (link : Nat) (mod : Nat)
  | linkRetrainDone (link : Nat) (passed : Bool)
  | powerOnReset (imgA : List Byte) (imgB : List Byte) (fusedSvn : Nat)
  | recoveryImageFrame (payload : List Byte) (last : Bool)
  | configRecordWrite (ok : Bool)
  | selfTestStart (die : Nat) (page : Bool) (n : Nat)
  | selfTestEnd (die : Nat) (page : Bool) (n : Nat) (passed : Bool)
  | selfTestOverdue (isl : Nat)
  | ageingSample (die : Nat) (quad : Nat) (ring : Nat) (margin : Nat)
  | eccThresholdRetire (die : Nat) (page : Nat)
  | thermalTrip (die : Nat)
  | pdbAccessPerformed (part : Nat)
  | sequencerStreamEnd (tile : Nat) (chan : Nat)
  | ethernetAutoNegotiation (port : Nat) (optOk : Bool)
deriving DecidableEq, Repr

/-! ### Memory -/

/-- One memory: bytes by address and the granules that carry poison, both strictly rising. -/
structure Mem where
  cells : List Host.Cell
  pois : List Nat
deriving DecidableEq, Repr

def Mem.empty : Mem := { cells := [], pois := [] }

/-! ### Processing elements, regions -/

/-- A processing element (R62, R63, R84). -/
structure Pe where
  latch : Val
  /-- p7 to p1 in bits 7 to 1 (R63). -/
  pred : BitVec 8
  /-- `PPOIS` (R84). -/
  ppois : BitVec 8
  flags : Flags
  /-- k0 to k3 (R62, R78). -/
  k : List Val
  /-- The timed list (R69). -/
  list : List Word
  /-- Node and loop tags of the list's entries (R417). -/
  tags : List Word
  /-- Entries of the list whose parity is wrong (R69). -/
  bad : List Nat
deriving DecidableEq, Repr

def Pe.init : Pe :=
  { latch := Val.zero, pred := 0, ppois := 0, flags := 0, k := [Val.zero, Val.zero, Val.zero, Val.zero], list := [], tags := [], bad := [] }

/-- A beat: a value and its side band (R74, R76). -/
structure Beat where
  v : Val
  sb : Byte
deriving DecidableEq, Repr

def Beat.zero : Beat := { v := Val.zero, sb := 0 }

/-- What a result writes at its completion (R42, R64). -/
inductive Wr where
  | row (e : Nat) (v : Val)
  | latch (v : Val)
  | out (n : Nat) (b : Beat)
  | pred (p : Nat) (v : Bool) (pois : Bool)
  | preds (v : BitVec 8) (pois : BitVec 8)
  /-- The predicates alone, or their poison alone (R84). -/
  | predVals (v : BitVec 8)
  | predPois (pois : BitVec 8)
  | flags (f : Flags)
  /-- A fault raised at the completion point (R143). -/
  | fault (code : Nat)
  | pflagClear (f : Flags)
  /-- The place of `n` destinations of an external result that has not arrived. -/
  | waiting (n : Nat)
deriving DecidableEq, Repr

/-- A result in flight in a timed region. -/
structure Pend where
  /-- Region cycle at whose end it is written (R64). -/
  due : Nat
  /-- The row-file tile and the PE it belongs to. -/
  tile : Nat
  pe : Nat
  wr : Wr
  /-- Fixed latency by class (R454). -/
  fixed : Bool
  /-- External (R66); an external result waits for its arrival. -/
  ext : Bool
  arrived : Bool
  /-- Ties an external result to its reply. -/
  tag : Nat
  /-- The divide that is under way: OP - 0x0A and the operands (R344). -/
  div : Option (Nat × Val × Val) := none
  /-- The region cycle in which its instruction fired (R85). -/
  fired : Nat := 0
deriving DecidableEq, Repr

/-- What a timed access takes of its tile's cycle (R124, R125): a port and a plane; or, in the cycle after an atomic's read half,
its write half; a port alone; or no port. `word` is 2 · word index, plus 1 for two words. The slot of a ring operation is known
when it is performed: its ring, and its tag or the ring's HEAD. -/
inductive Claim where
  | plane (p : Nat)
  | readHalf (p word : Nat)
  | writeHalf (p word : Nat)
  | ring (r : Nat) (tag : Option Nat)
  | port
  | nothing
deriving DecidableEq, Repr

/-- A timed scratch access on its way: performed in region cycle `at` (R121). -/
structure Acc where
  at_ : Nat
  who : Issuer
  i : Instr
  tile : Nat
  claim : Claim
deriving DecidableEq, Repr

/-- A beat on the route network: it enters the switch of `tile` through source port `src` in this region cycle (R75). -/
structure Flight where
  tile : Nat
  src : Nat
  b : Beat
deriving DecidableEq, Repr

/-- States of R220. -/
inductive RegSt where
  | free
  | queued
  | loading
  | arming
  | running
  | draining
  | ready
  | halted
  | saved
  | ended
deriving DecidableEq, Repr

/-- A fault raised in a region's cycle, ranked by tile and PE (R407). -/
structure RFault where
  rank : Nat
  code : Nat
  data1 : Word
deriving DecidableEq, Repr

/-- A route word (R77) of a tile: the source an output takes in a slot. -/
structure RouteW where
  tile : Nat
  slot : Nat
  out : Nat
  src : Nat
  len : Nat
deriving DecidableEq, Repr

/-- A port-plan word (R71) of a tile. -/
structure PlanW where
  tile : Nat
  slot : Nat
  bank : Nat
  rd0 : Option Nat
  rd1 : Option Nat
  wr : Option Nat
deriving DecidableEq, Repr

/-- A port of the port map (R222). -/
structure PortW where
  idx : Nat
  out : Bool
  edge : Nat
  x : Nat
  y : Nat
  sel : Nat
  tgt : Nat
  lane : Nat
deriving DecidableEq, Repr

/-- A completion word's parts (R230). -/
structure Compl where
  state : Nat
  code : Nat
  serial : Nat
  count : Nat
deriving DecidableEq, Repr

/-- UNKNOWN. -/
def Compl.unknown : Compl := { state := 8, code := 0, serial := 0, count := 0 }

/-- The configuration that stands in a region's pages while a launch that is to load another waits (R226, R233). -/
structure Kept where
  cfg : Nat
  image : List Word
  stale : Bool
  shw : Nat
  shh : Nat
  period : Nat
  stages : Nat
  rm : Rm
  leave : Nat
  ports : List PortW
deriving DecidableEq, Repr

/-- A region handle of a context and the region that holds it (R219, R220). -/
structure Region where
  st : RegSt
  /-- The state a save interrupted, for the restore (R220). -/
  was : RegSt
  /-- Placement: die, page column and row of the shape's corner, shape (R6, R221). -/
  die : Nat
  px : Nat
  py : Nat
  shw : Nat
  shh : Nat
  /-- The page set it holds: the largest shape of a sequence (R227), else its shape. -/
  setw : Nat
  seth : Nat
  period : Nat
  stages : Nat
  rm : Rm
  leave : Nat
  /-- The configuration handle, its image and whether the copy is stale (R217). -/
  cfg : Nat
  image : List Word
  stale : Bool
  /-- What a relaunch that has not begun to load leaves in the pages, and whether its lookup asks for a load (R224, R233). -/
  kept : Option Kept
  reload : Bool
  /-- N, and the region cycle t: the counter is t mod P, the admission t div P (R68). -/
  n : Nat
  t : Nat
  /-- Its image and record have been looked up; its leave grant is held (R291). -/
  ready : Bool
  granted : Bool
  /-- Stops at the end of the current cycle for a save, a debug stop or a switch (R73, R238). -/
  stop : Bool
  /-- Why it stopped: a `halt`, `brk` or breakpoint, with its tag and the node's tag. -/
  haltTag : Option (Word × Word)
  /-- The state and code with which the launch ends at the next cycle boundary (R220). -/
  kill : Option (Nat × Nat)
  /-- A saved region that the allocator is to restore (R349); a running one that waits to be saved (R347). -/
  back : Bool
  saving : Bool
  /-- The origin to which it moves: its state is carried at the next cycle (R299). -/
  moving : Option (Nat × Nat)
  pend : List Pend
  acc : List Acc
  flights : List Flight
  routes : List RouteW
  plans : List PlanW
  ports : List PortW
  faults : List RFault
  /-- Serial, work and record of the current launch (R228, R229). -/
  serial : Nat
  compl : Compl
  /-- The job and graph slots it belongs to (R229), its queue and its priority. -/
  job : Option Nat
  graph : Option Nat
  queue : Nat
  prio : Nat
  recAddr : Nat
  rel : Bool
  isl : Option Nat
  /-- An inline record's words in place of one in memory (R326). -/
  inl : Option (List Word)
  /-- Its place in the allocator's FIFO, and the cycle in which it became the head (R319). -/
  order : Int
  waitAt : Nat
  /-- The cycle at which the pending stage of loading or of arming ends (R224). -/
  due : Nat
  /-- Constants and seeds still to be written (R224). -/
  consts : List (Nat × Nat × Nat × Nat × Word)
  seeds : List (Nat × Word)
  /-- Beats waiting at input ports and in output ports of the stream port network, by port index (R198, R223). -/
  inq : Tab (List Beat)
  outq : Tab (List Beat)
  /-- The sequence record, its steps and the step that runs (R227). -/
  seq : Option Nat
  stepNo : Nat
  nsteps : Nat
  phase : Compl
  phaseSerial : Nat
  /-- The table lane that holds the region (R273): table slot and lane. -/
  lane : Option (Nat × Nat)
  /-- Cycle at which quiescence was found (R225). -/
  quiet : Option Nat
  /-- Cycles that fetching its image into the cache takes, ahead of the streaming (R216). -/
  fetch : Nat
  /-- The phase counters LOAD, FILL, STEADY and DRAIN (R420). -/
  cLoad : Nat
  cFill : Nat
  cSteady : Nat
  cDrain : Nat
  /-- STC when the present cycle was first tried (R292). -/
  firstStc : Nat
  /-- It stands still in a wait (R73, R335). -/
  frozen : Bool
  /-- The region cycle of its latest fence: no later operation passes an earlier one (R162). -/
  fenceAt : Nat
  /-- REL and ISL of a LAUNCH packet's LFLAGS (R326). -/
  lrel : Bool
  lisl : Option Nat
  /-- The job card that made the launch, by its number among the posted cards. -/
  card : Option Nat
deriving DecidableEq, Repr

def Region.init : Region :=
  { st := .free, was := .free, die := 0, px := 0, py := 0, shw := 1, shh := 1, setw := 1, seth := 1, period := 1, stages := 1, rm := .rne,
    leave := 0, cfg := 0, image := [], stale := false, kept := none, reload := false, n := 0, t := 0, ready := false, granted := false, stop := false, haltTag := none,
    kill := none, back := false, saving := false, moving := none, pend := [], acc := [], flights := [], routes := [], plans := [], ports := [], faults := [],
    serial := 0, compl := Compl.unknown, job := none, graph := none, queue := 0xFFFF, prio := 3, recAddr := 0, rel := false, isl := none,
    inl := none, order := 0, waitAt := 0, due := 0, consts := [], seeds := [], seq := none, stepNo := 0, nsteps := 0, phase := Compl.unknown,
    phaseSerial := 0, lane := none, quiet := none, card := none, fetch := 0, cLoad := 0, cFill := 0, cSteady := 0, cDrain := 0, firstStc := 0,
    frozen := false, fenceAt := 0, lrel := false, lisl := none, inq := [], outq := [] }

/-! ### Requests on their way -/

/-- Where a request waits: at a memory tile, a partition, a device-memory channel of a tile, or a remote unit. -/
inductive ReqAt where
  | tile (k : Nat)
  | part (k : Nat)
  | chan (tile chan : Nat)
  | unit (k : Nat)
deriving DecidableEq, Repr

/-- An untimed access or request in flight: performed in cycle `at` or later (R121, R127, R149, R151). -/
structure Req where
  at_ : Nat
  place : ReqAt
  who : Issuer
  i : Instr
  /-- A store or other effect, which a later release of its agent waits for. -/
  store : Bool
  /-- Its number among its tile's D requests (R151). -/
  seq : Nat
  /-- The cycle of its issue (R422). -/
  born : Nat := 0
  /-- The handle of the region whose scratch it reaches (R120). -/
  reg : Nat := 0
  /-- A D request that its channel's arbiter has served (R155). -/
  served : Bool := false
deriving DecidableEq, Repr

/-- A reply on its way to a compute tile (R66): the values for the destinations that carry the tag. -/
structure Reply where
  at_ : Nat
  tile : Nat
  who : Issuer
  form : Form
  /-- What the result writes, and the value of each destination of a block. -/
  wrs : List Wr
  dsts : List (Dst × Val)
  latch : Option Val
deriving DecidableEq, Repr

/-- The next thing an agent does. -/
inductive Act where
  /-- An issuer fires a word in its form. -/
  | fire (who : Issuer) (word : Word)
  /-- An access or command already fired is performed: by its region's cycle, or as a request that has arrived. -/
  | redo (a : Acc)
  | perform (r : Req)
  /-- A step of the device or an act of the host or of the outside world. -/
  | event (e : Ev)
  /-- The next effect of a block's commit. -/
  | commitStep (task : Nat)
  /-- The end of a region's cycle: completions, routes and the cycle counter (R64, R75). -/
  | endCycle (ctx handle die : Nat)
  /-- The next part of the present cycle: what it holds is settled when it is reached. -/
  | stage (n : Nat)
  /-- What a region does in a cycle beside its own cycle, or while it stands still. -/
  | tend (ctx handle die : Nat)
  /-- Whether a task's block could fire nothing because it waits (R335). -/
  | stuck (task : Nat) (yes : Bool)
deriving DecidableEq, Repr

/-- A part of the cycle that is still to come. -/
def Act.isStage (a : Act) : Bool :=
  match a with
  | .stage _ => true
  | _ => false

/-- A card that is to finish in this cycle. -/
def Act.isFinish (a : Act) : Bool :=
  match a with
  | .event (.cardFinish _ _) => true
  | _ => false

/-! ### Tasks and blocks (R239 to R265) -/

/-- How a block leaves (R245, R261 to R265). -/
inductive Exit where
  | to (a : Nat)
  | yield (a : Nat)
  | exit (v : Val)
  | jwait (pa a : Nat)
  | futwt (pa : Nat) (d : Dst) (a : Nat)
deriving DecidableEq, Repr

/-- An effect held for the commit (R244, R246). -/
structure Deferred where
  key : Nat
  who : Issuer
  i : Instr
deriving DecidableEq, Repr

/-- What an instruction of a block has produced: its destination, its latch value and the cycle from which they are read. -/
structure BRes where
  dst : Option Dst
  v : Val
  latch : Option Val
  from_ : Nat
deriving DecidableEq, Repr

/-- A mapped block (R240 to R248). -/
structure Blk where
  addr : Nat
  hdr : Bhdr
  words : List Word
  k : List Val
  /-- The cycle in which its first instruction may fire. -/
  start : Nat
  /-- Indices that have fired, and among them those that had no effect (R243). -/
  fired : List Nat
  off : List Nat
  /-- Results by 16 · index + position. -/
  res : Tab BRes
  /-- Predicates written, by 8 · index + p: value, poison and the cycle from which they are read. -/
  preds : Tab (Bool × Bool × Nat)
  /-- By index: the `PFLAG` bits its instruction cleared and raised; a read sees those of lower index (R83). -/
  flags : Tab (Flags × Flags)
  /-- Indices nulled by a `nul` (R263). -/
  nulled : List Nat
  stores : List Deferred
  sends : List Deferred
  exit : Option Exit
  /-- Loads and waits still out. -/
  out : List Nat
  /-- Ring slots held: tile, ring and how many (R140). -/
  held : List (Nat × Nat × Nat)
  /-- The D sequence number before the block's own window (R151). -/
  dbase : Nat
  /-- The cycle in which each PE's divider is free again (R67). -/
  divs : Tab Nat
deriving DecidableEq, Repr

/-- States of R250. -/
inductive TaskSt where
  | idle
  | posted
  | running
  | waiting
  | halted
  | done
  | cancelled
  | aborted
deriving DecidableEq, Repr

/-- A task that the machine holds: posted, running, waiting or halted (R249, R250). -/
structure Task where
  ctx : Nat
  st : TaskSt
  frame : Nat
  /-- Its card's number among the posted cards. -/
  card : Nat
  queue : Nat
  prio : Nat
  die : Nat
  graph : Option Nat
  job : Option Nat
  addr : Nat
  h : List Val
  /-- Its executor tile, and since when it has held it (R256). -/
  tile : Option Nat
  since : Nat
  blk : Option Blk
  /-- The commit under way: effects still to be made, in order (R246). -/
  commit : List Deferred
  sending : Bool
  hdone : Bool
  /-- The first fault met in the commit. -/
  cfault : Option Nat
  committed : Nat
  /-- What a WAITING task waits for: a card or a future, by physical address (R265, R309). A task that waits for the pager
  stands in a fault record. -/
  waitCard : Option Nat
  waitFut : Option Nat
  /-- The h register that takes the future's value (R310). -/
  waitDst : Option Nat
  pendH : Option (Nat × Val)
  /-- Requeue at the next commit: at the head or at the tail (R256). -/
  requeue : Option Bool
  /-- Order in the posted list: a lower number stands nearer the head (R256). -/
  seqNo : Int
  /-- The cycle in which a sibling of a group is posted, until then (R372). -/
  postAt : Option Nat
  cancelReq : Bool
  /-- A commit has begun. -/
  committing : Bool
  /-- The tag of a `halt` that stops the task at its next commit, and one of a debug stop (R238, R416). -/
  haltTag : Option Word
  debugStop : Bool
  /-- What its block tried last had to wait (R335). -/
  stuck : Bool
  /-- An executor has taken it: ADDR and the h registers are its own, not only its frame's (R249). -/
  taken : Bool
  /-- The code a task ended with (R249). -/
  code : Nat
deriving DecidableEq, Repr

def Task.init : Task :=
  { ctx := 0, st := .idle, frame := 0, card := 0, queue := 0, prio := 0, die := 0, graph := none, job := none, addr := 0,
    h := List.replicate 8 Val.zero, tile := none, since := 0, blk := none, commit := [], sending := false, hdone := false,
    cfault := none, committed := 0, waitCard := none, waitFut := none, waitDst := none, pendH := none, requeue := none,
    seqNo := 0, postAt := none, cancelReq := false, committing := false, haltTag := none,
    debugStop := false, stuck := false, taken := false, code := 0 }

def Blk.init : Blk :=
  { addr := 0, hdr := { count := 0, smask := 0, wmask := 0, memd := false, atom := false }, words := [], k := [], start := 0,
    fired := [], off := [], res := [], preds := [], flags := [], nulled := [], stores := [], sends := [], exit := none, out := [],
    held := [], dbase := 0, divs := [] }

/-! ### Memory tiles (R119 to R146) -/

/-- A running sequencer channel (R134). -/
structure Chan where
  record : Nat
  port : Nat
  wr : Bool
  /-- Beats left; none: until `ageos`. -/
  left : Option Nat
  /-- Counters c0 to c3. -/
  ctr : List Nat
  /-- Region cycle of the next beat, and the issuing region; a block's stream counts device cycles. -/
  next : Nat
  ctx : Nat
  handle : Nat
  timed : Bool
deriving DecidableEq, Repr

/-- A ticket ring (R137, R138). -/
structure Ring where
  head : BitVec 32
  size : Nat
  base : Nat
  full : List Nat
  /-- The task that holds slots, and how many (R140). -/
  holder : Option Nat
  held : Nat
deriving DecidableEq, Repr

def Ring.init : Ring := { head := 0, size := 1, base := 0, full := [], holder := none, held := 0 }

/-- A barrier slot (R352): its state (0 none, 1 live, 2 failed), the phase word, the pending counts of even and odd phases with
the mark that one was posted, the count and AUTO. -/
structure Bar where
  st : Nat
  phase : BitVec 32
  pend0 : Int
  pend1 : Int
  posted0 : Bool
  posted1 : Bool
  count : Nat
  auto : Bool
deriving DecidableEq, Repr

def Bar.init : Bar :=
  { st := 0, phase := 0, pend0 := 0, pend1 := 0, posted0 := false, posted1 := false, count := 0, auto := false }

/-- The sequencer, the rings, the ports and the barrier slots of a memory tile (R124, R133 to R141, R352). -/
structure MemTile where
  /-- Record words by 2 · record + word (R133). -/
  recs : Tab Word
  rings : Tab Ring
  chans : Tab Chan
  /-- Tokens held for a record in use: record, word and value (R135). -/
  tokens : List (Nat × Nat × Word)
  /-- Barrier slots by number. -/
  bars : Tab Bar
deriving DecidableEq, Repr

def MemTile.init : MemTile := { recs := [], rings := [], chans := [], tokens := [], bars := [] }

/-! ### Device memory queues, versioned words, counters -/

/-- One decoupling queue (R150). -/
structure Dq where
  /-- Places of the return side, oldest first: a place's number, and its beat once that has arrived. -/
  slots : List (Nat × Option Val)
  /-- Stream commands that deliver into the queue (R199). -/
  live : Nat
deriving DecidableEq, Repr

def Dq.init : Dq := { slots := [], live := 0 }

/-- The numbers of a versioned word (R165); its slots are the partition's own 32 bytes. -/
structure Vers where
  np : Nat
  rc : Nat
deriving DecidableEq, Repr

def Vers.init : Vers := { np := 0, rc := 0 }

/-- A timeline counter (R163): its value, the numbers given out, commands complete beyond the value, and the poison mark. -/
structure Counter where
  v : Nat
  issued : Nat
  ended : List Nat
  mark : Option Nat
deriving DecidableEq, Repr

def Counter.init : Counter := { v := 0, issued := 0, ended := [], mark := none }

/-! ### Events to the host (R330) -/

/-- An event record, written to a ring or waiting at its source (R330, R331). -/
structure EventRec where
  kind : Nat
  code : Nat
  queue : Nat
  ctx : Nat
  die : Nat
  tag : Word
  data0 : Word
  data1 : Word
deriving DecidableEq, Repr

/-! ### The pager's fault records (R307, R308) -/

/-- What waits on a fault record: a task, or a stream command by island and number. -/
inductive Waiter where
  | task (k : Nat)
  | cmd (isl num : Nat)
deriving DecidableEq, Repr

/-- A translation fault of a waiting kind. -/
structure PageMiss where
  who : Waiter
  ctx : Nat
  va : Nat
  /-- KIND, REASON and SRC of the record. -/
  kind : Nat
  reason : Nat
  src : Nat
deriving DecidableEq, Repr

/-- An open fault record: its context, its 64 KiB page, and its waiters in fault order. -/
structure FaultRec where
  ctx : Nat
  page : Nat
  kind : Nat
  waiters : List Waiter
deriving DecidableEq, Repr

/-! ### Translation (R302 to R304) -/

/-- A valid leaf (R303). -/
structure Leaf where
  pa : Nat
  size : Nat
  w : Bool
  pin : Bool
deriving DecidableEq, Repr

/-- An entry of a translation cache: cache 0 stream, 1 queue, 2 front end of a die (R304); the least recently used stands last. -/
structure TlbEnt where
  die : Nat
  cache : Nat
  ctx : Nat
  va : Nat
  leaf : Leaf
  locked : Bool
deriving DecidableEq, Repr

/-! ### Time (R266 to R270) -/

/-- Nanoseconds of device time from `a` to `b`, counted modulo 2^64. -/
def elapsed (a b : Nat) : Nat := (b + 2 ^ 64 - a) % 2 ^ 64

/-- The timebase unit. -/
structure Timebase where
  /-- Device time in nanoseconds, and its part below a nanosecond in units of 2^-40 ns. -/
  time : Nat
  frac : Nat
  /-- The frequency correction in force, and the phase correction still to be slewed in, in ns (R266). -/
  rate : Int
  phase : Int
  /-- Nanoseconds of device time since the last slew step. -/
  slewAt : Nat
  run : Bool
  tbase : Nat
  /-- Device time of the last `TBADJ` write (R266). -/
  adjAt : Option Nat
  lock : Bool
  hold : Bool
  /-- Tick error e in ns, and the step pending in ticks (R267, R270). -/
  e : Int
  step : Int
  /-- Ticks begun, cycles left in the current one, hold ticks left to insert. -/
  tick : Nat
  tickLeft : Nat
  holdTicks : Nat
  /-- Cycles until the sent boundary is applied (R269). -/
  sent : Option Nat
  /-- The boundary in flight begins a hold tick; ticks inserted or skipped by the last step. -/
  sentHold : Bool
  stepped : Bool
deriving DecidableEq, Repr

def Timebase.init : Timebase :=
  { time := 0, frac := 0, rate := 0, phase := 0, slewAt := 0, run := false, tbase := 0, adjAt := none, lock := false, hold := false,
    e := 0, step := 0, tick := 0, tickLeft := 0, holdTicks := 0, sent := none, sentHold := false, stepped := false }

/-! ### Work above the launch (R229, R230, R251 to R255, R320) -/

/-- A job slot in use. -/
structure Job where
  serial : Nat
  queue : Nat
  die : Nat
  /-- Children that have not ended, and those that have. -/
  kids : Nat
  count : Nat
  /-- The code of the first child recorded ABORTED, and the cycle of the record; the lowest of one cycle (R230). -/
  bad : Option Nat
  badAt : Nat
  cancelled : Bool
  /-- Its final completion word, once terminal. -/
  final : Option Word
  /-- The packet that opened it: TAG, index, EVT and completion signal (R324, R325). -/
  tag : Word
  index : Nat
  evt : Bool
  csig : Nat
deriving DecidableEq, Repr

def Job.init : Job :=
  { serial := 0, queue := 0xFFFF, die := 0, kids := 0, count := 0, bad := none, badAt := 0, cancelled := false, final := none, tag := 0,
    index := 0, evt := false, csig := 0 }

/-- A graph slot in use (R255). -/
structure Graph where
  serial : Nat
  die : Nat
  job : Option Nat
  /-- Posted cards that have not ended, and those that have. -/
  live : Nat
  count : Nat
  bad : Option Nat
  badAt : Nat
  /-- A dropped decrement of a finishing card (R254). -/
  dropped : Option Nat
  cancelled : Bool
  final : Option Word
deriving DecidableEq, Repr

def Graph.init : Graph :=
  { serial := 0, die := 0, job := none, live := 0, count := 0, bad := none, badAt := 0, dropped := none, cancelled := false, final := none }

/-- A posted job card until it is counted as finished. -/
structure Card where
  ctx : Nat
  va : Nat
  graph : Option Nat
  job : Option Nat
  queue : Nat
  kind : Nat
  /-- Its die and priority (R256), and its physical address when it was posted. -/
  die : Nat
  prio : Nat
  pa : Nat
  /-- The work it made: a launch's work identifier, or a copy's island and number. -/
  launch : Option Nat
  copy : Option (Nat × Nat)
  /-- A sibling's group and its index: such a node has no card in memory (R372). -/
  sib : Option (Nat × Nat)
  /-- How it ended: the CST value and the code. -/
  ended : Option (Nat × Nat)
  /-- The task that ended with it: its finishing waits for what that task issued (R253). -/
  task : Option Nat
  /-- What the front end last wrote into LINK (R256). -/
  link : Option Nat
deriving DecidableEq, Repr

/-! ### Fabric pages and the configuration cache (R216, R294, R300) -/

/-- States of R294. -/
inductive PageSt where
  | free
  | reserved
  | lent
  | allocated
  | loading
  | running
  | draining
  | saving
  | moving
  | testing
  | retired
  | pool
deriving DecidableEq, Repr

/-- A fabric page as `PGSTAT` shows it. -/
structure FPage where
  st : PageSt
  handle : Nat
  ctx : Nat
  lctx : Nat
  lv : Bool
  /-- The table slot and lane that reserve it. -/
  rsv : Option (Nat × Nat)
  retp : Bool
  /-- An alternate page of the lane (R284). -/
  alt : Bool
deriving DecidableEq, Repr

def FPage.init : FPage :=
  { st := .free, handle := 0, ctx := 0, lctx := 0, lv := false, rsv := none, retp := false, alt := false }

/-- A validated image in a die's cache; the most recently used stands first. -/
structure Copy where
  die : Nat
  ctx : Nat
  handle : Nat
  image : List Word
  /-- Installed tables that pin it, by their key, and whether it is stale (R217). -/
  pins : List Nat
  stale : Bool
deriving DecidableEq, Repr

/-- An invalidation of configuration copies on its way (R217): a context's handle, or all of them; its issuer, for the fences
that follow it. -/
structure CfgInv where
  at_ : Nat
  ctx : Nat
  handle : Option Nat
  who : Issuer
deriving DecidableEq, Repr

/-- What a launch asks of the dispatcher (R233). -/
structure LaunchReq where
  ctx : Nat
  op : Word
  n : Nat
  recAddr : Nat
  isSeq : Bool
  /-- The physical die. -/
  die : Nat
  prio : Nat
  queue : Nat
  job : Option Nat
  graph : Option Nat
  card : Option Nat
  /-- The words of an inline record (R326). -/
  inl : Option (List Word)
  /-- REL and ISL of LFLAGS (R326). -/
  lrel : Bool := false
  lisl : Option Nat := none
deriving DecidableEq, Repr

/-! ### Matrix islands (R168 to R195) -/

/-- States of R178. -/
inductive IslSt where
  | free
  | owned
  | saving
  | testing
  | faulted
  | retired
deriving DecidableEq, Repr

/-- A row-store record: 576 bytes, and whether any of its words is poisoned (R171, R181). -/
structure MRec where
  bytes : List Byte
  pois : Bool
deriving DecidableEq, Repr

/-- A B tile in a buffer: its index, and each column's 1 KiB record with its poison. -/
structure BTile where
  index : Nat
  cols : List MRec
deriving DecidableEq, Repr

/-- A row that has been admitted: the cycle at whose end it updates accumulator row `row` (R182), its record and its B tile. -/
structure MRow where
  due : Nat
  row : Nat
  record : MRec
  tile : BTile
deriving DecidableEq, Repr

/-- A command of a matrix island. -/
structure MCmd where
  num : Nat
  ctx : Nat
  i : Instr
  b : Word
  c : Word
  started : Bool
  /-- Header beat consumed, rows or columns done, beats of the present row that have been taken. -/
  header : Option (Beat)
  next : Nat
  beats : List Beat
  /-- Output beats still to be placed. -/
  out : List Beat
  /-- The fault it ends with. -/
  fault : Option Nat
  /-- The cycle before which it does nothing more; its last row has been admitted; its effects are done. -/
  at_ : Nat
  admitted : Bool
  done : Bool
  /-- Rows whose update of the accumulators is still to come, in order. -/
  flight : List MRow := []
deriving DecidableEq, Repr

/-- A matrix island (R168, R178). -/
structure MIsl where
  st : IslSt
  owner : Nat
  /-- The table slot and lane that hold it (R178). -/
  lane : Option (Nat × Nat)
  /-- C by 128 · row + column: 32 bits; an absent cell is +0. -/
  c : Tab Nat
  /-- Row kinds: 1 float, 2 integer. -/
  kind : Tab Nat
  ta : Tab Nat
  tb : Tab Nat
  rowP : List Nat
  colP : List Nat
  front : Option BTile
  back : Option BTile
  /-- The tile index last recorded for each buffer. -/
  frontIx : Nat
  backIx : Nat
  recs : Tab MRec
  mode : Word
  iflag : Flags
  queue : List MCmd
  inl : List (List Beat)
  outl : List (List Beat)
  inPos : Nat
  outPos : Nat
  /-- Logical columns mapped away from their own physical column, and spares still free. -/
  colmap : Tab Nat
  spares : List Nat
  lastf : Nat
  /-- State to which a test slot returns; OWNED while it is SAVING for one. -/
  before : IslSt
  /-- The cycle in which its frame is written (R187). -/
  until_ : Nat
deriving DecidableEq, Repr

def MIsl.init : MIsl :=
  { st := .free, owner := 0, lane := none, c := [], kind := [], ta := [], tb := [], rowP := [], colP := [], front := none,
    back := none, frontIx := 0, backIx := 0, recs := [], mode := 0, iflag := 0, queue := [], inl := List.replicate 8 [],
    outl := List.replicate 8 [], inPos := 0, outPos := 0, colmap := [], spares := [128, 129, 130, 131], lastf := 0,
    before := .free, until_ := 0 }

/-! ### Stream islands (R196 to R214) -/

/-- An endpoint of a port (R198): unbound; memory, by pattern and base; a fabric port; a vector port; an ingress channel. -/
inductive Endp where
  | unbound
  | mem (pat : Nat) (base : Word)
  | fabric (h idx : Nat)
  | vector (h x y q : Nat)
  | ingress (e n : Nat)
deriving DecidableEq, Repr

/-- A port as a command read it when it was accepted (R200): its number, its endpoint, and a memory port's pattern, if that was
ever written. -/
structure Bound where
  port : Nat
  e : Endp
  pat : Option (List Word)
deriving DecidableEq, Repr

/-- A stream command. -/
structure SCmd where
  num : Nat
  ctx : Nat
  i : Instr
  a : Word
  b : Word
  c : Word
  /-- P0 to P3. -/
  ports : List Bound
  prio : Nat
  /-- The job it counts in and the copy card that made it (R229, R252). -/
  job : Option Nat
  card : Option Nat
  /-- Its issuer, and the issuer's table lane (R156, R275). -/
  who : Issuer
  lane : Option (Nat × Nat)
  started : Bool
  /-- Bytes of the source stream, and those that have been fetched. -/
  total : Nat
  got : Nat
  /-- Bytes fetched that are not yet converted, units to convert and units converted. -/
  raw : List (Byte × Bool)
  units : Nat
  conv : Nat
  /-- Bytes that wait for the destination, and bytes delivered. -/
  buf : List (Byte × Bool)
  sent : Nat
  /-- Of the unit to be converted, the index or the plane words already read; of the last one, the plane words still to be written, by
  port and element (R209, R211). -/
  side : List Val := []
  put : List (Nat × Nat × Val) := []
  /-- When it last took a turn, in bursts of its island (R202). -/
  turn : Nat := 0
  /-- Stopped by a translation fault whose record is open. -/
  stall : Bool
  fault : Option Nat
  cancelled : Bool
  /-- Complete; a copy card's command stays until the counter has passed it. -/
  done : Bool
deriving DecidableEq, Repr

/-- What an island keeps for one context: flags and the code of the last failed command. -/
structure SCtx where
  sflag : Flags
  lastf : Nat
deriving DecidableEq, Repr

def SCtx.init : SCtx := { sflag := 0, lastf := 0 }

/-- A stream island: accepted and running commands, oldest first; patterns by 256 · context + number; bindings by
16 · context + port. -/
structure SIsl where
  pats : Tab (List Word)
  binds : Tab Endp
  ctxs : Tab SCtx
  cmds : List SCmd
  /-- Bursts made: the command that took its turn longest ago is the next (R202). -/
  last : Nat
deriving DecidableEq, Repr

def SIsl.init : SIsl := { pats := [], binds := [], ctxs := [], cmds := [], last := 0 }

/-- An ingress channel's buffered records (R212). -/
abbrev Frames := List (List Byte)

/-! ### Schedule tables (R271 to R289) -/

/-- States of R278. -/
inductive TabSt where
  | installed
  | armed
  | running
  | amber
deriving DecidableEq, Repr

/-- A lane of an installed table (R273), with what it is doing. -/
structure SLane where
  island : Bool
  dies : List Nat
  ctx : Nat
  safe : Bool
  isl : Nat
  /-- Page masks of dies 0 to 3: now, as alternates may have replaced them (R284). -/
  pages : List Nat
  /-- Its entries end ABORTED with this code without running (R284, R393). -/
  broken : Option Nat
  handle : Nat
  /-- The entry whose launch, or whose fallback, is under way. -/
  run : Option Nat
  fall : Option Nat
  /-- The reclaim of its lent pages before its next entry has begun (R287). -/
  recl : Bool
deriving DecidableEq, Repr

/-- An entry (R274). -/
structure SEnt where
  start : Nat
  deadline : Nat
  cfg : Nat
  lane : Nat
  trips : Nat
  fallback : Nat
  leave : Nat
  lead : Nat
  stepmax : Nat
  mcp : Bool
  test : Bool
  lend : Bool
  nofb : Bool
  nocfg : Bool
deriving DecidableEq, Repr

/-- An installed table. -/
structure STab where
  slot : Nat
  dies : List Nat
  st : TabSt
  period : Nat
  owner : Nat
  lowpwr : Bool
  slate : Bool
  lanes : List SLane
  ents : List SEnt
  /-- Alternates: lane, die, order, page mask. -/
  alts : List (Nat × Nat × Nat × Nat)
  /-- Arbiter plan: lane, die, channel, slot mask. -/
  arb : List (Nat × Nat × Nat × Nat)
  /-- Link slot plan words. -/
  links : List Word
  /-- Pinned ranges: lane, base, length. -/
  pins : List (Nat × Nat × Nat)
  /-- The tick an ARMED table waits for. -/
  startAt : Nat
  pos : Nat
  /-- A period has ended whose last deadlines may still be counted. -/
  wrapped : Bool
  periods : Nat
  ambers : Nat
  lastLane : Nat
  /-- Position of the latest overrun, and whether it was in the present tick; an acknowledgement that waits (R283). -/
  overAt : Option Nat
  ack : Bool
  /-- The slot a requested switch names (R285). -/
  switch : Option Nat
  /-- Its job slot of OWNER while it runs (R279). -/
  job : Option Nat
  /-- The present phase: code of the first failing entry, and entries ended; the last period's word. -/
  phaseBad : Option Nat
  phaseCount : Nat
  lastPhase : Word
deriving DecidableEq, Repr


/-! ### Debug (R336, R416, R418) -/

/-- A context's debug session and its breakpoints. -/
structure Dbg where
  queue : Option Nat
  va : Nat
  log : Nat
  /-- Events written to the buffer, and those that wait for room there. -/
  widx : Nat
  held : List EventRec
  /-- Breakpoints by number: node and loop index (R418). -/
  bps : Tab (Nat × Nat)
deriving DecidableEq, Repr

def Dbg.init : Dbg := { queue := none, va := 0, log := 4, widx := 0, held := [], bps := [] }

/-! ### Sample groups (R368 to R377) -/

/-- A live group as its engine holds it. -/
structure Grp where
  /-- Its number among all groups that were forked: the waits on it name it. -/
  num : Nat
  ctx : Nat
  rwd : Word
  adv : Word
  frames : Nat
  deadline : Nat
  eps : Nat
  g : Nat
  minc : Nat
  forks : Nat
  /-- Rewards recorded, by index; indices cancelled; indices settled. -/
  rew : Tab Nat
  canc : List Nat
  settled : List Nat
deriving DecidableEq, Repr

/-- How a group ended, kept for the waits that were registered while it was live (R381). -/
structure GrpEnd where
  num : Nat
  status : Word
  mask : Nat
  adv : List Nat
deriving DecidableEq, Repr

/-! ### Save frames (R343 to R346) -/

/-- The state of a saved region's pages, with tiles numbered from its own corner. -/
structure Frame where
  pes : Tab Pe
  rows : Tab Val
  routesIn : Tab Beat
  tiles : Tab MemTile
  dqs : Tab Dq
  dseq : Tab Nat
  mem : Mem
  /-- The code with which a restore ends the region: its frame fails the CRC, or its record reads poisoned (R348). -/
  bad : Option Nat
deriving DecidableEq, Repr

def Frame.empty : Frame :=
  { pes := [], rows := [], routesIn := [], tiles := [], dqs := [], dseq := [], mem := Mem.empty, bad := none }

/-! ### Queues (R313 to R323) -/

/-- The condition of a pending WAIT packet, with the packet's header. -/
structure QWait where
  kind : Nat
  level : Nat
  target : Word
  n : Word
  hdr : Word
deriving DecidableEq, Repr

/-- What the front end keeps of a queue that is not DISABLED, beside its descriptor: the contents of FES (R313, R334), which the
spec does not lay out (log entry 23). -/
structure QRun where
  /-- Deficit (R318) and pending wait (R316). -/
  deficit : Nat
  wait : Option QWait
  /-- It is being visited (R318). -/
  visit : Bool
  /-- The cycle since which it has been WAITING or without a published packet, and the one since which it has had no slot (R321). -/
  idle : Nat
  out : Nat
  /-- A demoted queue asks for a slot; the cycle of its next check. -/
  ask : Bool
  checkAt : Nat
  /-- Since when an unpublished packet has been waited for (R323). -/
  pub : Option Nat
  /-- The cycle before which a refused launch is not tried again (R326). -/
  retry : Nat
  /-- STATE before SAVED (R316), and whether its error waits for the event ring (R331). -/
  before : Nat
  blocked : Bool
  /-- The index at which the queue stopped (R329). -/
  stopAt : Nat
deriving DecidableEq, Repr

def QRun.init : QRun :=
  { deficit := 0, wait := none, visit := false, idle := 0, out := 0, ask := false, checkAt := 0, pub := none, retry := 0, before := 0, blocked := false,
    stopAt := 0 }

/-- A context's pre-emption: the rung it has reached and the cycle in which it reached it (R333). -/
structure Ladder where
  rung : Nat
  since : Nat
deriving DecidableEq, Repr

/-- An invalidation of translations on its way (R305): the context, and a page or all of them. -/
structure VmInv where
  at_ : Nat
  ctx : Nat
  va : Option Nat
deriving DecidableEq, Repr

/-! ### Links and collectives (R384 to R403) -/

/-- A flit that has arrived ahead of one that is replayed. -/
structure Flit where
  pos : Nat
  seq : Nat
  head : Word
  body : List Word
deriving DecidableEq, Repr

/-- One end of a link, beside its `LNKSTAT` (R390, R392), by flit position: the SEQ expected next, how often the awaited flit has
come errored, flits held behind it, and of the sending side the latest spare slot taken. -/
structure LinkRun where
  expect : Tab Nat
  errors : Tab Nat
  ahead : List Flit
  spare : Tab Nat
  /-- Bytes received of each collective's node, by CHAN (R398). -/
  strings : Tab (List Byte)
  /-- The cycle at which training or retraining runs out of time. -/
  limit : Nat
deriving DecidableEq, Repr

def LinkRun.init : LinkRun := { expect := [], errors := [], ahead := [], spare := [], strings := [], limit := 0 }

/-- A command of a collective engine (R366, R395, R400): its member operand, descriptor words and peer rank, the logical die of the
member, and its generation, or its place among the sends or receives of its pair. -/
structure CCmd where
  num : Nat
  ctx : Nat
  i : Instr
  a : Word
  b : Word
  desc : List Word
  peer : Nat
  ld : Nat
  gen : Nat
  /-- The cycle in which it started, and the one before which it does not complete (log entry 5); its fault. -/
  started : Nat
  due : Nat
  fault : Option Nat
deriving DecidableEq, Repr

/-! ### Boot, the configuration record and self-test (R425 to R433) -/

/-- Where boot stands: not begun, in the minimal loader, or done. -/
inductive BootSt where
  | off
  | loader
  | done
deriving DecidableEq, Repr

/-- A copy of the configuration record: columns mapped away, spares used, retired pages and channels, failed self-tests, and the event log.
Trims have no layout in the spec (log entry 24). -/
structure ConfRec where
  seq : Nat
  cols : List (Nat × Nat × Nat)
  /-- Spares that are no longer free, by island. -/
  spares : List (Nat × Nat)
  pages : List Nat
  chans : List Nat
  tests : List (Bool × Nat)
  log : List EventRec
deriving DecidableEq, Repr

def ConfRec.factory : ConfRec := { seq := 0, cols := [], spares := [], pages := [], chans := [], tests := [], log := [] }

/-- A self-test that runs: of a page or of an island of a die, and the cycle in which it ends. -/
structure TestRun where
  die : Nat
  page : Bool
  n : Nat
  due : Nat
deriving DecidableEq, Repr

/-- The tests of an island: the STC of the last one, its result and their number (R433); whether one has been asked for; the cycle
in which the last one ended, and whether its lateness has been reported. -/
structure TestInfo where
  stc : Nat
  result : Nat
  count : Nat
  asked : Bool
  last : Nat
  late : Bool
deriving DecidableEq, Repr

def TestInfo.init : TestInfo := { stc := 0, result := 0, count := 0, asked := false, last := 0, late := false }

/-! ### The state -/

/-- The machine: everything the spec gives it. -/
structure State where
  /-- What the agents do next, in order; empty between cycles. -/
  agenda : List Act
  /-- The issuer of the instruction that is being executed. -/
  cur : Issuer
  /-- The instruction just tried has to wait (R53, R73). -/
  held : Bool
  /-- Fabric cycles since reset. -/
  cycle : Nat
  /-- The model's own counter of free values used (log entry 6). -/
  free : Nat
  /-- Processing elements by `peKey`. -/
  pes : Tab Pe
  /-- Row files by 192 · tile + entry (R70). -/
  rows : Tab Val
  /-- Route inputs i0 to i7 by 8 · tile + n (R75). -/
  routesIn : Tab Beat
  /-- Regions by 256 · context + handle (R219). -/
  regions : Tab Region
  /-- Untimed accesses and requests in flight, oldest first. -/
  reqs : List Req
  /-- Results on their way to compute tiles (R66). -/
  replies : List Reply
  /-- Tasks by number. -/
  tasks : Tab Task
  /-- The number the next task takes. -/
  nextTask : Nat
  /-- Memory tiles by `tileKey`. -/
  tiles : Tab MemTile
  /-- Scratchpads, space S, by `sKey`; poison by 4-byte word (R119, R129). -/
  mem : Mem
  /-- Partitions, space P, by `pKey`; poison by 8-byte word (R147, R148). -/
  pdb : Mem
  /-- Weight stacks, space W, by `wKey`. -/
  wst : Mem
  /-- Device memory, space D, by physical address; poison by 32-byte block (R455). -/
  dram : Mem
  /-- Versioned words by `pKey` of their first byte (R165). -/
  vers : Tab Vers
  /-- Partitions that a context's table maps as versioned, by 48 · die + number (R165). -/
  vparts : List Nat
  /-- Decoupling queues of compute tiles by 4 · tile + q (R150). -/
  dqs : Tab Dq
  /-- D sequence counters of compute tiles (R151). -/
  dseq : Tab Nat
  /-- Timeline counters by `counterKey` (R163). -/
  counters : Tab Counter
  /-- Device and front-end CSRs by 65536 · die + number, where written since reset (R410). -/
  dcsr : Tab Word
  /-- Context CSRs by 65536 · context + number, where written since reset (R410). -/
  ccsr : Tab Word
  /-- Events held at their source until the ring has room (R331). -/
  hostRing : List EventRec
  /-- Faults reported to the Umber core (R408). -/
  umber : List EventRec
  /-- The translation caches, most recently used first (R304). -/
  tlb : List TlbEnt
  /-- The timebase unit (R266 to R270). -/
  tb : Timebase
  /-- The schedule tick count (R269). -/
  stc : BitVec 48
  /-- Open fault records by number (R308). -/
  frecs : Tab FaultRec
  /-- Faults that wait for a record to free, in fault order (R308). -/
  fwait : List PageMiss
  /-- Serials given out by 4 · context + level (R229). -/
  serials : Tab Nat
  /-- Job slots by 1024 · context + slot (R320). -/
  jobs : Tab Job
  /-- Graph slots by 1024 · context + slot (R255). -/
  graphs : Tab Graph
  /-- Posted cards by number, until each is counted as finished (R254). -/
  cards : Tab Card
  /-- The number the next posted card takes. -/
  nextCard : Nat
  /-- Fabric pages by 64 · die + page (R294). -/
  pages : Tab FPage
  /-- The configuration caches, most recently used first (R216). -/
  ccache : List Copy
  /-- Matrix islands by 16 · die + island (R168). -/
  misls : Tab MIsl
  /-- Stream islands by 8 · die + island (R196 to R214). -/
  sisls : Tab SIsl
  /-- Records buffered in ingress channels by 8 · port + channel (R212). -/
  frames : Tab Frames
  /-- Frames that no channel takes, each with its receive timestamp: they go to the host (R15, R212). -/
  hostFrames : List (Nat × List Byte)
  /-- Invalidations of configuration copies not yet performed (R217). -/
  cinvs : List CfgInv
  /-- Compute dies that take no part in work (R16). -/
  downDies : List Nat
  /-- Installed tables by 4 · lowest die + slot (R271). -/
  tabs : Tab STab
  /-- Leave granted to contexts by `powq`: context, die, class (R293). -/
  grants : List (Nat × Nat × Nat)
  /-- Debug sessions and breakpoints by context (R336, R418). -/
  dbgs : Tab Dbg
  /-- SEQ of each context's accounting records (R421). -/
  acctSeq : Tab Nat
  /-- Live sample groups by the `partKey` of their descriptor (R368). -/
  groups : Tab Grp
  /-- The number the next group takes. -/
  groupNo : Nat
  /-- Ended groups on which a wait still stands (R381). -/
  groupEnds : List GrpEnd
  /-- Save frames of SAVED regions by context, handle and die, in shadow storage (R342, R343). -/
  saved : Tab Frame
  /-- The measurement register M0 (R428). -/
  meas0 : BitVec 256
  /-- The measurement register M1 (R428). -/
  meas1 : BitVec 256
  /-- Queues that are not DISABLED (R313, R316). -/
  queues : Tab QRun
  /-- The front ends (R318): by 8 · die the cycle of the next packet, by 8 · die + priority the queue served last. -/
  fe : Tab Nat
  /-- Contexts that meet R335's conditions, with the cycle since which they do. -/
  stalls : Tab Nat
  /-- Contexts that are being saved (R333). -/
  ladders : Tab Ladder
  /-- Frames of saved matrix islands by 64 · context + 16 · die + island (R187). -/
  islSaves : Tab MIsl
  /-- Invalidations of translations not yet performed (R305). -/
  vinvs : List VmInv
  /-- Commands of the collective engine of each die, oldest first (R400). -/
  ccs : Tab (List CCmd)
  /-- Generation counts by 64 · context + 4 · ID + logical die (R367). -/
  gens : Tab Nat
  /-- Sends and receives issued, by their pair (R395). -/
  pairs : Tab Nat
  /-- Link ends by 4 · die + link (R384). -/
  links : Tab LinkRun
  /-- The cycle of the last tick boundary (R385). -/
  tickAt : Nat
  /-- Self-tests that run (R432). -/
  tests : List TestRun
  /-- Self-test history of each island by 16 · die + island (R433). -/
  testInfo : Tab TestInfo
  /-- Failed self-tests of pages and islands, for the configuration record (R429, R432). -/
  testFails : List (Bool × Nat)
  /-- Where boot stands (R425). -/
  boot : BootSt
  /-- The rollback counter (R425). -/
  svn : Nat
  /-- Copy A of the firmware image in flash (R425). -/
  firmware : List Byte
  /-- Bytes of an image that the minimal loader has received (R425). -/
  loader : List Byte
  /-- The configuration record in HB memory (R429). -/
  record : ConfRec
  /-- Its copies in flash, the latest first (R429). -/
  flash : List ConfRec
  /-- The event log that goes into the record (R429). -/
  recLog : List EventRec
  /-- One-time signatures of the attestation slot used (R428). -/
  sigsUsed : Nat
  /-- Ethernet ports reported down (R15); none is before an auto-negotiation has been refused (log entry 104). -/
  ethDown : List Nat
  /-- Whether the storage port is up (R15). -/
  storageUp : Bool
  /-- Capture triggers that act at the end of the cycle: die and action (R423). -/
  trigs : List (Nat × Nat)
  /-- Generations and pairs of collectives that have ended in a fault: context, what it is, its number and the code (R367, R403). -/
  ccDead : List (Nat × Nat × Nat × Nat)
  /-- Leave grants that a saved context has given up and asks for again: context, logical die, class (R293, R349). -/
  owed : List (Nat × Nat × Nat)
  /-- The cycle in which the allocator of a die placed a launch last: it handles one event in a cycle (R295, R301). -/
  placed : Tab Nat
  /-- What the host's last CSR read returned (R430). -/
  busData : Word
  /-- The host's last CSR access ended in a bus error (R430). -/
  busErr : Bool
  /-- What the accesses of the present cycle take of a memory tile, and what is held of the next one (R124, R127). -/
  busy : Tab (List Claim)
  holds : Tab (List Claim)
  /-- Granules that hold a single-bit error, by 4 · number + space: 0 S, 1 P, 2 D, 3 weight stacks (R129, R148, R455). -/
  weak : List Nat
  /-- Corrected errors in scratch, by 64 · die + page, with their device times of the last second (R409). -/
  eccLog : List (Nat × Nat)
deriving DecidableEq, Repr

/-- The machine right after reset. -/
def State.reset : State where
  agenda := []
  cur := Issuer.init
  held := false
  cycle := 0
  free := 0
  pes := []
  rows := []
  routesIn := []
  regions := []
  reqs := []
  replies := []
  tasks := []
  nextTask := 1
  tiles := []
  mem := Mem.empty
  pdb := Mem.empty
  wst := Mem.empty
  dram := Mem.empty
  vers := []
  vparts := []
  dqs := []
  dseq := []
  counters := []
  dcsr := []
  ccsr := []
  hostRing := []
  umber := []
  tlb := []
  tb := Timebase.init
  stc := 0
  frecs := []
  fwait := []
  serials := []
  jobs := []
  graphs := []
  cards := []
  nextCard := 1
  pages := []
  ccache := []
  misls := []
  sisls := []
  frames := []
  hostFrames := []
  cinvs := []
  downDies := []
  tabs := []
  grants := []
  dbgs := []
  acctSeq := []
  groups := []
  groupNo := 1
  groupEnds := []
  saved := []
  meas0 := 0
  meas1 := 0
  queues := []
  fe := []
  stalls := []
  ladders := []
  islSaves := []
  vinvs := []
  ccs := []
  gens := []
  pairs := []
  links := []
  tickAt := 0
  tests := []
  testInfo := []
  testFails := []
  boot := .off
  svn := 0
  firmware := []
  loader := []
  record := ConfRec.factory
  flash := []
  recLog := []
  sigsUsed := 0
  ethDown := []
  storageUp := false
  trigs := []
  ccDead := []
  owed := []
  placed := []
  busData := 0
  busErr := false
  busy := []
  holds := []
  weak := []
  eccLog := []

/-- Why the machine stops. Every fault code of the spec is an event of the running machine (R405, R406), so there is one
stop only. -/
inductive Fault where
  /-- Raised by `step` for an agenda entry of a word that is no instruction of its issuer's form. The loader and the block
  executor refuse such words (R52), so no run reaches it. Safe: the machine stops where the hardware would never be. -/
  | notAnInstruction
deriving DecidableEq, Repr

/-- Why the model gives an instruction no meaning. -/
inductive Refusal where
  /-- Raised by an arm of `exec` whose instruction has no meaning yet. Safe: the model stops. -/
  | notModelled (mnemonic : String)
deriving DecidableEq, Repr

end Sys2Proof.Machine
end

