-- ==== Sys2Proof/Machine/Mem.lean ====
section
/-! DEFINITION. Tables, memories with poison, the keys of tiles and of the four spaces, and address translation (R6, R119,
R129, R148, R302 to R305, R455). -/

namespace Sys2Proof.Machine

/-! ### Tables -/

/-- The value of key `k`, or `d` where the key is not listed. -/
def tabGet {α : Type} (d : α) : Tab α → Nat → α
  | [], _ => d
  | p :: r, k => if p.1 = k then p.2 else tabGet d r k

def tabFind {α : Type} : Tab α → Nat → Option α
  | [], _ => none
  | p :: r, k => if p.1 = k then some p.2 else tabFind r k

/-- Key `k` set to `v`; the order stays strictly rising. -/
def tabPut {α : Type} : Tab α → Nat → α → Tab α
  | [], k, v => [(k, v)]
  | p :: r, k, v => if k < p.1 then (k, v) :: p :: r else if p.1 = k then (k, v) :: r else p :: tabPut r k v

def tabDel {α : Type} (t : Tab α) (k : Nat) : Tab α := t.filter (fun p => p.1 != k)

/-- Strictly rising keys. -/
def keysRise : List Nat → Bool
  | [] => true
  | [_] => true
  | a :: b :: r => decide (a < b) && keysRise (b :: r)

/-- A rising set with `n` in it. -/
def setIns : List Nat → Nat → List Nat
  | [], n => [n]
  | a :: r, n => if n < a then n :: a :: r else if a = n then a :: r else a :: setIns r n

def setDel (l : List Nat) (n : Nat) : List Nat := l.filter (fun a => a != n)

/-- The least number that is not in the rising list, from `n` on. -/
def leastFree : List Nat → Nat → Nat
  | [], n => n
  | a :: r, n => if a < n then leastFree r n else if a = n then leastFree r (n + 1) else n

/-! ### Bytes -/

/-- What an unlisted byte reads as: 0 (log entry 2). -/
def unlisted : Byte := 0

def cellGet : List Host.Cell → Nat → Byte
  | [], _ => unlisted
  | p :: r, a => if p.1 = a then p.2 else cellGet r a

/-- One byte written; a byte equal to what an unlisted address reads as is not listed. -/
def cellPut : List Host.Cell → Nat → Byte → List Host.Cell
  | [], a, b => if b = unlisted then [] else [(a, b)]
  | p :: r, a, b =>
    if a < p.1 then (if b = unlisted then p :: r else (a, b) :: p :: r)
    else if p.1 = a then (if b = unlisted then r else (a, b) :: r)
    else p :: cellPut r a b

/-- The canonical form of a memory: addresses strictly rising, no listed byte equal to an unlisted one, poisoned granules
strictly rising. -/
def Mem.wf (m : Mem) : Bool :=
  keysRise (m.cells.map Prod.fst) && m.cells.all (fun p => p.2 != unlisted) && keysRise m.pois

def Mem.byte (m : Mem) (a : Nat) : Byte := cellGet m.cells a

def Mem.bytes (m : Mem) (a n : Nat) : List Byte := (List.range n).map fun i => m.byte (a + i)

/-- The number of the `n` bytes from `a`, lowest address lowest (R3). -/
def Mem.num (m : Mem) (a : Nat) : Nat → Nat
  | 0 => 0
  | n + 1 => (m.byte a).toNat + 256 * m.num (a + 1) n

def Mem.putByte (m : Mem) (a : Nat) (b : Byte) : Mem := { m with cells := cellPut m.cells a b }

def Mem.putBytes (m : Mem) : Nat → List Byte → Mem
  | _, [] => m
  | a, b :: r => (m.putByte a b).putBytes (a + 1) r

/-- The granules of `g` bytes that the `n` bytes from `a` touch. -/
def granules (g a n : Nat) : List Nat :=
  if n = 0 then [] else (List.range ((a + n - 1) / g - a / g + 1)).map fun i => a / g + i

/-- Whether any byte of the access lies in a poisoned granule. -/
def Mem.poisoned (m : Mem) (g a n : Nat) : Bool := (granules g a n).any fun k => m.pois.contains k

/-- Granule `k` after an access of `n` bytes at `a` (R129): poisoned by a poisoned value, cleared by a clean value that
covers it whole, else as before. -/
def Mem.mark (m : Mem) (g a n : Nat) (p : Bool) (k : Nat) : Mem :=
  if p then { m with pois := setIns m.pois k }
  else if a ≤ k * g ∧ (k + 1) * g ≤ a + n then { m with pois := setDel m.pois k }
  else m

/-- A store of bytes with one poison bit. -/
def Mem.store (m : Mem) (g a : Nat) (bs : List Byte) (p : Bool) : Mem :=
  (granules g a bs.length).foldl (fun m k => m.mark g a bs.length p k) (m.putBytes a bs)

/-- A load of at most eight bytes: the value, zero-extended, and its poison. -/
def Mem.load (m : Mem) (g a n : Nat) : Val := { v := Word.ofN (m.num a n), p := m.poisoned g a n }

/-- A value's low `n` bytes stored with its poison. -/
def Mem.storeVal (m : Mem) (g a n : Nat) (v : Val) : Mem := m.store g a (bytesOfNat n v.v.toNat) v.p

/-! ### Keys -/

def tileKey (die x y : Nat) : Nat := (die * 32 + y) * 32 + x

def peKey (die x y pe : Nat) : Nat := tileKey die x y * 16 + pe

def tileDie (k : Nat) : Nat := k / 1024

def tileX (k : Nat) : Nat := k % 32

def tileY (k : Nat) : Nat := k / 32 % 32

/-- The page of a tile (R6). -/
def pageOf (x y : Nat) : Nat := 8 * (y / 4) + x / 4

/-- The byte of offset `off` in the scratchpad of a memory tile. -/
def sKey (tile off : Nat) : Nat := tile * 2 ^ 18 + off

def pKey (die part off : Nat) : Nat := (die * 48 + part) * 2 ^ 21 + off

def wKey (die isl col off : Nat) : Nat := ((die * 16 + isl) * 128 + col) * 2 ^ 20 + off

/-- The memory tile of rank `k` in page `p` of a die, by its position in the page (R120). -/
def rankTile (die p k : Nat) : Nat :=
  let y := k / 2
  let x := 2 * (k % 2) + (if y % 2 = 0 then 1 else 0)
  tileKey die (p % 8 * 4 + x) (p / 8 * 4 + y)

/-! ### Address translation (R302 to R305) -/

/-- Why a translation fails, as the fault record's REASON (R308). -/
inductive XFail where
  | notPresent
  | notWritable
  | malformed
  | poisoned
  | disabled
deriving DecidableEq, Repr

def XFail.code : XFail → Nat
  | .notPresent => 0
  | .notWritable => 1
  | .malformed => 2
  | .poisoned => 3
  | .disabled => 4

/-- The span of a leaf at level 2, 1 or 0, and of the table below an entry at level 3, 2 or 1. -/
def leafSize (level : Nat) : Nat := 2 ^ (if level = 2 then 30 else if level = 1 then 21 else 16)

def tableAlign (level : Nat) : Nat := if level = 1 then 256 else 4096

/-- The index of a virtual address at a level. -/
def vaIndex (level va : Nat) : Nat :=
  if level = 0 then va / 2 ^ 16 % 32 else va / 2 ^ (12 + 9 * level) % 512

/-- One table walk from the table at `tab` (R302, R303); `ld` is an 8-byte load of physical memory (R304). -/
def walk (ld : Nat → Val) : Nat → Nat → Nat → Except XFail Leaf
  | level, tab, va =>
    let e := ld (tab + 8 * vaIndex level va)
    let leaf := e.v.bit 1
    let addr := e.v.bits 8 32 * 256
    let size := leafSize level
    if e.p then .error .poisoned
    else if !e.v.bit 0 then .error .notPresent
    else if e.v.bits 40 24 ≠ 0 ∨ e.v.bits 4 4 ≠ 0 ∨ (leaf ∧ level = 3) ∨ (!leaf ∧ level = 0)
        ∨ (!leaf ∧ (e.v.bit 2 ∨ e.v.bit 3)) ∨ (leaf ∧ addr % size ≠ 0) ∨ (!leaf ∧ addr % tableAlign level ≠ 0)
        ∨ Config.deviceBytes ≤ addr then .error .malformed
    else if leaf then .ok { pa := addr, size := size, w := e.v.bit 2, pin := e.v.bit 3 }
    else match level with
      | 0 => .error .malformed
      | l + 1 => walk ld l addr va

/-- The addresses of the entries that a walk reads. -/
def walkReads (ld : Nat → Val) : Nat → Nat → Nat → List Nat
  | 0, tab, va => [tab + 8 * vaIndex 0 va]
  | l + 1, tab, va =>
    let a := tab + 8 * vaIndex (l + 1) va
    let e := ld a
    if e.p || !e.v.bit 0 || e.v.bit 1 then [a] else a :: walkReads ld l (e.v.bits 8 32 * 256) va

/-! ### State updates by key -/

def State.pe (s : State) (k : Nat) : Pe := tabGet Pe.init s.pes k

def State.setPe (s : State) (k : Nat) (p : Pe) : State := { s with pes := tabPut s.pes k p }

def State.row (s : State) (tile e : Nat) : Val := tabGet Val.zero s.rows (tile * 192 + e)

def State.setRow (s : State) (tile e : Nat) (v : Val) : State := { s with rows := tabPut s.rows (tile * 192 + e) v }

def State.routeIn (s : State) (tile n : Nat) : Beat := tabGet Beat.zero s.routesIn (tile * 8 + n)

def State.setRouteIn (s : State) (tile n : Nat) (b : Beat) : State := { s with routesIn := tabPut s.routesIn (tile * 8 + n) b }

/-- Regions are kept by context, handle and die: the regions of a table lane share a handle (R219, R273). -/
def regKey (ctx handle die : Nat) : Nat := (ctx * 256 + handle) * 4 + die

def State.regionOn (s : State) (ctx handle die : Nat) : Region := tabGet Region.init s.regions (regKey ctx handle die)

/-- The die of the region a handle names: the lowest on which it has one, else 0. -/
def State.dieOf (s : State) (ctx handle : Nat) : Nat :=
  (([0, 1, 2, 3] : List Nat).find? fun d => (s.regionOn ctx handle d).st != .free).getD 0

def State.region (s : State) (ctx handle : Nat) : Region := s.regionOn ctx handle (s.dieOf ctx handle)

def State.setRegion (s : State) (ctx handle die : Nat) (r : Region) : State :=
  { s with regions := tabPut s.regions (regKey ctx handle die) r }

def State.task (s : State) (k : Nat) : Task := tabGet Task.init s.tasks k

def State.setTask (s : State) (k : Nat) (t : Task) : State := { s with tasks := tabPut s.tasks k t }

def State.tile (s : State) (k : Nat) : MemTile := tabGet MemTile.init s.tiles k

def State.setTile (s : State) (k : Nat) (t : MemTile) : State := { s with tiles := tabPut s.tiles k t }

/-! ### CSRs as stored (R410) -/

/-- The reset value of a device or front-end CSR: 0 but for those the spec lists (R332, R409, R410). -/
def dcsrReset (num : Nat) : Word :=
  if 0x8C00 ≤ num ∧ num < 0x8E40 ∧ num % 0x40 = 0x20 then 0x3000
  else match num with
  | 0x8020 => 1
  | 0x8708 => 64
  | 0x8A10 => 20000
  | 0x8A18 => 10000
  | _ => 0

def State.dcsrAt (s : State) (die num : Nat) : Word := tabGet (dcsrReset num) s.dcsr (die * 65536 + num)

def State.setDcsr (s : State) (die num : Nat) (v : Word) : State := { s with dcsr := tabPut s.dcsr (die * 65536 + num) v }

def State.ccsrAt (s : State) (ctx num : Nat) : Word := tabGet 0 s.ccsr (ctx * 65536 + num)

def State.setCcsr (s : State) (ctx num : Nat) (v : Word) : State := { s with ccsr := tabPut s.ccsr (ctx * 65536 + num) v }

/-! ### Single-bit errors (R129, R148, R409, R455) -/

/-- The spaces that keep check bits, as `weak` numbers them, and the bytes of a granule of each. -/
def spS : Nat := 0

def spP : Nat := 1

def spD : Nat := 2

def spW : Nat := 3

def granuleOf (sp : Nat) : Nat := if sp = spS then 4 else if sp = spD then 32 else 8

/-- The die of granule `k` of a space. -/
def granuleDie (sp k : Nat) : Nat :=
  if sp = spS then tileDie (k / 2 ^ 16) else if sp = spP then k / 2 ^ 18 / 48 else if sp = spD then k / (60 * 2 ^ 25) else k / 2 ^ 28

/-- The low bit of a space's field in `ECCCNT` (R409). -/
def eccField (sp : Nat) : Nat := if sp = spS then 48 else if sp = spP then 32 else if sp = spW then 16 else 0

/-- A corrected error counted in `ECCCNT`, whose fields saturate; one of a page's scratch is kept for a second of device time. -/
def State.countEcc (s : State) (sp k : Nat) : State :=
  let die := granuleDie sp k
  let w := s.dcsrAt die 0x8700
  let s1 := if w.bits (eccField sp) 16 = 0xFFFF then s else s.setDcsr die 0x8700 (w + Word.ofN (2 ^ eccField sp))
  if sp ≠ spS then s1
  else
    let tile := k / 2 ^ 16
    { s1 with eccLog := s1.eccLog.filter (fun e => decide (elapsed e.2 s1.tb.time < 10 ^ 9))
                          ++ [(64 * die + pageOf (tileX tile) (tileY tile), s1.tb.time)] }

/-- Single-bit errors in the granules `hit` of a space: a read corrects them in the cells too, and counts them (R129). -/
def State.correctIn (s : State) (sp : Nat) (hit : Nat → Bool) : State :=
  if s.weak.isEmpty then s
  else (s.weak.filter fun w => w % 4 == sp && hit (w / 4)).foldl (fun s w => { s with weak := setDel s.weak w }.countEcc sp (w / 4)) s

/-- A read of `n` bytes corrects the granules it touches. -/
def State.correct (s : State) (sp a n : Nat) : State :=
  s.correctIn sp fun k => decide (k * granuleOf sp < a + n ∧ a < (k + 1) * granuleOf sp)

/-- The granules `hit` of a space written whole: they hold no error any more. -/
def State.renewIn (s : State) (sp : Nat) (hit : Nat → Bool) : State :=
  if s.weak.isEmpty then s else { s with weak := s.weak.filter fun w => !(w % 4 == sp && hit (w / 4)) }

/-- A store of `n` bytes renews the granules that it covers whole. -/
def State.renew (s : State) (sp a n : Nat) : State :=
  s.renewIn sp fun k => decide (a ≤ k * granuleOf sp ∧ (k + 1) * granuleOf sp ≤ a + n)

/-! ### Die links: their states, and the way between two dies (R9, R384, R389, R393) -/

def lnkOff : Nat := 0
def lnkTraining : Nat := 1
def lnkUp : Nat := 2
def lnkRetrain : Nat := 3
def lnkFailed : Nat := 4

/-- `LNKSTAT` of link 4 · die + l. -/
def State.lnk (s : State) (k : Nat) : Word := s.dcsrAt (k / 4) (0x8600 + k % 4)

def State.lnkState (s : State) (k : Nat) : Nat := (s.lnk k).bits 60 4

/-- The two ends of the ring link between dies `d` and d + 1. -/
def ringEnds (d : Nat) : List Nat := [4 * (d % 4), 4 * ((d + 1) % 4) + 1]

def State.ringFailed (s : State) (d : Nat) : Bool := (ringEnds d).any fun k => s.lnkState k == lnkFailed

def State.ringUp (s : State) (d : Nat) : Bool := (ringEnds d).all fun k => s.lnkState k == lnkUp

/-- The ring links from die `a` upward to die `b`, each by its lower end. -/
def ringWay (a b : Nat) : List Nat := (List.range ((b + 4 - a) % 4)).map fun j => (a + j) % 4

/-- The ring links that traffic between two dies takes: the shorter way, upward from `a` where both are of two links (log entry 99);
the other way round where one of its links has failed (R393). -/
def State.ringPath (s : State) (a b : Nat) : List Nat :=
  let up := ringWay a b
  let down := ringWay b a
  let first := if up.length ≤ down.length then up else down
  let other := if up.length ≤ down.length then down else up
  if first.any s.ringFailed && !other.any s.ringFailed then other else first

/-- Whether traffic between two dies passes now: every link of its way is UP. -/
def State.dieReach (s : State) (a b : Nat) : Bool := (s.ringPath a b).all s.ringUp

/-! ### Device memory by physical address -/

/-- The die whose channels hold a physical address: 60 GiB a die in die order (R11, R436; log entry 12). -/
def paDie (pa : Nat) : Nat := pa / (60 * 2 ^ 30)

/-- Channels of a die whose retirement has taken effect: `CHRETIRE.DONE` (R435). -/
def State.retired (s : State) (die : Nat) : Nat := (s.dcsrAt die 0x8720).bits 16 16

def countBits : Nat → Nat → Nat
  | 0, _ => 0
  | n + 1, v => countBits n (v / 2) + v % 2

/-- Whether the address lies in a withdrawn range or beyond the usable memory (R436), or in the memory of a die whose link to HB has
failed: the other dies run on without its channels (R16, log entry 100). -/
def State.withdrawn (s : State) (pa : Nat) : Bool :=
  let d := paDie pa
  decide (4 ≤ d) || s.lnkState (4 * d + 2) == lnkFailed || decide ((60 * 2 ^ 30 - countBits 16 (s.retired d) * (15 * 2 ^ 28)) ≤ pa % (60 * 2 ^ 30))

/-- A read of at most eight bytes: zero poisoned from a withdrawn range. -/
def State.dLoad (s : State) (pa n : Nat) : Val :=
  if s.withdrawn pa then { v := 0, p := true } else s.dram.load 32 pa n

/-- A store; in the blocks that it covers whole no single-bit error is left. -/
def State.dStore (s : State) (pa : Nat) (bs : List Byte) (p : Bool) : State :=
  if s.withdrawn pa then s else { s with dram := s.dram.store 32 pa bs p }.renew spD pa bs.length

/-- The same in space P. -/
def State.pPut (s : State) (key : Nat) (bs : List Byte) (p : Bool) : State :=
  { s with pdb := s.pdb.store 8 key bs p }.renew spP key bs.length

def State.dStoreVal (s : State) (pa n : Nat) (v : Val) : State := s.dStore pa (bytesOfNat n v.v.toNat) v.p

/-- The channel of a physical address as its die interleaves it now (log entry 8). -/
def State.chanOf (s : State) (pa : Nat) : Nat := Config.interleave (paDie pa) pa (s.retired (paDie pa)) % 16

/-! ### Translation through a cache (R302 to R305) -/

def tlbHit (die cache ctx va : Nat) (e : TlbEnt) : Bool :=
  e.die == die && e.cache == cache && e.ctx == ctx && decide (e.va ≤ va) && decide (va < e.va + e.leaf.size)

/-- The last entry of the cache that is not locked goes when 4,096 are held. -/
def tlbEvict (die cache : Nat) (l : List TlbEnt) : List TlbEnt :=
  let mine := l.filter fun e => e.die == die && e.cache == cache
  if mine.length < 4096 then l
  else match (mine.filter fun e => !e.locked).getLast? with
    | some v => l.filter fun e => e != v
    | none => l

/-- A virtual address translated for a read or a write through a die's cache: 0 stream, 1 queue, 2 front end. -/
def State.xlate (s : State) (die cache ctx va : Nat) (write : Bool) : Except XFail Nat × State :=
  let root := s.dcsrAt 0 (0x8800 + ctx)
  if !root.bit 0 then (.error .disabled, s)
  else match s.tlb.find? (tlbHit die cache ctx va) with
    | some e =>
      let s' := { s with tlb := e :: s.tlb.filter fun x => x != e }
      if write && !e.leaf.w then (.error .notWritable, s') else (.ok (e.leaf.pa + (va - e.va)), s')
    | none =>
      let tab := root.bits 12 28 * 4096
      let s1 := (walkReads (fun a => s.dLoad a 8) 3 tab va).foldl (fun s a => s.correct spD a 8) s
      match walk (fun a => s.dLoad a 8) 3 tab va with
      | .error r => (.error r, s1)
      | .ok l =>
        let base := va / l.size * l.size
        let s' := { s1 with tlb := { die := die, cache := cache, ctx := ctx, va := base, leaf := l, locked := false }
                                    :: tlbEvict die cache s.tlb }
        if write && !l.w then (.error .notWritable, s') else (.ok (l.pa + (va - base)), s')

/-- A context's word at a virtual address. -/
def State.vLoad (s : State) (die cache ctx va n : Nat) : Except XFail Val × State :=
  match s.xlate die cache ctx va false with
  | (.ok pa, s') => (.ok (s'.dLoad pa n), s'.correct spD pa n)
  | (.error r, s') => (.error r, s')

/-- Bytes stored at a virtual address, within one 64 KiB page. -/
def State.vStore (s : State) (die cache ctx va : Nat) (bs : List Byte) (p : Bool) : Except XFail State :=
  match s.xlate die cache ctx va true with
  | (.ok pa, s') => .ok (s'.dStore pa bs p)
  | (.error r, _) => .error r

/-- A list cut where its addresses pass a 32-byte block, from address `a`. -/
def blockCut {α : Type} : Nat → Nat → List α → List (Nat × List α)
  | 0, _, _ => []
  | fuel + 1, a, l => if l.isEmpty then [] else (a, l.take (32 - a % 32)) :: blockCut fuel (a + (32 - a % 32)) (l.drop (32 - a % 32))

/-- Bytes with poison stored at a virtual address, over as many pages as they touch. -/
def State.vPutAll (s : State) (die cache ctx va : Nat) (bs : List (Byte × Bool)) : Except XFail State :=
  (blockCut bs.length va bs).foldl (fun (acc : Except XFail State) c => match acc with
    | .error e => .error e
    | .ok s => s.vStore die cache ctx c.1 (c.2.map Prod.fst) (c.2.any Prod.snd)) (.ok s)

/-- `n` bytes with poison from a virtual address. -/
def State.vGetAll (s : State) (die cache ctx : Nat) : Nat → Nat → Except XFail (List (Byte × Bool)) × State
  | _, 0 => (.ok [], s)
  | va, n + 1 => match s.vLoad die cache ctx va 1 with
    | (.error e, s1) => (.error e, s1)
    | (.ok v, s1) => match s1.vGetAll die cache ctx (va + 1) n with
      | (.error e, s2) => (.error e, s2)
      | (.ok bs, s2) => (.ok ((BitVec.ofNat 8 v.v.toNat, v.p) :: bs), s2)

/-- Bytes without poison. -/
def cleanBytes (bs : List Byte) : List (Byte × Bool) := bs.map fun b => (b, false)

/-- Whether every page of `n` bytes from a virtual address can be read, or written. -/
def State.vReach (s : State) (die cache ctx va n : Nat) (write : Bool) : Bool :=
  (List.range ((va % 65536 + n + 65535) / 65536)).all fun k =>
    match (s.xlate die cache ctx (va / 65536 * 65536 + 65536 * k) write).1 with
    | .ok _ => true
    | .error _ => false

/-- The n-th free delay, counted on (log entry 5). -/
def State.delay (s : State) : Nat × State := (Config.freeDelay s.free, { s with free := s.free + 1 })

end Sys2Proof.Machine
end

