-- ==== Sys2Proof/Machine/Operands.lean ====
section
/-! DEFINITION. What an instruction reads and writes: its source and destination operands, the predicate, the reading of every
source form in both forms, and the writing of every result (R41 to R43, R64, R72, R76, R84, R241, R243). -/

namespace Sys2Proof.Machine

/-! ### Names of operands -/

def lineDsts : LineDst → List Dst
  | .rows n => (List.range 8).map fun j => .row (n + BitVec.ofNat 8 j)
  | .routes => (List.range 8).map fun j => .route (BitVec.ofNat 3 j)

def lineSrcs : LineSrc → List Src
  | .rows n => (List.range 8).map fun j => .row (n + BitVec.ofNat 8 j)
  | .routes => (List.range 8).map fun j => .route (BitVec.ofNat 3 j)

def dqValSrcs : DqVal → List Src
  | .elem s _ => [s]
  | .line l => lineSrcs l

def tagSrcs : Tag → List Src
  | .op s => [s]
  | .inst => []

/-- The compare operand of `acas`, which is read through its destination (R142). -/
def dstAsSrc : Dst → Src
  | .row n => .row n
  | .h k => .h k
  | .route n => .route n
  | .latch => .latch
  | .zero => .zero

/-- The destinations an instruction names, in order (R41, R130). -/
def destsOf : Instr → List Dst
  | .nop _ => []
  | .add _ d _ _ => [d]
  | .addi _ d _ _ => [d]
  | .sub _ d _ _ => [d]
  | .adc _ d _ _ _ => [d]
  | .sbb _ d _ _ _ => [d]
  | .mul _ d _ _ => [d]
  | .mulh _ d _ _ => [d]
  | .mulhu _ d _ _ => [d]
  | .mad _ d _ _ _ => [d]
  | .div _ d _ _ => [d]
  | .divu _ d _ _ => [d]
  | .rem _ d _ _ => [d]
  | .remu _ d _ _ => [d]
  | .min _ d _ _ => [d]
  | .max _ d _ _ => [d]
  | .minu _ d _ _ => [d]
  | .maxu _ d _ _ => [d]
  | .abs _ d _ => [d]
  | .and _ d _ _ => [d]
  | .andi _ d _ _ => [d]
  | .or _ d _ _ => [d]
  | .ori _ d _ _ => [d]
  | .xor _ d _ _ => [d]
  | .xori _ d _ _ => [d]
  | .andn _ d _ _ => [d]
  | .shl _ d _ _ => [d]
  | .shli _ d _ _ => [d]
  | .shr _ d _ _ => [d]
  | .shri _ d _ _ => [d]
  | .sar _ d _ _ => [d]
  | .sari _ d _ _ => [d]
  | .rol _ d _ _ => [d]
  | .clz _ d _ => [d]
  | .ctz _ d _ => [d]
  | .popc _ d _ => [d]
  | .brev _ d _ => [d]
  | .bfx _ d _ _ => [d]
  | .bfi _ d _ _ _ => [d]
  | .sext _ d _ _ => [d]
  | .zext _ d _ _ => [d]
  | .movh _ d _ => [d]
  | .movi _ d _ => [d]
  | .movk _ d _ _ _ => [d]
  | .addsat _ d _ _ _ => [d]
  | .subsat _ d _ _ _ => [d]
  | .cbrng _ d _ _ => [d]
  | .crc _ d _ _ _ => [d]
  | .cmp _ _ _ _ _ => []
  | .cmpi _ _ _ _ _ => []
  | .plog _ _ _ _ _ => []
  | .pmovGet _ d => [d]
  | .pmovPut _ _ => []
  | .sel _ d _ _ _ _ => [d]
  | .mov _ d _ => [d]
  | .kget _ d _ _ => [d]
  | .getid _ d _ => [d]
  | .pcnt _ d _ _ => [d]
  | .vadd _ d _ _ _ _ => [d]
  | .vsub _ d _ _ _ _ => [d]
  | .vmul _ d _ _ _ _ => [d]
  | .vfma _ d _ _ _ _ _ => [d]
  | .vfms _ d _ _ _ _ _ => [d]
  | .vfnma _ d _ _ _ _ _ => [d]
  | .vmin _ d _ _ _ => [d]
  | .vmax _ d _ _ _ => [d]
  | .vabs _ d _ _ _ => [d]
  | .vneg _ d _ _ _ => [d]
  | .vcmp _ d _ _ _ _ => [d]
  | .vsel _ d _ _ _ _ => [d]
  | .vdiv _ d _ _ _ _ => [d]
  | .vsqrt _ d _ _ _ => [d]
  | .vrcp _ d _ _ _ => [d]
  | .vrsq _ d _ _ _ => [d]
  | .vexp2 _ d _ _ _ => [d]
  | .vlog2 _ d _ _ _ => [d]
  | .vtanh _ d _ _ _ => [d]
  | .vscale _ d _ _ _ _ => [d]
  | .vclamp _ d _ _ _ _ => [d]
  | .vsum _ d _ _ _ => [d]
  | .vmaxh _ d _ _ => [d]
  | .vdot _ d _ _ _ _ _ => [d]
  | .vshuf _ d _ _ _ _ => [d]
  | .vpack _ d _ _ _ _ => [d]
  | .vunpk _ d _ _ _ => [d]
  | .vbcast _ d _ _ _ => [d]
  | .vins _ d _ _ _ _ => [d]
  | .vext _ d _ _ _ => [d]
  | .vcvt _ d _ _ _ _ => [d]
  | .vrnd _ d _ _ _ => [d]
  | .vand _ d _ _ _ => [d]
  | .vor _ d _ _ _ => [d]
  | .vxor _ d _ _ _ => [d]
  | .vshl _ d _ _ _ => [d]
  | .vshr _ d _ _ _ => [d]
  | .vsar _ d _ _ _ => [d]
  | .vmulh _ d _ _ _ => [d]
  | .vavg _ d _ _ _ => [d]
  | .vclass _ d _ _ => [d]
  | .vcpsgn _ d _ _ _ => [d]
  | .vmad _ d _ _ _ _ _ => [d]
  | .vsatn _ d _ _ _ => [d]
  | .vminh _ d _ _ => [d]
  | .vsumw _ d _ _ _ => [d]
  | .bexp _ d _ _ _ _ => [d]
  | .benc _ d _ _ _ _ _ => [d]
  | .bdec _ d _ _ _ _ _ => [d]
  | .scput _ o _ _ _ => [.route o]
  | .scget _ d _ _ => [d]
  | .scpair _ d _ _ => [d]
  | .hdrw _ d _ _ => [d]
  | .hdrrFmt _ d _ => [d]
  | .hdrrScale _ d _ => [d]
  | .ld _ d _ _ _ _ => [d]
  | .st _ _ _ _ _ => []
  | .ldl _ d _ _ => lineDsts d
  | .stl _ _ _ _ => []
  | .ldt _ d _ _ _ => lineDsts d
  | .ldx _ d _ _ _ _ _ => [d]
  | .stx _ _ _ _ _ _ => []
  | .ldp _ d _ _ _ => [d]
  | .stp _ _ _ _ => []
  | .pldx _ d _ _ _ _ => [d]
  | .pstx _ _ _ _ _ => []
  | .dqld _ _ _ _ _ => []
  | .dqst _ _ _ _ _ => []
  | .dqpop _ d _ => [d]
  | .dqwt _ _ => []
  | .vld _ d _ _ _ => [d]
  | .vst _ d _ _ _ => [d]
  | .vrcl _ _ _ _ => []
  | .agcfg _ _ _ => []
  | .agstart _ _ _ => []
  | .ageos _ _ => []
  | .qtkt _ d _ _ => [d]
  | .qpush _ _ _ _ _ => []
  | .qpop _ d _ _ => [d]
  | .qcnt _ d _ => [d]
  | .aadd _ d _ _ _ _ _ => [d]
  | .amin _ d _ _ _ _ _ => [d]
  | .amax _ d _ _ _ _ _ => [d]
  | .aminu _ d _ _ _ _ _ => [d]
  | .amaxu _ d _ _ _ _ _ => [d]
  | .aand _ d _ _ _ _ _ => [d]
  | .aor _ d _ _ _ _ _ => [d]
  | .axor _ d _ _ _ _ _ => [d]
  | .aswp _ d _ _ _ _ _ => [d]
  | .acas _ d _ _ _ _ _ => [d]
  | .afadd _ d _ _ _ _ _ => [d]
  | .ainc _ d _ _ _ _ _ => [d]
  | .adec _ d _ _ _ _ _ => [d]
  | .redadd _ _ _ _ _ _ => []
  | .redfadd _ _ _ _ _ _ => []
  | .redmax _ _ _ _ _ _ => []
  | .barinit _ _ _ => []
  | .barexp _ d _ _ _ _ => [d]
  | .bararr _ d _ _ _ _ => [d]
  | .barwt _ d _ _ _ => [d]
  | .bartst _ d _ _ => [d]
  | .tlsig _ _ _ _ => []
  | .tlwt _ _ _ _ => []
  | .tlrd _ d _ => [d]
  | .fence _ _ _ => []
  | .drain _ => []
  | .wtick _ d _ _ => [d]
  | .wtickRel _ d _ => [d]
  | .powq _ d _ => [d]
  | .powqWait _ d _ => [d]
  | .powrl _ _ => []
  | .futwt _ d _ _ => [d]
  | .futset _ d _ _ => [d]
  | .futsetClr _ d _ => [d]
  | .yield _ _ => []
  | .mxselAcq _ d _ => [d]
  | .mxselRel _ d _ => [d]
  | .mxldb _ d _ _ => [d]
  | .mxswb _ d _ => [d]
  | .mxzero _ d _ _ => [d]
  | .mxmacChan _ d _ _ => [d]
  | .mxmacStore _ d _ _ => [d]
  | .mxmacFill _ d _ _ _ => [d]
  | .mxmacPfill _ d _ _ _ => [d]
  | .mxsc _ d _ _ _ _ => [d]
  | .mxdrn _ d _ _ _ _ => [d]
  | .mxacc _ d _ _ => [d]
  | .mxsave _ d _ _ => [d]
  | .mxrest _ d _ _ => [d]
  | .mxst _ d _ _ _ _ _ => [d]
  | .mxcolRd _ d _ _ => [d]
  | .mxcolRet _ d _ _ => [d]
  | .mxwst _ d _ _ => [d]
  | .mxfmt _ d _ _ => [d]
  | .mxpeekAcc _ d _ _ => [d]
  | .mxpeekSt _ d _ => [d]
  | .mxpeekTa _ d _ _ => [d]
  | .mxpeekTb _ d _ _ => [d]
  | .sbind _ _ _ _ => []
  | .scpy _ d _ _ => [d]
  | .scpyChk _ d _ _ _ => [d]
  | .sgat _ d _ => [d]
  | .ssct _ d _ => [d]
  | .sred _ d _ _ _ _ => [d]
  | .sfill _ d _ _ => [d]
  | .scvt _ d _ _ _ _ => [d]
  | .scan _ d _ _ => [d]
  | .sst _ d _ => [d]
  | .sstFlags _ d _ => [d]
  | .spat _ _ _ => []
  | .ccred _ d _ _ _ => [d]
  | .ccbc _ d _ _ => [d]
  | .ccag _ d _ _ => [d]
  | .ccsend _ d _ _ _ => [d]
  | .ccrecv _ d _ _ _ => [d]
  | .ccbar _ d _ _ => [d]
  | .br _ _ => []
  | .exit _ _ => []
  | .nulSt _ _ => []
  | .nulH _ _ => []
  | .jpost _ d _ _ => [d]
  | .jwait _ _ _ => []
  | .launch _ d _ _ _ _ => [d]
  | .launchSeq _ d _ _ _ => [d]
  | .cancel _ d _ _ _ => [d]
  | .cmpl _ d _ _ => [d]
  | .cmplWait _ d _ _ => [d]
  | .gfork _ d _ _ _ => [d]
  | .grew _ d _ _ _ => [d]
  | .gbar _ d _ => [d]
  | .gadv _ d _ _ => [d]
  | .gcan _ d _ _ => [d]
  | .gcanAll _ d _ => [d]
  | .gst _ d _ => [d]
  | .bcall _ d _ => [.h d]
  | .bret _ _ => []
  | .trap _ _ _ => []
  | .brk _ _ => []
  | .csrr _ d _ => [d]
  | .csrw _ _ _ => []
  | .halt _ _ => []
  | .trace _ _ _ => []
  | .cfginv _ _ => []
  | .cfginvAll _ => []
  | .stestRun _ d _ => [d]
  | .stestSt _ d _ => [d]
  | .blockFetchMap _ => []
  | .blockCommit _ => []
  | .taskDispatch _ _ => []
  | .timeSliceExpiry _ => []
  | .cardFinish _ _ => []
  | .externalResultArrival _ => []
  | .scratchAccessPerformed _ => []
  | .dRequestPerformed _ _ => []
  | .arbiterSlotStart _ _ => []
  | .matrixCommandStart _ _ => []
  | .matrixCommandComplete _ _ => []
  | .matrixRowUpdate _ => []
  | .residueMismatch _ _ => []
  | .streamCommandStart _ => []
  | .streamBurst _ => []
  | .streamCommandComplete _ => []
  | .ingressFrameReceived _ _ _ _ => []
  | .placementGrant _ => []
  | .configCompleteWave _ _ => []
  | .drainToken _ _ => []
  | .quiescenceReport _ _ => []
  | .allocatorHeadTimeout _ _ => []
  | .regionMove _ _ _ _ => []
  | .tickBoundary => []
  | .timebaseLockLoss => []
  | .tableArmedStart _ _ => []
  | .laneReclaimStart _ _ _ => []
  | .tableEntryStart _ _ _ => []
  | .tableDeadlineOverrun _ _ _ => []
  | .fallbackBudgetEnd _ _ _ => []
  | .modeChangePoint _ _ => []
  | .drainLimitExpiry _ => []
  | .saveLimitExpiry _ => []
  | .contextSaveComplete _ => []
  | .contextRestoreComplete _ => []
  | .contextTeardownComplete _ => []
  | .publicationTimeout _ => []
  | .queueSlotGrant _ => []
  | .demotedQueueCheck _ => []
  | .stallDetected _ => []
  | .waitConditionMet _ => []
  | .nopPacket _ => []
  | .launchPacket _ => []
  | .deltaPacket _ => []
  | .copyPacket _ => []
  | .waitPacket _ => []
  | .signalPacket _ => []
  | .fencePacket _ => []
  | .tableInstall _ => []
  | .tableStart _ => []
  | .tableSwitch _ => []
  | .tableAcknowledge _ => []
  | .tableRemove _ => []
  | .modePrio _ => []
  | .modePause _ => []
  | .modePubto _ => []
  | .modeReslim _ => []
  | .graphPacket _ => []
  | .debugAttach _ => []
  | .debugDetach _ => []
  | .debugHalt _ => []
  | .debugResume _ => []
  | .debugReadState _ => []
  | .debugWriteState _ => []
  | .debugSetBreakpoint _ => []
  | .debugClearBreakpoint _ => []
  | .cancelPacket _ => []
  | .qctlEnable _ => []
  | .qctlDisable _ => []
  | .qctlRestart _ _ _ => []
  | .qctlResume _ => []
  | .qctlDoorbell _ => []
  | .ctxctlCreate _ _ => []
  | .ctxctlSave _ => []
  | .ctxctlRestore _ _ => []
  | .ctxctlTeardown _ => []
  | .ctxsaveWrite _ _ => []
  | .tbctlSettime => []
  | .tbctlStart => []
  | .tbadjWrite _ => []
  | .cfginvCsrWrite _ => []
  | .cfgInvalidationPerformed => []
  | .vminvWrite _ => []
  | .vmInvalidationPerformed => []
  | .futsetCsrWrite _ => []
  | .pgretireWrite _ => []
  | .expoolWrite _ _ => []
  | .chretireWrite _ _ => []
  | .channelMigrationDone _ => []
  | .attctlGo _ => []
  | .quoteComplete => []
  | .peercfgWrite _ => []
  | .shadowWrite _ _ => []
  | .cfgcacheWrite _ _ => []
  | .leaveBudgetWrite _ _ _ => []
  | .tlclrWrite _ _ => []
  | .ingressChannelWrite _ _ => []
  | .histcfgWrite _ _ _ => []
  | .trcctlWrite _ _ => []
  | .evidxWrite _ => []
  | .csrWriteOther _ _ _ _ => []
  | .hostCsrAccess _ _ _ _ => []
  | .groupDeadline _ => []
  | .groupCollection _ => []
  | .ccbarTimeout _ _ _ => []
  | .collectiveComplete _ => []
  | .flitReceived _ _ _ _ _ => []
  | .linkTrainingDone _ _ _ _ _ => []
  | .linkTrainingTimeout _ => []
  | .linkLaneFailure _ _ => []
  | .linkModuleFailure _ _ => []
  | .linkRetrainDone _ _ => []
  | .powerOnReset _ _ _ => []
  | .recoveryImageFrame _ _ => []
  | .configRecordWrite _ => []
  | .selfTestStart _ _ _ => []
  | .selfTestEnd _ _ _ _ => []
  | .selfTestOverdue _ => []
  | .ageingSample _ _ _ _ => []
  | .eccThresholdRetire _ _ => []
  | .thermalTrip _ => []
  | .pdbAccessPerformed _ => []
  | .sequencerStreamEnd _ _ => []
  | .ethernetAutoNegotiation _ _ => []

/-- The source operands an instruction reads, in the order of its entry (R41). -/
def sourcesOf : Instr → List Src
  | .nop _ => []
  | .add _ _ a b => [a] ++ [b]
  | .addi _ _ a _ => [a]
  | .sub _ _ a b => [a] ++ [b]
  | .adc _ _ a b _ => [a] ++ [b]
  | .sbb _ _ a b _ => [a] ++ [b]
  | .mul _ _ a b => [a] ++ [b]
  | .mulh _ _ a b => [a] ++ [b]
  | .mulhu _ _ a b => [a] ++ [b]
  | .mad _ _ a b c => [a] ++ [b] ++ [c]
  | .div _ _ a b => [a] ++ [b]
  | .divu _ _ a b => [a] ++ [b]
  | .rem _ _ a b => [a] ++ [b]
  | .remu _ _ a b => [a] ++ [b]
  | .min _ _ a b => [a] ++ [b]
  | .max _ _ a b => [a] ++ [b]
  | .minu _ _ a b => [a] ++ [b]
  | .maxu _ _ a b => [a] ++ [b]
  | .abs _ _ a => [a]
  | .and _ _ a b => [a] ++ [b]
  | .andi _ _ a _ => [a]
  | .or _ _ a b => [a] ++ [b]
  | .ori _ _ a _ => [a]
  | .xor _ _ a b => [a] ++ [b]
  | .xori _ _ a _ => [a]
  | .andn _ _ a b => [a] ++ [b]
  | .shl _ _ a b => [a] ++ [b]
  | .shli _ _ a _ => [a]
  | .shr _ _ a b => [a] ++ [b]
  | .shri _ _ a _ => [a]
  | .sar _ _ a b => [a] ++ [b]
  | .sari _ _ a _ => [a]
  | .rol _ _ a b => [a] ++ [b]
  | .clz _ _ a => [a]
  | .ctz _ _ a => [a]
  | .popc _ _ a => [a]
  | .brev _ _ a => [a]
  | .bfx _ _ a b => [a] ++ [b]
  | .bfi _ _ a b c => [a] ++ [b] ++ [c]
  | .sext _ _ a _ => [a]
  | .zext _ _ a _ => [a]
  | .movh _ _ _ => []
  | .movi _ _ _ => []
  | .movk _ _ a _ _ => [a]
  | .addsat _ _ a b _ => [a] ++ [b]
  | .subsat _ _ a b _ => [a] ++ [b]
  | .cbrng _ _ a b => [a] ++ [b]
  | .crc _ _ a b _ => [a] ++ [b]
  | .cmp _ _ a b _ => [a] ++ [b]
  | .cmpi _ _ a _ _ => [a]
  | .plog _ _ _ _ _ => []
  | .pmovGet _ _ => []
  | .pmovPut _ a => [a]
  | .sel _ _ a b _ _ => [a] ++ [b]
  | .mov _ _ a => [a]
  | .kget _ _ _ _ => []
  | .getid _ _ _ => []
  | .pcnt _ _ a b => [a] ++ [b]
  | .vadd _ _ a b _ _ => [a] ++ [b]
  | .vsub _ _ a b _ _ => [a] ++ [b]
  | .vmul _ _ a b _ _ => [a] ++ [b]
  | .vfma _ _ a b c _ _ => [a] ++ [b] ++ [c]
  | .vfms _ _ a b c _ _ => [a] ++ [b] ++ [c]
  | .vfnma _ _ a b c _ _ => [a] ++ [b] ++ [c]
  | .vmin _ _ a b _ => [a] ++ [b]
  | .vmax _ _ a b _ => [a] ++ [b]
  | .vabs _ _ a _ _ => [a]
  | .vneg _ _ a _ _ => [a]
  | .vcmp _ _ a b _ _ => [a] ++ [b]
  | .vsel _ _ a b c _ => [a] ++ [b] ++ [c]
  | .vdiv _ _ a b _ _ => [a] ++ [b]
  | .vsqrt _ _ a _ _ => [a]
  | .vrcp _ _ a _ _ => [a]
  | .vrsq _ _ a _ _ => [a]
  | .vexp2 _ _ a _ _ => [a]
  | .vlog2 _ _ a _ _ => [a]
  | .vtanh _ _ a _ _ => [a]
  | .vscale _ _ a b _ _ => [a] ++ [b]
  | .vclamp _ _ a b c _ => [a] ++ [b] ++ [c]
  | .vsum _ _ a _ _ => [a]
  | .vmaxh _ _ a _ => [a]
  | .vdot _ _ a b c _ _ => [a] ++ [b] ++ [c]
  | .vshuf _ _ a b c _ => [a] ++ [b] ++ [c]
  | .vpack _ _ a b _ _ => [a] ++ [b]
  | .vunpk _ _ a _ _ => [a]
  | .vbcast _ _ a _ _ => [a]
  | .vins _ _ a b _ _ => [a] ++ [b]
  | .vext _ _ a _ _ => [a]
  | .vcvt _ _ a _ _ _ => [a]
  | .vrnd _ _ a _ _ => [a]
  | .vand _ _ a b _ => [a] ++ [b]
  | .vor _ _ a b _ => [a] ++ [b]
  | .vxor _ _ a b _ => [a] ++ [b]
  | .vshl _ _ a b _ => [a] ++ [b]
  | .vshr _ _ a b _ => [a] ++ [b]
  | .vsar _ _ a b _ => [a] ++ [b]
  | .vmulh _ _ a b _ => [a] ++ [b]
  | .vavg _ _ a b _ => [a] ++ [b]
  | .vclass _ _ a _ => [a]
  | .vcpsgn _ _ a b _ => [a] ++ [b]
  | .vmad _ _ a b c _ _ => [a] ++ [b] ++ [c]
  | .vsatn _ _ a _ _ => [a]
  | .vminh _ _ a _ => [a]
  | .vsumw _ _ a _ _ => [a]
  | .bexp _ _ a _ _ _ => [a]
  | .benc _ _ a b _ _ _ => [a] ++ [b]
  | .bdec _ _ a b _ _ _ => [a] ++ [b]
  | .scput _ _ a b _ => [a] ++ [b]
  | .scget _ _ i _ => [.route i]
  | .scpair _ _ i b => [.route i] ++ [b]
  | .hdrw _ _ a b => [a] ++ [b]
  | .hdrrFmt _ _ a => [a]
  | .hdrrScale _ _ a => [a]
  | .ld _ _ a _ _ _ => [a]
  | .st _ a b _ _ => [a] ++ [b]
  | .ldl _ _ a _ => [a]
  | .stl _ a b _ => [a] ++ lineSrcs b
  | .ldt _ _ a _ _ => [a]
  | .ldx _ _ a b _ _ _ => [a] ++ [b]
  | .stx _ v a b _ _ => [v] ++ [a] ++ [b]
  | .ldp _ _ a _ _ => [a]
  | .stp _ a b _ => [a] ++ [b]
  | .pldx _ _ a b _ _ => [a] ++ [b]
  | .pstx _ v a b _ => [v] ++ [a] ++ [b]
  | .dqld _ a _ _ _ => [a]
  | .dqst _ a b _ _ => [a] ++ dqValSrcs b
  | .dqpop _ _ _ => []
  | .dqwt _ _ => []
  | .vld _ _ a b _ => [a] ++ [b]
  | .vst _ _ a b _ => [a] ++ [b]
  | .vrcl _ a b _ => [a] ++ [b]
  | .agcfg _ a b => [a] ++ [b]
  | .agstart _ a b => [a] ++ [b]
  | .ageos _ a => [a]
  | .qtkt _ _ a t => [a] ++ tagSrcs t
  | .qpush _ a b t _ => [a] ++ [b] ++ tagSrcs t
  | .qpop _ _ a _ => [a]
  | .qcnt _ _ a => [a]
  | .aadd _ _ a b _ _ _ => [a] ++ [b]
  | .amin _ _ a b _ _ _ => [a] ++ [b]
  | .amax _ _ a b _ _ _ => [a] ++ [b]
  | .aminu _ _ a b _ _ _ => [a] ++ [b]
  | .amaxu _ _ a b _ _ _ => [a] ++ [b]
  | .aand _ _ a b _ _ _ => [a] ++ [b]
  | .aor _ _ a b _ _ _ => [a] ++ [b]
  | .axor _ _ a b _ _ _ => [a] ++ [b]
  | .aswp _ _ a b _ _ _ => [a] ++ [b]
  | .acas _ d a b _ _ _ => [dstAsSrc d] ++ [a] ++ [b]
  | .afadd _ _ a b _ _ _ => [a] ++ [b]
  | .ainc _ _ a b _ _ _ => [a] ++ [b]
  | .adec _ _ a b _ _ _ => [a] ++ [b]
  | .redadd _ a b _ _ _ => [a] ++ [b]
  | .redfadd _ a b _ _ _ => [a] ++ [b]
  | .redmax _ a b _ _ _ => [a] ++ [b]
  | .barinit _ a b => [a] ++ [b]
  | .barexp _ _ a b _ _ => [a] ++ [b]
  | .bararr _ _ a b _ _ => [a] ++ [b]
  | .barwt _ _ a b _ => [a] ++ [b]
  | .bartst _ _ a _ => [a]
  | .tlsig _ a b _ => [a] ++ [b]
  | .tlwt _ a b _ => [a] ++ [b]
  | .tlrd _ _ a => [a]
  | .fence _ _ _ => []
  | .drain _ => []
  | .wtick _ _ a _ => [a]
  | .wtickRel _ _ _ => []
  | .powq _ _ a => [a]
  | .powqWait _ _ a => [a]
  | .powrl _ a => [a]
  | .futwt _ _ a b => [a] ++ [b]
  | .futset _ _ a b => [a] ++ [b]
  | .futsetClr _ _ a => [a]
  | .yield _ a => [a]
  | .mxselAcq _ _ a => [a]
  | .mxselRel _ _ a => [a]
  | .mxldb _ _ a b => [a] ++ [b]
  | .mxswb _ _ a => [a]
  | .mxzero _ _ a b => [a] ++ [b]
  | .mxmacChan _ _ a b => [a] ++ [b]
  | .mxmacStore _ _ a b => [a] ++ [b]
  | .mxmacFill _ _ a b c => [a] ++ [b] ++ [c]
  | .mxmacPfill _ _ a b c => [a] ++ [b] ++ [c]
  | .mxsc _ _ a b c _ => [a] ++ [b] ++ [c]
  | .mxdrn _ _ a b _ _ => [a] ++ [b]
  | .mxacc _ _ a b => [a] ++ [b]
  | .mxsave _ _ a b => [a] ++ [b]
  | .mxrest _ _ a b => [a] ++ [b]
  | .mxst _ _ a b c _ _ => [a] ++ [b] ++ [c]
  | .mxcolRd _ _ a b => [a] ++ [b]
  | .mxcolRet _ _ a b => [a] ++ [b]
  | .mxwst _ _ a b => [a] ++ [b]
  | .mxfmt _ _ a b => [a] ++ [b]
  | .mxpeekAcc _ _ a b => [a] ++ [b]
  | .mxpeekSt _ _ a => [a]
  | .mxpeekTa _ _ a b => [a] ++ [b]
  | .mxpeekTb _ _ a b => [a] ++ [b]
  | .sbind _ a b c => [a] ++ [b] ++ [c]
  | .scpy _ _ a b => [a] ++ [b]
  | .scpyChk _ _ a b c => [a] ++ [b] ++ [c]
  | .sgat _ _ a => [a]
  | .ssct _ _ a => [a]
  | .sred _ _ a _ _ _ => [a]
  | .sfill _ _ a b => [a] ++ [b]
  | .scvt _ _ a b c _ => [a] ++ [b] ++ [c]
  | .scan _ _ a b => [a] ++ [b]
  | .sst _ _ a => [a]
  | .sstFlags _ _ a => [a]
  | .spat _ a b => [a] ++ [b]
  | .ccred _ _ a b _ => [a] ++ [b]
  | .ccbc _ _ a b => [a] ++ [b]
  | .ccag _ _ a b => [a] ++ [b]
  | .ccsend _ _ a b c => [a] ++ [b] ++ [c]
  | .ccrecv _ _ a b c => [a] ++ [b] ++ [c]
  | .ccbar _ _ a b => [a] ++ [b]
  | .br _ _ => []
  | .exit _ a => [a]
  | .nulSt _ _ => []
  | .nulH _ _ => []
  | .jpost _ _ a b => [a] ++ [b]
  | .jwait _ a b => [a] ++ [b]
  | .launch _ _ a b c _ => [a] ++ [b] ++ [c]
  | .launchSeq _ _ a c _ => [a] ++ [c]
  | .cancel _ _ a _ _ => [a]
  | .cmpl _ _ a _ => [a]
  | .cmplWait _ _ a _ => [a]
  | .gfork _ _ a b c => [a] ++ [b] ++ [c]
  | .grew _ _ a b c => [a] ++ [b] ++ [c]
  | .gbar _ _ a => [a]
  | .gadv _ _ a b => [a] ++ [b]
  | .gcan _ _ a b => [a] ++ [b]
  | .gcanAll _ _ a => [a]
  | .gst _ _ a => [a]
  | .bcall _ _ _ => []
  | .bret _ a => [a]
  | .trap _ a _ => [a]
  | .brk _ _ => []
  | .csrr _ _ _ => []
  | .csrw _ a _ => [a]
  | .halt _ a => [a]
  | .trace _ a _ => [a]
  | .cfginv _ a => [a]
  | .cfginvAll _ => []
  | .stestRun _ _ a => [a]
  | .stestSt _ _ a => [a]
  | .blockFetchMap _ => []
  | .blockCommit _ => []
  | .taskDispatch _ _ => []
  | .timeSliceExpiry _ => []
  | .cardFinish _ _ => []
  | .externalResultArrival _ => []
  | .scratchAccessPerformed _ => []
  | .dRequestPerformed _ _ => []
  | .arbiterSlotStart _ _ => []
  | .matrixCommandStart _ _ => []
  | .matrixCommandComplete _ _ => []
  | .matrixRowUpdate _ => []
  | .residueMismatch _ _ => []
  | .streamCommandStart _ => []
  | .streamBurst _ => []
  | .streamCommandComplete _ => []
  | .ingressFrameReceived _ _ _ _ => []
  | .placementGrant _ => []
  | .configCompleteWave _ _ => []
  | .drainToken _ _ => []
  | .quiescenceReport _ _ => []
  | .allocatorHeadTimeout _ _ => []
  | .regionMove _ _ _ _ => []
  | .tickBoundary => []
  | .timebaseLockLoss => []
  | .tableArmedStart _ _ => []
  | .laneReclaimStart _ _ _ => []
  | .tableEntryStart _ _ _ => []
  | .tableDeadlineOverrun _ _ _ => []
  | .fallbackBudgetEnd _ _ _ => []
  | .modeChangePoint _ _ => []
  | .drainLimitExpiry _ => []
  | .saveLimitExpiry _ => []
  | .contextSaveComplete _ => []
  | .contextRestoreComplete _ => []
  | .contextTeardownComplete _ => []
  | .publicationTimeout _ => []
  | .queueSlotGrant _ => []
  | .demotedQueueCheck _ => []
  | .stallDetected _ => []
  | .waitConditionMet _ => []
  | .nopPacket _ => []
  | .launchPacket _ => []
  | .deltaPacket _ => []
  | .copyPacket _ => []
  | .waitPacket _ => []
  | .signalPacket _ => []
  | .fencePacket _ => []
  | .tableInstall _ => []
  | .tableStart _ => []
  | .tableSwitch _ => []
  | .tableAcknowledge _ => []
  | .tableRemove _ => []
  | .modePrio _ => []
  | .modePause _ => []
  | .modePubto _ => []
  | .modeReslim _ => []
  | .graphPacket _ => []
  | .debugAttach _ => []
  | .debugDetach _ => []
  | .debugHalt _ => []
  | .debugResume _ => []
  | .debugReadState _ => []
  | .debugWriteState _ => []
  | .debugSetBreakpoint _ => []
  | .debugClearBreakpoint _ => []
  | .cancelPacket _ => []
  | .qctlEnable _ => []
  | .qctlDisable _ => []
  | .qctlRestart _ _ _ => []
  | .qctlResume _ => []
  | .qctlDoorbell _ => []
  | .ctxctlCreate _ _ => []
  | .ctxctlSave _ => []
  | .ctxctlRestore _ _ => []
  | .ctxctlTeardown _ => []
  | .ctxsaveWrite _ _ => []
  | .tbctlSettime => []
  | .tbctlStart => []
  | .tbadjWrite _ => []
  | .cfginvCsrWrite _ => []
  | .cfgInvalidationPerformed => []
  | .vminvWrite _ => []
  | .vmInvalidationPerformed => []
  | .futsetCsrWrite _ => []
  | .pgretireWrite _ => []
  | .expoolWrite _ _ => []
  | .chretireWrite _ _ => []
  | .channelMigrationDone _ => []
  | .attctlGo _ => []
  | .quoteComplete => []
  | .peercfgWrite _ => []
  | .shadowWrite _ _ => []
  | .cfgcacheWrite _ _ => []
  | .leaveBudgetWrite _ _ _ => []
  | .tlclrWrite _ _ => []
  | .ingressChannelWrite _ _ => []
  | .histcfgWrite _ _ _ => []
  | .trcctlWrite _ _ => []
  | .evidxWrite _ => []
  | .csrWriteOther _ _ _ _ => []
  | .hostCsrAccess _ _ _ _ => []
  | .groupDeadline _ => []
  | .groupCollection _ => []
  | .ccbarTimeout _ _ _ => []
  | .collectiveComplete _ => []
  | .flitReceived _ _ _ _ _ => []
  | .linkTrainingDone _ _ _ _ _ => []
  | .linkTrainingTimeout _ => []
  | .linkLaneFailure _ _ => []
  | .linkModuleFailure _ _ => []
  | .linkRetrainDone _ _ => []
  | .powerOnReset _ _ _ => []
  | .recoveryImageFrame _ _ => []
  | .configRecordWrite _ => []
  | .selfTestStart _ _ _ => []
  | .selfTestEnd _ _ _ _ => []
  | .selfTestOverdue _ => []
  | .ageingSample _ _ _ _ => []
  | .eccThresholdRetire _ _ => []
  | .thermalTrip _ => []
  | .pdbAccessPerformed _ => []
  | .sequencerStreamEnd _ _ => []
  | .ethernetAutoNegotiation _ _ => []

/-- Instructions that give their destination only at the commit of their block: the atomics, `vst`, the sends and `bcall` (R241). -/
def commitDelivers : Instr → Bool
  | .nop _ => false
  | .add _ _ _ _ => false
  | .addi _ _ _ _ => false
  | .sub _ _ _ _ => false
  | .adc _ _ _ _ _ => false
  | .sbb _ _ _ _ _ => false
  | .mul _ _ _ _ => false
  | .mulh _ _ _ _ => false
  | .mulhu _ _ _ _ => false
  | .mad _ _ _ _ _ => false
  | .div _ _ _ _ => false
  | .divu _ _ _ _ => false
  | .rem _ _ _ _ => false
  | .remu _ _ _ _ => false
  | .min _ _ _ _ => false
  | .max _ _ _ _ => false
  | .minu _ _ _ _ => false
  | .maxu _ _ _ _ => false
  | .abs _ _ _ => false
  | .and _ _ _ _ => false
  | .andi _ _ _ _ => false
  | .or _ _ _ _ => false
  | .ori _ _ _ _ => false
  | .xor _ _ _ _ => false
  | .xori _ _ _ _ => false
  | .andn _ _ _ _ => false
  | .shl _ _ _ _ => false
  | .shli _ _ _ _ => false
  | .shr _ _ _ _ => false
  | .shri _ _ _ _ => false
  | .sar _ _ _ _ => false
  | .sari _ _ _ _ => false
  | .rol _ _ _ _ => false
  | .clz _ _ _ => false
  | .ctz _ _ _ => false
  | .popc _ _ _ => false
  | .brev _ _ _ => false
  | .bfx _ _ _ _ => false
  | .bfi _ _ _ _ _ => false
  | .sext _ _ _ _ => false
  | .zext _ _ _ _ => false
  | .movh _ _ _ => false
  | .movi _ _ _ => false
  | .movk _ _ _ _ _ => false
  | .addsat _ _ _ _ _ => false
  | .subsat _ _ _ _ _ => false
  | .cbrng _ _ _ _ => false
  | .crc _ _ _ _ _ => false
  | .cmp _ _ _ _ _ => false
  | .cmpi _ _ _ _ _ => false
  | .plog _ _ _ _ _ => false
  | .pmovGet _ _ => false
  | .pmovPut _ _ => false
  | .sel _ _ _ _ _ _ => false
  | .mov _ _ _ => false
  | .kget _ _ _ _ => false
  | .getid _ _ _ => false
  | .pcnt _ _ _ _ => false
  | .vadd _ _ _ _ _ _ => false
  | .vsub _ _ _ _ _ _ => false
  | .vmul _ _ _ _ _ _ => false
  | .vfma _ _ _ _ _ _ _ => false
  | .vfms _ _ _ _ _ _ _ => false
  | .vfnma _ _ _ _ _ _ _ => false
  | .vmin _ _ _ _ _ => false
  | .vmax _ _ _ _ _ => false
  | .vabs _ _ _ _ _ => false
  | .vneg _ _ _ _ _ => false
  | .vcmp _ _ _ _ _ _ => false
  | .vsel _ _ _ _ _ _ => false
  | .vdiv _ _ _ _ _ _ => false
  | .vsqrt _ _ _ _ _ => false
  | .vrcp _ _ _ _ _ => false
  | .vrsq _ _ _ _ _ => false
  | .vexp2 _ _ _ _ _ => false
  | .vlog2 _ _ _ _ _ => false
  | .vtanh _ _ _ _ _ => false
  | .vscale _ _ _ _ _ _ => false
  | .vclamp _ _ _ _ _ _ => false
  | .vsum _ _ _ _ _ => false
  | .vmaxh _ _ _ _ => false
  | .vdot _ _ _ _ _ _ _ => false
  | .vshuf _ _ _ _ _ _ => false
  | .vpack _ _ _ _ _ _ => false
  | .vunpk _ _ _ _ _ => false
  | .vbcast _ _ _ _ _ => false
  | .vins _ _ _ _ _ _ => false
  | .vext _ _ _ _ _ => false
  | .vcvt _ _ _ _ _ _ => false
  | .vrnd _ _ _ _ _ => false
  | .vand _ _ _ _ _ => false
  | .vor _ _ _ _ _ => false
  | .vxor _ _ _ _ _ => false
  | .vshl _ _ _ _ _ => false
  | .vshr _ _ _ _ _ => false
  | .vsar _ _ _ _ _ => false
  | .vmulh _ _ _ _ _ => false
  | .vavg _ _ _ _ _ => false
  | .vclass _ _ _ _ => false
  | .vcpsgn _ _ _ _ _ => false
  | .vmad _ _ _ _ _ _ _ => false
  | .vsatn _ _ _ _ _ => false
  | .vminh _ _ _ _ => false
  | .vsumw _ _ _ _ _ => false
  | .bexp _ _ _ _ _ _ => false
  | .benc _ _ _ _ _ _ _ => false
  | .bdec _ _ _ _ _ _ _ => false
  | .scput _ _ _ _ _ => false
  | .scget _ _ _ _ => false
  | .scpair _ _ _ _ => false
  | .hdrw _ _ _ _ => false
  | .hdrrFmt _ _ _ => false
  | .hdrrScale _ _ _ => false
  | .ld _ _ _ _ _ _ => false
  | .st _ _ _ _ _ => false
  | .ldl _ _ _ _ => false
  | .stl _ _ _ _ => false
  | .ldt _ _ _ _ _ => false
  | .ldx _ _ _ _ _ _ _ => false
  | .stx _ _ _ _ _ _ => false
  | .ldp _ _ _ _ _ => false
  | .stp _ _ _ _ => false
  | .pldx _ _ _ _ _ _ => false
  | .pstx _ _ _ _ _ => false
  | .dqld _ _ _ _ _ => false
  | .dqst _ _ _ _ _ => false
  | .dqpop _ _ _ => false
  | .dqwt _ _ => false
  | .vld _ _ _ _ _ => false
  | .vst _ _ _ _ _ => true
  | .vrcl _ _ _ _ => false
  | .agcfg _ _ _ => false
  | .agstart _ _ _ => false
  | .ageos _ _ => false
  | .qtkt _ _ _ _ => false
  | .qpush _ _ _ _ _ => false
  | .qpop _ _ _ _ => false
  | .qcnt _ _ _ => false
  | .aadd _ _ _ _ _ _ _ => true
  | .amin _ _ _ _ _ _ _ => true
  | .amax _ _ _ _ _ _ _ => true
  | .aminu _ _ _ _ _ _ _ => true
  | .amaxu _ _ _ _ _ _ _ => true
  | .aand _ _ _ _ _ _ _ => true
  | .aor _ _ _ _ _ _ _ => true
  | .axor _ _ _ _ _ _ _ => true
  | .aswp _ _ _ _ _ _ _ => true
  | .acas _ _ _ _ _ _ _ => true
  | .afadd _ _ _ _ _ _ _ => true
  | .ainc _ _ _ _ _ _ _ => true
  | .adec _ _ _ _ _ _ _ => true
  | .redadd _ _ _ _ _ _ => false
  | .redfadd _ _ _ _ _ _ => false
  | .redmax _ _ _ _ _ _ => false
  | .barinit _ _ _ => false
  | .barexp _ _ _ _ _ _ => true
  | .bararr _ _ _ _ _ _ => true
  | .barwt _ _ _ _ _ => false
  | .bartst _ _ _ _ => false
  | .tlsig _ _ _ _ => false
  | .tlwt _ _ _ _ => false
  | .tlrd _ _ _ => false
  | .fence _ _ _ => false
  | .drain _ => false
  | .wtick _ _ _ _ => false
  | .wtickRel _ _ _ => false
  | .powq _ _ _ => true
  | .powqWait _ _ _ => true
  | .powrl _ _ => false
  | .futwt _ _ _ _ => true
  | .futset _ _ _ _ => true
  | .futsetClr _ _ _ => true
  | .yield _ _ => false
  | .mxselAcq _ _ _ => true
  | .mxselRel _ _ _ => true
  | .mxldb _ _ _ _ => true
  | .mxswb _ _ _ => true
  | .mxzero _ _ _ _ => true
  | .mxmacChan _ _ _ _ => true
  | .mxmacStore _ _ _ _ => true
  | .mxmacFill _ _ _ _ _ => true
  | .mxmacPfill _ _ _ _ _ => true
  | .mxsc _ _ _ _ _ _ => true
  | .mxdrn _ _ _ _ _ _ => true
  | .mxacc _ _ _ _ => true
  | .mxsave _ _ _ _ => true
  | .mxrest _ _ _ _ => true
  | .mxst _ _ _ _ _ _ _ => true
  | .mxcolRd _ _ _ _ => false
  | .mxcolRet _ _ _ _ => true
  | .mxwst _ _ _ _ => true
  | .mxfmt _ _ _ _ => true
  | .mxpeekAcc _ _ _ _ => false
  | .mxpeekSt _ _ _ => false
  | .mxpeekTa _ _ _ _ => false
  | .mxpeekTb _ _ _ _ => false
  | .sbind _ _ _ _ => false
  | .scpy _ _ _ _ => true
  | .scpyChk _ _ _ _ _ => true
  | .sgat _ _ _ => true
  | .ssct _ _ _ => true
  | .sred _ _ _ _ _ _ => true
  | .sfill _ _ _ _ => true
  | .scvt _ _ _ _ _ _ => true
  | .scan _ _ _ _ => true
  | .sst _ _ _ => false
  | .sstFlags _ _ _ => false
  | .spat _ _ _ => false
  | .ccred _ _ _ _ _ => true
  | .ccbc _ _ _ _ => true
  | .ccag _ _ _ _ => true
  | .ccsend _ _ _ _ _ => true
  | .ccrecv _ _ _ _ _ => true
  | .ccbar _ _ _ _ => true
  | .br _ _ => false
  | .exit _ _ => false
  | .nulSt _ _ => false
  | .nulH _ _ => false
  | .jpost _ _ _ _ => true
  | .jwait _ _ _ => false
  | .launch _ _ _ _ _ _ => true
  | .launchSeq _ _ _ _ _ => true
  | .cancel _ _ _ _ _ => true
  | .cmpl _ _ _ _ => false
  | .cmplWait _ _ _ _ => false
  | .gfork _ _ _ _ _ => true
  | .grew _ _ _ _ _ => true
  | .gbar _ _ _ => false
  | .gadv _ _ _ _ => false
  | .gcan _ _ _ _ => true
  | .gcanAll _ _ _ => true
  | .gst _ _ _ => false
  | .bcall _ _ _ => true
  | .bret _ _ => false
  | .trap _ _ _ => false
  | .brk _ _ => false
  | .csrr _ _ _ => false
  | .csrw _ _ _ => false
  | .halt _ _ => false
  | .trace _ _ _ => false
  | .cfginv _ _ => false
  | .cfginvAll _ => false
  | .stestRun _ _ _ => true
  | .stestSt _ _ _ => false
  | .blockFetchMap _ => false
  | .blockCommit _ => false
  | .taskDispatch _ _ => false
  | .timeSliceExpiry _ => false
  | .cardFinish _ _ => false
  | .externalResultArrival _ => false
  | .scratchAccessPerformed _ => false
  | .dRequestPerformed _ _ => false
  | .arbiterSlotStart _ _ => false
  | .matrixCommandStart _ _ => false
  | .matrixCommandComplete _ _ => false
  | .matrixRowUpdate _ => false
  | .residueMismatch _ _ => false
  | .streamCommandStart _ => false
  | .streamBurst _ => false
  | .streamCommandComplete _ => false
  | .ingressFrameReceived _ _ _ _ => false
  | .placementGrant _ => false
  | .configCompleteWave _ _ => false
  | .drainToken _ _ => false
  | .quiescenceReport _ _ => false
  | .allocatorHeadTimeout _ _ => false
  | .regionMove _ _ _ _ => false
  | .tickBoundary => false
  | .timebaseLockLoss => false
  | .tableArmedStart _ _ => false
  | .laneReclaimStart _ _ _ => false
  | .tableEntryStart _ _ _ => false
  | .tableDeadlineOverrun _ _ _ => false
  | .fallbackBudgetEnd _ _ _ => false
  | .modeChangePoint _ _ => false
  | .drainLimitExpiry _ => false
  | .saveLimitExpiry _ => false
  | .contextSaveComplete _ => false
  | .contextRestoreComplete _ => false
  | .contextTeardownComplete _ => false
  | .publicationTimeout _ => false
  | .queueSlotGrant _ => false
  | .demotedQueueCheck _ => false
  | .stallDetected _ => false
  | .waitConditionMet _ => false
  | .nopPacket _ => false
  | .launchPacket _ => false
  | .deltaPacket _ => false
  | .copyPacket _ => false
  | .waitPacket _ => false
  | .signalPacket _ => false
  | .fencePacket _ => false
  | .tableInstall _ => false
  | .tableStart _ => false
  | .tableSwitch _ => false
  | .tableAcknowledge _ => false
  | .tableRemove _ => false
  | .modePrio _ => false
  | .modePause _ => false
  | .modePubto _ => false
  | .modeReslim _ => false
  | .graphPacket _ => false
  | .debugAttach _ => false
  | .debugDetach _ => false
  | .debugHalt _ => false
  | .debugResume _ => false
  | .debugReadState _ => false
  | .debugWriteState _ => false
  | .debugSetBreakpoint _ => false
  | .debugClearBreakpoint _ => false
  | .cancelPacket _ => false
  | .qctlEnable _ => false
  | .qctlDisable _ => false
  | .qctlRestart _ _ _ => false
  | .qctlResume _ => false
  | .qctlDoorbell _ => false
  | .ctxctlCreate _ _ => false
  | .ctxctlSave _ => false
  | .ctxctlRestore _ _ => false
  | .ctxctlTeardown _ => false
  | .ctxsaveWrite _ _ => false
  | .tbctlSettime => false
  | .tbctlStart => false
  | .tbadjWrite _ => false
  | .cfginvCsrWrite _ => false
  | .cfgInvalidationPerformed => false
  | .vminvWrite _ => false
  | .vmInvalidationPerformed => false
  | .futsetCsrWrite _ => false
  | .pgretireWrite _ => false
  | .expoolWrite _ _ => false
  | .chretireWrite _ _ => false
  | .channelMigrationDone _ => false
  | .attctlGo _ => false
  | .quoteComplete => false
  | .peercfgWrite _ => false
  | .shadowWrite _ _ => false
  | .cfgcacheWrite _ _ => false
  | .leaveBudgetWrite _ _ _ => false
  | .tlclrWrite _ _ => false
  | .ingressChannelWrite _ _ => false
  | .histcfgWrite _ _ _ => false
  | .trcctlWrite _ _ => false
  | .evidxWrite _ => false
  | .csrWriteOther _ _ _ _ => false
  | .hostCsrAccess _ _ _ _ => false
  | .groupDeadline _ => false
  | .groupCollection _ => false
  | .ccbarTimeout _ _ _ => false
  | .collectiveComplete _ => false
  | .flitReceived _ _ _ _ _ => false
  | .linkTrainingDone _ _ _ _ _ => false
  | .linkTrainingTimeout _ => false
  | .linkLaneFailure _ _ => false
  | .linkModuleFailure _ _ => false
  | .linkRetrainDone _ _ => false
  | .powerOnReset _ _ _ => false
  | .recoveryImageFrame _ _ => false
  | .configRecordWrite _ => false
  | .selfTestStart _ _ _ => false
  | .selfTestEnd _ _ _ _ => false
  | .selfTestOverdue _ => false
  | .ageingSample _ _ _ _ => false
  | .eccThresholdRetire _ _ => false
  | .thermalTrip _ => false
  | .pdbAccessPerformed _ => false
  | .sequencerStreamEnd _ _ => false
  | .ethernetAutoNegotiation _ _ => false

/-! ### The issuer's surroundings -/

def State.curTile (s : State) : Nat := tileKey s.cur.die s.cur.x s.cur.y

def State.curPe (s : State) : Nat := peKey s.cur.die s.cur.x s.cur.y s.cur.pe

def State.curRegion (s : State) : Region := s.regionOn s.cur.ctx s.cur.handle s.cur.die

def State.setCurRegion (s : State) (r : Region) : State := s.setRegion s.cur.ctx s.cur.handle s.cur.die r

def State.curTask (s : State) : Task := s.task s.cur.task

def State.curBlk (s : State) : Blk := s.curTask.blk.getD Blk.init

/-- The issuing block changed; nothing where the task has none mapped. -/
def State.modBlk (s : State) (f : Blk → Blk) : State :=
  match s.curTask.blk with
  | some b => s.setTask s.cur.task { s.curTask with blk := some (f b) }
  | none => s

/-- `Cycle()`, `Instance()` and the admission (R53, R68). -/
def Region.counter (r : Region) : Nat := r.t % (if r.period = 0 then 1 else r.period)

def Region.admission (r : Region) : Nat := r.t / (if r.period = 0 then 1 else r.period)

/-- The stage of a timed place. -/
def stageOf (h : Hd) : Nat :=
  match h.place with
  | .timed _ g => g.toNat
  | .block _ => 0

def State.instanceOf (s : State) (h : Hd) : Nat := s.curRegion.admission - stageOf h

/-! ### Block values (R72, R83, R241) -/

/-- The value the nearest writer of `d` below index `lim` gave; an instruction that was predicated off or nulled is passed
over, which is the pass-through of R243. -/
def blkWriter (b : Blk) (lim : Nat) (d : Dst) : Option Val :=
  b.res.foldl (fun acc p => if p.1 < 16 * lim ∧ p.2.dst = some d then some p.2.v else acc) none

def blkRow (b : Blk) (lim : Nat) (n : BitVec 8) : Val := (blkWriter b lim (.row n)).getD Val.zero

def blkH (t : Task) (b : Blk) (lim : Nat) (k : BitVec 3) : Val :=
  (blkWriter b lim (.h k)).getD (t.h.getD k.toNat Val.zero)

/-- The predicate a read at index `lim` names: its value and poison (R83, R241). -/
def blkPred (b : Blk) (lim p : Nat) : Bool × Bool :=
  if p = 0 then (true, false)
  else b.preds.foldl (fun acc q => if q.1 < 8 * lim ∧ q.1 % 8 = p then (q.2.1, q.2.2.1) else acc) (false, false)

/-- `PFLAG` as a read at index `lim` finds it (R83). -/
def blkFlags (b : Blk) (lim : Nat) : Flags :=
  b.flags.foldl (fun f e => if e.1 < lim then (f &&& ~~~e.2.1) ||| e.2.2 else f) 0

/-- Latch result of the instruction at index `i` of the block (R72, R243). -/
def blkLatch (t : Task) (b : Blk) (i : Nat) : Val :=
  match tabFind b.res (16 * i + 15) with
  | some r => r.latch.getD Val.zero
  | none =>
    if b.off.contains i then
      match decodeWord .block (b.words.getD (i - 1) 0) with
      | .ok ins => match (destsOf ins).head? with
        | some (.row n) => blkRow b i n
        | some (.h k) => blkH t b i k
        | _ => Val.zero
      | .error _ => Val.zero
    else Val.zero

/-- How many instructions back a latch selector of a block names (R72). -/
def latchBack : Src → Nat
  | .latch => 1
  | .west => 2
  | .north => 4
  | .east => 8
  | .south => 16
  | _ => 0

/-! ### Reading an operand -/

/-- A neighbour's latch in the timed form (R72); beyond the die's edge 0. -/
def State.latchAt (s : State) (dx dy : Int) (pe : Nat) : Val :=
  let x : Int := s.cur.x + dx
  let y : Int := s.cur.y + dy
  if x < 0 ∨ y < 0 ∨ 31 < x ∨ 31 < y then Val.zero else (s.pe (peKey s.cur.die x.toNat y.toNat pe)).latch

/-- The lowest-numbered route input among the sources, else i0: the one whose side band `sb` reads (R76). -/
def sideInput (srcs : List Src) : Nat :=
  srcs.foldl (fun acc a => match a with
    | .route n => if n.toNat < acc then n.toNat else acc
    | _ => acc) 8 % 8

/-- `ReadOp` in a timed region (R41, R53). -/
def State.readTimed (s : State) (srcs : List Src) (a : Src) : Val :=
  match a with
  | .row n => s.row s.curTile n.toNat
  | .h _ => Val.zero
  | .route n => (s.routeIn s.curTile n.toNat).v
  | .latch => s.latchAt 0 0 s.cur.pe
  | .west => if s.cur.pe = 0 then s.latchAt (-2) 0 15 else s.latchAt 0 0 (s.cur.pe - 1)
  | .east => if s.cur.pe = 15 then s.latchAt 2 0 0 else s.latchAt 0 0 (s.cur.pe + 1)
  | .north => s.latchAt 0 (-2) s.cur.pe
  | .south => s.latchAt 0 2 s.cur.pe
  | .konst n => (s.pe s.curPe).k.getD n.toNat Val.zero
  | .zero => Val.zero
  | .side => Val.clean (Word.ofN (s.routeIn s.curTile (sideInput srcs)).sb.toNat)

/-- `ReadOp` in a block (R241). -/
def State.readBlock (s : State) (a : Src) : Val :=
  let b := s.curBlk
  match a with
  | .row n => blkRow b s.cur.idx n
  | .h k => blkH s.curTask b s.cur.idx k
  | .konst n => b.k.getD n.toNat Val.zero
  | .latch => blkLatch s.curTask b (s.cur.idx - 1)
  | .west => blkLatch s.curTask b (s.cur.idx - 2)
  | .north => blkLatch s.curTask b (s.cur.idx - 4)
  | .east => blkLatch s.curTask b (s.cur.idx - 8)
  | .south => blkLatch s.curTask b (s.cur.idx - 16)
  | .route _ => Val.zero
  | .zero => Val.zero
  | .side => Val.zero

/-- The operands of an instruction: read at firing, carried along afterwards. -/
def State.operands (s : State) (m : Form) (srcs : List Src) : List Val :=
  match s.cur.phase with
  | .fire => match m with
    | .timed => srcs.map (s.readTimed srcs)
    | .block => srcs.map s.readBlock
  | _ => s.cur.ops

/-- A predicate's value and poison as an operand (R83, R84). -/
def State.readPred (s : State) (m : Form) (p : Nat) : Bool × Bool :=
  if p = 0 then (true, false)
  else match m with
    | .timed => ((s.pe s.curPe).pred.getLsbD p, (s.pe s.curPe).ppois.getLsbD p)
    | .block => blkPred s.curBlk s.cur.idx p

/-- `Pred()` (R43) and the poison it lends to the results (R84). -/
def State.fires (s : State) (h : Hd) : Bool × Bool :=
  if h.ps = 0 then (true, false)
  else
    let p := s.readPred h.place.form h.ps.toNat
    (p.1 != h.pn, p.2)

/-- `Rm()`: the configuration's mode in a timed region, RNE in a block (R82). -/
def State.rmOf (s : State) (m : Form) : Rm :=
  match m with
  | .timed => s.curRegion.rm
  | .block => .rne

/-! ### Writing a result -/

/-- What an instruction writes at its completion point (R42). -/
structure ResW where
  dsts : List (Dst × Val) := []
  latch : Option Val := none
  side : Byte := 0
  preds : List (Nat × Bool × Bool) := []
  allPreds : Option (BitVec 8 × BitVec 8) := none
  /-- Of `allPreds` a timed region writes the values alone (`false`) or the poison alone (`true`) (R84, R85). -/
  half : Option Bool := none
  flags : Flags := 0
  clear : Flags := 0
deriving DecidableEq, Repr

/-- The usual result: one destination and the latch (R42). -/
def ResW.one (d : Dst) (v : Val) (f : Flags) : ResW := { dsts := [(d, v)], latch := some v, flags := f }

/-- A destination of a timed region as a write: `l` and `z` write the latch only. -/
def dstWr (side : Byte) (d : Dst) (v : Val) : Option Wr :=
  match d with
  | .row n => some (.row n.toNat v)
  | .route n => some (.out n.toNat { v := v, sb := side })
  | .h _ => none
  | .latch => none
  | .zero => none

/-- The writes of a result in a timed region, the latch and predicates last. -/
def ResW.writes (r : ResW) : List Wr :=
  r.dsts.filterMap (fun p => dstWr r.side p.1 p.2)
    ++ (match r.latch with
      | some v => [Wr.latch v]
      | none => [])
    ++ r.preds.map (fun p => Wr.pred p.1 p.2.1 p.2.2)
    ++ (match r.allPreds, r.half with
      | some p, none => [Wr.preds p.1 p.2]
      | some p, some false => [Wr.predVals p.1]
      | some p, some true => [Wr.predPois p.2]
      | none, _ => [])
    ++ (if r.clear = 0 then [] else [Wr.pflagClear r.clear])
    ++ (if r.flags = 0 then [] else [Wr.flags r.flags])

/-- The region cycle in which the instruction fired. -/
def State.firedAt (s : State) : Nat :=
  match s.cur.phase with
  | .fire => s.curRegion.t
  | _ => s.cur.fired

/-- Results of the issuing PE added to those in flight of its region, due at the end of region cycle `due`. -/
def State.addPend (s : State) (due : Nat) (fixed ext arrived : Bool) (ws : List Wr) : State :=
  let mk (w : Wr) : Pend :=
    { due := due, tile := s.curTile, pe := s.cur.pe, wr := w, fixed := fixed, ext := ext, arrived := arrived, tag := s.cur.tag,
      fired := s.firedAt }
  s.setCurRegion { s.curRegion with pend := s.curRegion.pend ++ ws.map mk }

/-- The results of an instruction of a block, read from device cycle `at_` on. -/
def blkPut (b : Blk) (idx at_ : Nat) (r : ResW) : Blk :=
  let res1 := ((List.range r.dsts.length).zip r.dsts).foldl
    (fun t p => tabPut t (16 * idx + p.1) { dst := some p.2.1, v := p.2.2, latch := none, from_ := at_ }) b.res
  let res2 := tabPut res1 (16 * idx + 15) { dst := none, v := Val.zero, latch := r.latch, from_ := at_ }
  let ps := r.preds.filter (fun p => p.1 != 0) ++ (match r.allPreds with
    | some q => (List.range 7).map fun i => (i + 1, q.1.getLsbD (i + 1), q.2.getLsbD (i + 1))
    | none => [])
  let f := tabGet (0, 0) b.flags idx
  { b with res := res2, flags := if r.clear = 0 ∧ r.flags = 0 then b.flags else tabPut b.flags idx (f.1 ||| r.clear, f.2 ||| r.flags)
           preds := ps.foldl (fun t p => tabPut t (8 * idx + p.1) (p.2.1, p.2.2, at_)) b.preds }

/-- The h registers of the issuing task set to what a read after the block's last instruction returns (R246), for the
destinations `ds`. -/
def State.writeH (s : State) (ds : List Dst) : State :=
  let t := s.curTask
  match t.blk with
  | none => s
  | some b =>
    let h' := ds.foldl (fun hs d => match d with
      | .h k => hs.set k.toNat (blkH t b (b.words.length + 1) k)
      | _ => hs) t.h
    s.setTask s.cur.task { t with h := h' }

/-- A result of the given latency, counted from the firing (R64): `fixed` where the class fixes it (R454). What a commit
delivers is a result of its instruction too, and reaches h once the commit has written the h registers. -/
def State.complete (s : State) (m : Form) (lat : Nat) (fixed : Bool) (r : ResW) : State :=
  match m with
  | .timed => s.addPend (s.firedAt + lat - 1) fixed false true r.writes
  | .block =>
    let s' := s.modBlk fun b => blkPut b s.cur.idx (s.cycle + lat) r
    if s.curTask.hdone then s'.writeH (r.dsts.map Prod.fst) else s'

/-- The place of an external result of `n` destinations that is still on its way (R66), due `lat` cycles from firing. In a block
the instruction counts as out, once for each destination, until the reply comes. -/
def State.expect (s : State) (m : Form) (lat n : Nat) : State :=
  match m with
  | .timed =>
    if n = 0 then s else s.addPend (s.firedAt + lat - 1) false true false [.waiting n]
  | .block => s.modBlk fun b => { b with out := b.out ++ List.replicate (if n = 0 then 1 else n) s.cur.idx }

/-- The reply with an external result, which reaches its compute tile in cycle `at_` (R66). -/
def State.answerAt (s : State) (at_ : Nat) (m : Form) (r : ResW) (extra : List Wr := []) : State :=
  { s with replies := s.replies ++ [{ at_ := at_, tile := s.curTile, who := s.cur, form := m, wrs := r.writes ++ extra, dsts := r.dsts,
                                      latch := r.latch }] }

/-- The reply sent on its way; the time it takes is free (log entry 5). -/
def State.answerWith (s : State) (m : Form) (r : ResW) (extra : List Wr) : State :=
  { s with free := s.free + 1 }.answerAt (s.cycle + 1 + Config.freeDelay s.free) m r extra

def State.answer (s : State) (m : Form) (r : ResW) : State := s.answerWith m r []

end Sys2Proof.Machine
end

