-- ==== Sys2Proof/Machine/Ops.lean ====
section
/-! DEFINITION. The shared operations of every meaning: taking a fault, ending a task, the firing of an instruction with its
predicate, checks and waits, the effects held for a commit, and the requests that leave the PE (R53, R121, R243 to R249, R405
to R408). There is no return from an exception: a fault ends the object it strikes (R406), and no instruction resumes one. -/

namespace Sys2Proof.Machine

/-- What a meaning answers. -/
abbrev Out := Host.Outcome State Fault Refusal

/-! ### Codes (R405) -/

def ftOpc : Nat := 0x01
def ftPriv : Nat := 0x02
def ftAddr : Nat := 0x03
def ftAlign : Nat := 0x04
def ftPage : Nat := 0x05
def ftPoison : Nat := 0x06
def ftTime : Nat := 0x07
def ftOverrun : Nat := 0x08
def ftVersion : Nat := 0x09
def ftBar : Nat := 0x0A
def ftCheck : Nat := 0x0B
def ftLink : Nat := 0x0C
def ftLeave : Nat := 0x0D
def ftGroup : Nat := 0x0E
def ecfgOpc : Nat := 0x20
def ecfgField : Nat := 0x21
def ecfgPort : Nat := 0x22
def ecfgRoute : Nat := 0x23
def ecfgShape : Nat := 0x24
def ecfgCheck : Nat := 0x25
def ecfgVer : Nat := 0x26
def qerrType : Nat := 0x31
def qerrPublish : Nat := 0x32
def qerrStall : Nat := 0x33
def qerrPacket : Nat := 0x34
def qerrVer : Nat := 0x35

/-! ### Events and the agenda -/

/-- A CSR of which the package holds one: it is kept with die 0's (log entry 13). -/
def State.pkgCsr (s : State) (num : Nat) : Word := s.dcsrAt 0 num

def State.setPkgCsr (s : State) (num : Nat) (v : Word) : State := s.setDcsr 0 num v

/-- Records that the host event ring holds and may hold (R330). -/
def State.ringRoom (s : State) : Bool :=
  let log := (s.pkgCsr 0x8900).bits 0 4
  let idx := s.pkgCsr 0x8908
  decide (4 ≤ log) && decide ((idx.bits 32 32 + 2 ^ 32 - idx.bits 0 32) % 2 ^ 32 < 2 ^ log)

/-- The 32 bytes of a record. -/
def EventRec.bytes (e : EventRec) : List Byte :=
  bytesOfNat 8 (e.kind + 2 ^ 8 * e.code + 2 ^ 16 * e.queue + 2 ^ 32 * e.ctx + 2 ^ 40 * e.die) ++ bytesOfWord e.tag
    ++ bytesOfWord e.data0 ++ bytesOfWord e.data1

/-- One record written to the ring, and WIDX advanced. -/
def State.writeEvent (s : State) (e : EventRec) : State :=
  let base := (s.pkgCsr 0x8900).bits 12 28 * 4096
  let idx := s.pkgCsr 0x8908
  let slot := idx.bits 32 32 % 2 ^ (s.pkgCsr 0x8900).bits 0 4
  (s.dStore (base + 32 * slot) e.bytes false).setPkgCsr 0x8908 (Word.ofN ((idx.bits 32 32 + 1) * 2 ^ 32 + idx.bits 0 32))

/-- The events held at their sources written while the ring has room, and then a COALESCED record where COMPLETE events were
counted (R331). -/
def State.flushEvents (s : State) : State :=
  let s1 := s.hostRing.foldl (fun s e => if s.ringRoom && s.hostRing.isEmpty then s.writeEvent e
    else { s with hostRing := s.hostRing ++ [e] }) { s with hostRing := [] }
  let n := (s1.pkgCsr 0x8910).bits 0 32
  if n ≠ 0 ∧ s1.ringRoom ∧ s1.hostRing.isEmpty then
    (s1.writeEvent { kind := 9, code := 0, queue := 0xFFFF, ctx := 0, die := 0, tag := 0, data0 := Word.ofN n, data1 := 0 }).setPkgCsr
      0x8910 0
  else s1

/-- An event sent to the host event ring (R330, R331): a COMPLETE event that finds no room is counted, any other waits. A ring of
LOG below 4 takes none (log entry 25). -/
def State.sendEvent (s : State) (e : EventRec) : State :=
  if (s.pkgCsr 0x8900).bits 0 4 < 4 then s
  else if e.kind = 1 ∧ (!s.ringRoom ∨ !s.hostRing.isEmpty) then
    let n := (s.pkgCsr 0x8910).bits 0 32
    s.setPkgCsr 0x8910 (Word.ofN (if n < 2 ^ 32 - 1 then n + 1 else n))
  else { s with hostRing := s.hostRing ++ [e] }.flushEvents

/-- An event of no queue and no packet. -/
def State.hostEvent (s : State) (kind ctx code : Nat) (d0 d1 : Word) (die : Nat := 0) : State :=
  s.sendEvent { kind := kind, code := code, queue := 0xFFFF, ctx := ctx, die := die, tag := 0, data0 := d0, data1 := d1 }

/-- A fault reported to the Umber core (R408). -/
def State.umberEvent (s : State) (kind ctx code : Nat) (d0 d1 : Word) (die : Nat := 0) : State :=
  { s with umber := s.umber ++
    [{ kind := kind, code := code, queue := 0xFFFF, ctx := ctx, die := die, tag := 0, data0 := d0, data1 := d1 }] }

/-- KIND of a FAULT record (R330). -/
def evFault : Nat := 3

/-- An act to be done before anything else. -/
def State.soon (s : State) (a : Act) : State := { s with agenda := a :: s.agenda }

/-- An act to be done after what is already to be done in this cycle. -/
def State.later (s : State) (a : Act) : State := { s with agenda := s.agenda ++ [a] }

/-! ### Task frames (R249) -/

/-- The 32 bytes of the frame's k-th block of four words, and whether one of them is poisoned. -/
def frameWords (vs : List Val) : List Byte × Bool := ((vs.map fun v => bytesOfWord v.v).flatten, vs.any (fun v => v.p))

/-- The frame written as the task leaves an executor: ADDR and H0 to H7 when it has not ended, or ends with its resumption state
(`res`), and EXITV and TSTAT when it ends. -/
def State.writeFrame (s : State) (k : Nat) (addr : Nat) (res : Bool) (endw : Option (Val × Word)) : Except XFail State := do
  let t := s.task k
  let die := match t.tile with
    | some x => tileDie x
    | none => t.die
  let hv (i : Nat) : Val := t.h.getD i Val.zero
  let put (s : State) (off : Nat) (vs : List Val) : Except XFail State :=
    let w := frameWords vs
    s.vStore die 1 t.ctx (t.frame + off) w.1 w.2
  let s3 ← if res then do
      let s1 ← put s 0 [Val.clean (Word.ofN addr), hv 0, hv 1, hv 2]
      let s2 ← put s1 32 [hv 3, hv 4, hv 5, hv 6]
      put s2 64 [hv 7]
    else .ok s
  match endw with
  | none => .ok s3
  | some (v, st) => do
    let s4 ← put s3 72 [v]
    put s4 80 [Val.clean st]

/-- TSTAT (R249): the state, the code and the blocks committed, saturating. -/
def tstatWord (state code committed : Nat) : Word :=
  Word.ofN (state * 2 ^ 60 + code * 2 ^ 52 + (if committed < 2 ^ 52 then committed else 2 ^ 52 - 1))

/-- The state number of an ended task (R249). -/
def TaskSt.number : TaskSt → Nat
  | .done => 5
  | .cancelled => 6
  | .aborted => 7
  | _ => 0

/-- The poison and data of EXITV as the frame holds it; `exit` gives a new one. -/
def State.oldExit (s : State) (t : Task) : Val :=
  match (s.vLoad t.die 1 t.ctx (t.frame + 72) 8).1 with
  | .ok v => v
  | .error _ => Val.zero

/-- The next D sequence number of a compute tile, with the counter advanced by `n` (R151). -/
def State.nextD (s : State) (tile n : Nat) : Nat × State :=
  let q := tabGet 0 s.dseq tile
  (q, { s with dseq := tabPut s.dseq tile (q + n) })

/-- A block dropped (R248): ring slots it holds are released, its own queues emptied, its loads in flight forgotten. -/
def State.dropBlock (s : State) (k : Nat) : State :=
  let t := s.task k
  match t.blk with
  | none => s
  | some b =>
    let rel (s : State) (hd : Nat × Nat × Nat) : State :=
      let m := s.tile hd.1
      let r := tabGet Ring.init m.rings hd.2.1
      s.setTile hd.1 { m with rings := tabPut m.rings hd.2.1 { r with holder := none, held := 0 } }
    let s1 := b.held.foldl rel s
    let dq (d : Tab Dq) (q : Nat) : Tab Dq := tabDel d (4 * (4096 + k) + q)
    { s1.setTask k { s1.task k with blk := none } with
        dqs := [0, 1, 2, 3].foldl dq s1.dqs
        reqs := s1.reqs.filter fun r => r.who.task != k || r.store
        replies := s1.replies.filter fun r => r.who.task != k }

/-- STATE values of R230 that are terminal. -/
def stDone : Nat := 5
def stCancelled : Nat := 6
def stAborted : Nat := 7
def stUnknown : Nat := 8

/-- The CST value of a completion state (R251): DONE 3, ABORTED 4, CANCELLED 5; and back. -/
def cstOf (st : Nat) : Nat := if st = stDone then 3 else if st = stAborted then 4 else 5

def ofCst (cst : Nat) : Nat := if cst = 3 then stDone else if cst = 4 then stAborted else stCancelled

/-- The work of a posted card has ended, a task's by task `k`; the front end finishes the card (R254) at the end of the cycle, after
its cancels and teardowns (R258). A sibling of a group settles at once. -/
def State.cardEnd (s : State) (n : Option Nat) (st code : Nat) (k : Option Nat := none) : State :=
  match n with
  | none => s
  | some n => match tabFind s.cards n with
    | none => s
    | some c =>
      let s1 := { s with cards := tabPut s.cards n { c with ended := some (cstOf st, code), task := k } }
      let a := Act.event (.cardFinish c.ctx (Word.ofN c.va))
      if c.sib.isSome then s1.soon a else s1.later a

/-- The work of a posted card begins: CST is RUNNING (R251, log entry 92). A write that fails ends the card ABORTED with `FT_PAGE`
(R456). -/
def State.cardRuns (s : State) (n : Option Nat) : State :=
  match n with
  | none => s
  | some n => match tabFind s.cards n with
    | none => s
    | some c =>
      if c.sib.isSome ∨ c.ended.isSome then s
      else match s.vStore c.die 2 c.ctx (c.va + 2) (bytesOfNat 1 2) false with
        | .ok s1 => s1
        | .error _ => s.cardEnd (some n) stAborted ftPage

/-- The end of a task (R249, R250, R254): its frame written, the executor freed, the card left to finish. The frame of a task that no
executor has taken holds its ADDR and h registers already. A frame that cannot be written ends the task ABORTED with `FT_PAGE` (R249,
R307). -/
def State.endTask (s : State) (k : Nat) (st : TaskSt) (code addr : Nat) (exitv : Option Val) : State :=
  let t := s.task k
  let ev := exitv.getD (s.oldExit t)
  let s1 := match s.writeFrame k addr (st != .done && t.taken) (some (ev, tstatWord st.number code t.committed)) with
    | .ok s' => (s', st, code)
    | .error _ => (s.hostEvent evFault t.ctx ftPage (Word.ofN t.frame) (Word.ofN t.frame) t.die, TaskSt.aborted, ftPage)
  ({ s1.1 with tasks := tabDel s1.1.tasks k }).cardEnd (some t.card) s1.2.1.number s1.2.2 (some k)

/-! ### Taking a fault (R406 to R408) -/

/-- The rank of a fault in its region's cycle: the lowest y, then x, then PE, then code comes first (R407). -/
def faultRank (x y pe code : Nat) : Nat := ((y * 32 + x) * 16 + pe) * 256 + code

/-- A task ends ABORTED (R248, R250, R408): its block is discarded, a FAULT record goes to the host, and its frame holds the
block's own address and the h registers it was mapped with. -/
def State.faultTask (s : State) (k code : Nat) (data1 : Word) : State :=
  let t := s.task k
  let die := match t.tile with
    | some x => tileDie x
    | none => t.die
  ((s.dropBlock k).hostEvent evFault t.ctx code (Word.ofN t.frame) data1 die).endTask k .aborted code t.addr none

/-- Node and loop index of the timed entry being executed (R408, R415); 0 where the image has no node map. -/
def State.nodeTag (s : State) : Word :=
  let r := s.curRegion
  let p := s.pe s.curPe
  let pd := if r.period = 0 then 1 else r.period
  match p.list.findIdx? (fun w => w.bits 52 12 == s.firedAt % pd) with
  | some j => match p.tags[j]? with
    | some w => Word.ofN (w.bits 32 32 * 2 ^ 32 + (w.bits 0 32 + (s.firedAt / pd - (p.list.getD j 0).bits 5 3)) % 2 ^ 32)
    | none => 0
  | none => 0

/-- A fault of code `code` taken by the instruction being executed; `data1` replaces the detail of R408.
In a timed region it is noted against the cycle, and the region's launch ends with the first-ranked one at the end of the cycle
(R406, R407). In a block that fires, the block is discarded, its task ends ABORTED with the frame holding the block's own
address and the h0 to h7 it was mapped with, and a FAULT record is sent. In a commit the first fault is kept, and ends the
task after the commit (R246). -/
def State.raise (s : State) (m : Form) (code : Nat) (data1 : Option Word := none) : State :=
  match m with
  | .timed =>
    let r := s.curRegion
    let tag := s.nodeTag
    s.setCurRegion { r with faults := r.faults ++
      [{ rank := faultRank s.cur.x s.cur.y s.cur.pe code, code := code, data1 := data1.getD tag }] }
  | .block =>
    let k := s.cur.task
    let t := s.task k
    match s.cur.phase with
    | .commit => s.setTask k { t with cfault := some (t.cfault.getD code) }
    | _ =>
      if t.blk.isSome then s.faultTask k code (data1.getD (Word.ofN t.addr)) else s

/-! ### Firing -/

/-- The instruction noted as fired in its block. -/
def State.markFired (s : State) (m : Form) : State :=
  match m with
  | .timed => s
  | .block => s.modBlk fun b => { b with fired := setIns b.fired s.cur.idx }

/-- A predicated-off or nulled instruction (R43, R243): nothing in a timed region; in a block it counts as fired. -/
def State.offPred (s : State) (m : Form) : State :=
  match m with
  | .timed => s
  | .block => s.modBlk fun b => { b with fired := setIns b.fired s.cur.idx, off := setIns b.off s.cur.idx }

/-- Whether the instruction is nulled by a `nul` that has fired (R263). -/
def State.isNulled (s : State) (m : Form) : Bool :=
  match m with
  | .timed => false
  | .block => s.curBlk.nulled.contains s.cur.idx

/-- The instruction held by a wait (R53, R73): its region's cycle is tried again, a block keeps it unfired, and a request stays
where it waits. -/
def State.hold (s : State) : State := { s with held := true }

/-- External results outstanding on the issuer's compute tile (R66): a result counts until it is written. -/
def State.extOut (s : State) (m : Form) : Nat :=
  match m with
  | .timed => (s.curRegion.pend.filter fun p => p.tile == s.curTile && p.ext).foldl
      (fun n p => match p.wr with
        | .waiting k => n + k
        | _ => n) 0
  | .block => s.curBlk.out.length

/-- The life of an instruction. At firing: its predicate, its operand checks, the 33rd external result (R66), its wait, then
`body`; a later phase goes straight to `body`. `body` receives the operands and the poison of the predicate. -/
def State.act (s : State) (h : Hd) (srcs : List Src) (ext : Nat) (check : State → List Val → Option Nat)
    (waits : State → List Val → Bool) (body : State → List Val → Bool → State) : State :=
  let m := h.place.form
  match s.cur.phase with
  | .fire =>
    if s.isNulled m then s.offPred m
    else
      let f := s.fires h
      if !f.1 then s.offPred m
      else
        let ops := s.operands m srcs
        match check s ops with
        | some c => s.raise m c
        | none =>
          if ext ≠ 0 ∧ 32 < s.extOut m + ext then
            (match m with
              | .timed => s.raise m ftTime
              | .block => { s with held := true })
          else if waits s ops then s.hold
          else body (s.markFired m) ops f.2
  | _ => body s s.cur.ops s.cur.pois

/-- An instruction without checks or waits whose result is a function of its operands: the outline of R53. -/
def State.compute (s : State) (h : Hd) (srcs : List Src) (lat : Nat) (f : State → List Val → Bool → ResW) : State :=
  s.act h srcs 0 (fun _ _ => none) (fun _ _ => false) fun s ops pp => s.complete h.place.form lat true (f s ops pp)

/-- Poison of a result under the outline of R53: of the operands read and of the predicate (R84). -/
def anyPois (ops : List Val) (pp : Bool) : Bool := pp || ops.any (fun v => v.p)

/-- The k-th operand. -/
def opn (ops : List Val) (k : Nat) : Val := ops.getD k Val.zero

/-! ### Effects that leave the PE -/

/-- The issuer as it stands for a later phase: the operands and the predicate's poison kept, the region cycle of firing noted. -/
def State.carry (s : State) (ph : Phase) (ops : List Val) (pp : Bool) (dist : Nat) : Issuer :=
  { s.cur with phase := ph, ops := ops, pois := pp, fired := s.firedAt, dist := dist }

/-- Whether two issuers are one agent (R157): one task, or one region. -/
def Issuer.sameAgent (a b : Issuer) : Bool :=
  a.task == b.task && (a.task != 0 || (a.ctx == b.ctx && a.handle == b.handle))

/-- Whether `a` was issued before `b` by the same agent. What a block has issued precedes what its commit performs. -/
def Issuer.earlier (a b : Issuer) : Bool :=
  a.sameAgent b && (b.task != 0 || decide (a.fired < b.fired) || (a.fired == b.fired && decide (a.tag < b.tag)))

/-- Accesses of a region to its own page that precede an operation and are not yet performed. One that is performed in a region cycle
which the region reaches only with the operation's own result does not count (log entry 67). -/
def Region.accOut (r : Region) (who : Issuer) (k : Acc → Bool) : Bool :=
  let due := (r.pend.find? fun p => p.ext && !p.arrived && p.tag == who.tag && who.tag != 0).map Pend.due
  r.acc.any fun a => a.who.earlier who && k a && (match due with
    | none => true
    | some d => decide (a.at_ < d))

/-- Whether earlier requests of an agent are not yet performed. -/
def State.reqsOut (s : State) (who : Issuer) : Bool :=
  s.reqs.any (fun r => r.who.earlier who) || s.cinvs.any fun c => c.who.earlier who

/-- Whether earlier operations of an agent are not yet performed: what its releases wait for (R160). -/
def State.opsOut (s : State) (who : Issuer) : Bool :=
  s.reqsOut who || (who.task == 0 && (s.regionOn who.ctx who.handle who.die).accOut who fun _ => true)

/-- Whether a request is a timed lane's to a channel of its own die (R156). -/
def State.nearLane (s : State) (place : ReqAt) (who : Issuer) : Bool :=
  match place with
  | .chan t c => who.task == 0 && tileDie t == c / 16 && (s.regionOn who.ctx who.handle who.die).lane.isSome
  | _ => false

/-- A request put on its way to `place`, where it arrives in cycle `at0`, but not before an earlier request of its agent to the same
place (R121, R149, R151). -/
def State.requestAt (s : State) (at0 : Nat) (place : ReqAt) (who : Issuer) (i : Instr) (store : Bool) (seq reg : Nat := 0) : State :=
  let at1 := s.reqs.foldl (fun a r => if r.place = place ∧ r.who.sameAgent who ∧ a < r.at_ then r.at_ else a) at0
  { s with reqs := s.reqs ++ [{ at_ := at1, place := place, who := who, i := i, store := store, seq := seq, born := s.cycle, reg := reg }] }

/-- A request that arrives at a free time after the present cycle (log entry 5), a timed lane's at a channel of its die within 120 ns
(R156). -/
def State.request (s : State) (place : ReqAt) (who : Issuer) (i : Instr) (store : Bool) (seq reg : Nat := 0) : State :=
  let d := Config.freeDelay s.free
  { s with free := s.free + 1 }.requestAt (s.cycle + 1 + (if s.nearLane place who then d % 119 else d)) place who i store seq reg

/-- The key of a store-class instruction in its block's commit: its LSID (R246). -/
def lsidOf (h : Hd) : Nat :=
  match h.place with
  | .timed _ _ => 0
  | .block l => l.toNat

/-- A record kept in key order. -/
def insDeferred : List Deferred → Deferred → List Deferred
  | [], d => [d]
  | e :: r, d => if d.key < e.key then d :: e :: r else e :: insDeferred r d

/-- A store-class instruction of a block, held for the commit in LSID order (R246). -/
def State.deferStore (s : State) (h : Hd) (i : Instr) (ops : List Val) (pp : Bool) : State :=
  s.modBlk fun b => { b with stores := insDeferred b.stores { key := lsidOf h, who := s.carry .commit ops pp 0, i := i } }

/-- A send of a block, held for the commit in index order (R246). -/
def State.deferSend (s : State) (i : Instr) (ops : List Val) (pp : Bool) : State :=
  s.modBlk fun b => { b with sends := insDeferred b.sends { key := s.cur.idx, who := s.carry .commit ops pp 0, i := i } }

/-- The issuer with a tag of its own for the reply that it expects. -/
def State.tagged (s : State) : State := { s with cur := { s.cur with tag := s.free + 1 }, free := s.free + 1 }

/-- An instruction that sends something to another agent (R244): in a timed region it is performed at firing once `waits` is
over, or, when it is a release, once the region's earlier effects are performed too (R160), and `after` cycles later at the earliest;
in a block it is performed by the commit, which holds until `waits` is over. -/
def State.sendF (s : State) (i : Instr) (h : Hd) (srcs : List Src) (ext : Nat) (release : Bool)
    (check : State → List Val → Option Nat) (waits : State → List Val → Bool)
    (perform : State → List Val → Bool → State) (lat : State → List Val → Nat) (after : Nat := 0) : State :=
  let m := h.place.form
  s.act h srcs (match m with
      | .timed => ext
      | .block => 0) check (fun s ops => m == .timed && waits s ops) fun s ops pp =>
    match m, s.cur.phase with
    | .timed, .fire =>
      let s2 := s.tagged.expect .timed (lat s ops) ext
      if after ≠ 0 then s2.requestAt (s.cycle + after) (.unit 0) (s2.carry .perform ops pp 0) i true
      else if release && s2.opsOut s2.cur then s2.request (.unit 0) (s2.carry .perform ops pp 0) i true
      else perform { s2 with cur := s2.carry .perform ops pp 0 } ops pp
    | .block, .fire => s.deferSend i ops pp
    | _, _ => if waits s ops || (release && s.opsOut s.cur) then s.hold else perform s ops pp

/-- A send of one latency. -/
def State.send (s : State) (i : Instr) (h : Hd) (srcs : List Src) (ext : Nat) (release : Bool)
    (check : State → List Val → Option Nat) (waits : State → List Val → Bool)
    (perform : State → List Val → Bool → State) (lat : Nat) : State :=
  s.sendF i h srcs ext release check waits perform fun _ _ => lat

/-- The result of a send: a reply in a timed region, the commit's own in a block. -/
def State.sendResult (s : State) (m : Form) (r : ResW) : State :=
  match m with
  | .timed => s.answer .timed r
  | .block => s.complete .block 0 false r

/-- An instruction that is performed when it fires in either form and whose result is external (R66, R244): a query, a wait. -/
def State.queryF (s : State) (h : Hd) (srcs : List Src) (ext : Nat) (check : State → List Val → Option Nat)
    (waits : State → List Val → Bool) (perform : State → List Val → Bool → State) (lat : State → List Val → Nat) : State :=
  s.act h srcs ext check waits fun s ops pp =>
    let s2 := s.tagged.expect h.place.form (lat s ops) ext
    perform { s2 with cur := s2.carry .perform ops pp 0 } ops pp

def State.query (s : State) (h : Hd) (srcs : List Src) (ext : Nat) (check : State → List Val → Option Nat)
    (waits : State → List Val → Bool) (perform : State → List Val → Bool → State) (lat : Nat) : State :=
  s.queryF h srcs ext check waits perform fun _ _ => lat

/-- The result of such a query as a reply. -/
def State.queryResult (s : State) (m : Form) (d : Dst) (v : Val) : State := s.answer m (ResW.one d v 0)

end Sys2Proof.Machine
end

