-- ==== Sys2Proof/Machine/Image.lean ====
section
/-! DEFINITION. Configuration images: their layout and the loader's checks in the order of R61 (R44, R52, R59 to R61, R67, R71,
R77, R222, R415). An image is the list of its 64-bit words. -/

namespace Sys2Proof.Machine

/-! ### Header and sections (R59) -/

/-- The part of an image that a section's directory entry names. -/
def imgDir (img : List Word) (k : Nat) : Nat × Nat :=
  let w := img.getD (4 + k) 0
  (w.bits 0 32, w.bits 32 32)

def imgSection (img : List Word) (k : Nat) : List Word :=
  let e := imgDir img k
  (img.drop (e.1 / 8)).take (e.2 / 8)

def imgTotal (img : List Word) : Nat := (img.getD 2 0).bits 0 32

/-- Word `k` of an image replaced. -/
def setWord (img : List Word) (k : Nat) (w : Word) : List Word := img.take k ++ w :: img.drop (k + 1)

/-- The CRC of R59: over the image without its signature section, with the CRC field taken as 0. -/
def imgCrc (img : List Word) : Nat :=
  let e := imgDir img 7
  let w3 := img.getD 3 0
  let z := setWord img 3 (Word.ofN (w3.bits 0 32))
  crc32c (((z.take (e.1 / 8) ++ z.drop ((e.1 + e.2) / 8)).map bytesOfWord).flatten)

/-- The sections follow one another in order from the end of the header, without overlap, and end at TOTAL. Gaps between them
are let stand and a LENGTH is a multiple of 8 (log entry 96). -/
def imgOrder (img : List Word) (total : Nat) : Bool :=
  let r := (List.range 8).foldl (fun (acc : Bool × Nat) k =>
    let e := imgDir img k
    (acc.1 && e.1 % 8 == 0 && e.2 % 8 == 0 && decide (acc.2 ≤ e.1), e.1 + e.2)) (true, 0x60)
  r.1 && r.2 == total

/-- Whether an image's signature section verifies (R427); `safe` asks for a key of safety images. -/
def sigOk (img : List Word) (safe : Bool) : Bool :=
  let e := imgDir img 7
  let w := img.getD (e.1 / 8) 0
  let slot := w.bits 0 32
  let len := w.bits 32 32
  let bytes (ws : List Word) : List Byte := (ws.map bytesOfWord).flatten
  let sig := (bytes (img.drop (e.1 / 8 + 1))).take len
  let key := Config.fusedKey slot
  decide (8 ≤ e.2 ∧ 8 + len ≤ e.2 ∧ slot < 4) && key.bit 0 && (key.bit 1 || (!safe && key.bit 3))
    && decide (Config.lmsLevels sig ≤ key.bits 56 8) && Config.lmsVerifies slot (bytes (img.take (e.1 / 8))) sig

/-- Whether an image's signature section stands as its SIGNED flag says, and verifies where there is one. -/
def signOk (img : List Word) (signed : Bool) : Bool :=
  if signed then sigOk img false else (imgDir img 7).2 == 0

/-- Steps 1 and 2 of R61; the signature of a SIGNED image is verified in step 2 (log entry 95). `len` is the length that the configuration table gives. -/
def imgCheck12 (img : List Word) (len : Nat) : Option Nat :=
  let w0 := img.getD 0 0
  if w0.bits 0 32 ≠ 0x49435A51 then some ecfgCheck
  else if w0.bits 32 16 ≠ 1 ∨ w0.bits 56 8 ≠ 1 ∨ 2 < w0.bits 48 8 then some ecfgVer
  else if imgTotal img ≠ len ∨ len % 8 ≠ 0 ∨ len < 0x60 ∨ img.length ≠ len / 8 ∨ !imgOrder img (imgTotal img)
      ∨ !signOk img ((img.getD 1 0).bit 56) ∨ imgCrc img ≠ (img.getD 3 0).bits 32 32 then some ecfgCheck
  else none

/-- The shape, period and mode of an image. -/
structure ImgHead where
  shw : Nat
  shh : Nat
  period : Nat
  stages : Nat
  leave : Nat
  rm : Rm
deriving DecidableEq, Repr

def rmOfBits (n : Nat) : Rm :=
  match n with
  | 0 => .rne
  | 1 => .rtz
  | 2 => .rdn
  | _ => .rup

def imgHead (img : List Word) : ImgHead :=
  let w := img.getD 1 0
  { shw := w.bits 0 8, shh := w.bits 8 8, period := w.bits 16 16, stages := w.bits 32 8, leave := w.bits 40 4,
    rm := rmOfBits (w.bits 48 2) }

/-! ### Records (R60) -/

/-- A record's head and its words. -/
structure Rec where
  x : Nat
  y : Nat
  pe : Nat
  /-- A reserved bit of the head is set. -/
  bad : Bool
  words : List Word
deriving DecidableEq, Repr

/-- A section cut into records of `COUNT` words each, at most `fuel` of them; none where a record passes the section's end. -/
def recsOf : Nat → List Word → Option (List Rec)
  | _, [] => some []
  | 0, _ :: _ => none
  | fuel + 1, h :: r =>
    let n := h.bits 16 16
    if n = 0 ∨ r.length < n then none
    else match recsOf fuel (r.drop n) with
      | none => none
      | some rs => some ({ x := h.bits 0 5, y := h.bits 5 5, pe := h.bits 10 4, bad := h.bits 14 2 != 0 || h.bits 32 32 != 0,
                           words := r.take n } :: rs)

def recsIn (img : List Word) (k : Nat) : Option (List Rec) :=
  let ws := imgSection img k
  recsOf ws.length ws

/-- Records in ascending order of y, then x, then PE. -/
def recKey (r : Rec) : Nat := (r.y * 32 + r.x) * 16 + r.pe

/-- A tile of the shape, and a compute tile of it. -/
def inShape (h : ImgHead) (x y : Nat) : Bool := decide (x < 4 * h.shw) && decide (y < 4 * h.shh)

def computeTile (x y : Nat) : Bool := (x + y) % 2 == 0

/-- The records of the node map, where the section agrees record for record with the timed lists (R415). -/
def nodeRecs (img : List Word) : List Rec :=
  match recsIn img 5, recsIn img 0 with
  | some ts, some ls => if ts.map (fun r => (recKey r, r.words.length)) = ls.map (fun r => (recKey r, r.words.length)) then ts else []
  | _, _ => []

/-- Step 3 of R61 but for the reserved fields of the header: shape, period, stages and record heads, those of the node map
among them (R4). That records out of order, a COUNT of 0 and a set reserved bit of a head are failures of "the record heads"
is log entry 97. -/
def imgShapeOk (img : List Word) : Bool :=
  let h := imgHead img
  let peRecs (o : Option (List Rec)) (count : Rec → Bool) : Bool := match o with
    | none => false
    | some rs => keysRise (rs.map recKey) && rs.all fun r => !r.bad && computeTile r.x r.y && inShape h r.x r.y && count r
  let tileRecs (o : Option (List Rec)) : Bool := match o with
    | none => false
    | some rs => rs.all fun r => inShape h r.x r.y
  decide (1 ≤ h.shw ∧ h.shw ≤ 8 ∧ 1 ≤ h.shh ∧ h.shh ≤ 8 ∧ 1 ≤ h.period ∧ h.period ≤ 4096 ∧ 1 ≤ h.stages ∧ h.stages ≤ 8)
    && peRecs (recsIn img 0) (fun r => decide (r.words.length ≤ 256)) && peRecs (recsIn img 3) (fun r => r.words.length == 4)
    && tileRecs (recsIn img 1) && tileRecs (recsIn img 2) && (nodeRecs img).all (fun r => !r.bad)

/-- Reserved header fields (R59). -/
def imgReserved (img : List Word) : Bool :=
  let w := img.getD 1 0
  w.bits 44 4 == 0 && w.bits 50 6 == 0 && w.bits 57 7 == 0 && (img.getD 2 0).bits 32 32 == 0 && (img.getD 3 0).bits 0 32 == 0

/-! ### Step 4: the timed lists (R44, R52, R67) -/

def rejectCode : Reject → Nat
  | .undefined => ecfgOpc
  | .form => ecfgOpc
  | _ => ecfgField

def stampOf (w : Word) : Nat := w.bits 52 12

def stageBits (w : Word) : Nat := w.bits 5 3

def isDivide (w : Word) : Bool := decide (0x0A ≤ w.bits 44 8) && decide (w.bits 44 8 ≤ 0x0D)

/-- Whether two divides stand within 32 cycles of each other, counted modulo P. -/
def divClose (p a b : Nat) : Bool := decide ((b + p - a) % p < 32) || decide ((a + p - b) % p < 32)

/-- The code of the first word of a list that fails, after the words `before` (in reverse order). -/
def listError (h : ImgHead) : List Word → List Word → Option Nat
  | _, [] => none
  | before, w :: r =>
    match decodeWord .timed w with
    | .error e => some (rejectCode e)
    | .ok _ =>
      let bad := decide (h.period ≤ stampOf w) || decide (h.stages ≤ stageBits w)
        || (match before with
          | b :: _ => decide (stampOf w ≤ stampOf b)
          | [] => false)
        || (isDivide w && (decide (h.period < 32) || before.any fun b => isDivide b && divClose h.period (stampOf b) (stampOf w)))
      if bad then some ecfgField else listError h (w :: before) r

/-! ### Step 5: port plans (R71, R454) and the port map (R222) -/

/-- The latency of a result where its class and its word alone fix it (R65, R454). -/
def fixedLat (w : Word) : Option Nat :=
  let op := w.bits 44 8
  let flt := decide (7 ≤ w.bits 1 4)
  if op ≤ 0x38 then
    some (if 0x06 ≤ op ∧ op ≤ 0x09 then 3 else if 0x0A ≤ op ∧ op ≤ 0x0D then 32 else if op = 0x2E then 8 else if op = 0x2F then 3
      else 1)
  else if 0x40 ≤ op ∧ op ≤ 0x6D then
    some (if 0x4C ≤ op ∧ op ≤ 0x52 then 12
      else if [0x43, 0x44, 0x45, 0x53, 0x5E, 0x5F, 0x68, 0x69].contains op then 4
      else if op = 0x66 ∨ op = 0x6A then 3
      else if [0x59, 0x63, 0x64, 0x65, 0x67, 0x6B].contains op then 1
      else if op = 0x42 ∨ op = 0x57 then (if flt then 4 else 3)
      else (if flt then 4 else 1))
  else if 0x70 ≤ op ∧ op ≤ 0x77 then some 4
  else if op = 0xF2 ∧ w.bits 12 16 < 0x1000 then some 1
  else none

def planOf (tile : Nat) (w : Word) : PlanW :=
  { tile := tile, slot := w.bits 52 12, bank := w.bits 48 4, rd0 := if w.bit 47 then some (w.bits 43 4) else none,
    rd1 := if w.bit 42 then some (w.bits 38 4) else none, wr := if w.bit 37 then some (w.bits 33 4) else none }

/-- The row-file entries of a list without repeats. -/
def rowsOf (l : List Nat) : List Nat := l.foldl setIns []

def srcRows (i : Instr) : List Nat := rowsOf ((sourcesOf i).filterMap fun a => match a with
  | .row n => some n.toNat
  | _ => none)

def dstRows (i : Instr) : List Nat := rowsOf ((destsOf i).filterMap fun a => match a with
  | .row n => some n.toNat
  | _ => none)

/-- Read ports of a bank that PE `pe` owns in a slot, of the plans of one tile. -/
def readPorts (ps : List PlanW) (slot bank pe : Nat) : Nat :=
  ps.foldl (fun n p => if p.slot = slot ∧ p.bank = bank then
    n + (if p.rd0 = some pe then 1 else 0) + (if p.rd1 = some pe then 1 else 0) else n) 0

def ownsWrite (ps : List PlanW) (slot bank pe : Nat) : Bool :=
  ps.any fun p => p.slot == slot && p.bank == bank && p.wr == some pe

/-- Banks an entry reads, with the number of its entries there; and the (slot, bank) pairs of its fixed-latency writes. -/
def bankCount (rows : List Nat) (bank : Nat) : Nat := (rows.filter fun e => e % 16 == bank).length

def fixedWrites (period : Nat) (w : Word) (i : Instr) : List (Nat × Nat) :=
  match fixedLat w with
  | none => []
  | some l => (dstRows i).map fun e => ((stampOf w + l - 1) % period, e % 16)

def hasDup (l : List (Nat × Nat)) : Bool :=
  match l with
  | [] => false
  | a :: r => r.contains a || hasDup r

/-- Whether a tile's plan grants what the lists of its PEs read and write, without two writes of one bank in one slot. -/
def planGrants (period : Nat) (ps : List PlanW) (lists : List Rec) : Bool :=
  let entries := (lists.map fun r => r.words.filterMap fun w => match decodeWord .timed w with
    | .ok i => some (r.pe, w, i)
    | .error _ => none).flatten
  entries.all (fun e =>
    let rows := srcRows e.2.2
    (List.range 16).all (fun b => decide (bankCount rows b ≤ readPorts ps (stampOf e.2.1) b e.1))
      && (fixedWrites period e.2.1 e.2.2).all (fun q => ownsWrite ps q.1 q.2 e.1))
    && !hasDup ((entries.map fun e => fixedWrites period e.2.1 e.2.2).flatten)

/-- Records of one tile stand together. -/
def together : List Rec → Bool
  | [] => true
  | r :: rest => ((rest.dropWhile fun q => q.x == r.x && q.y == r.y).all fun q => q.x != r.x || q.y != r.y) && together rest

/-- The port plans of an image by region-relative tile 32 · y + x; none where R71 refuses them. -/
def imgPlans (img : List Word) : Option (List PlanW) :=
  let h := imgHead img
  match recsIn img 1, recsIn img 0 with
  | some rs, some lists =>
    let ps := (rs.map fun r => r.words.map (planOf (r.y * 32 + r.x))).flatten
    let ok := rs.all (fun r => !r.bad && r.pe == 0 && computeTile r.x r.y && r.words.all fun w =>
        w.bits 0 33 == 0 && decide (stampOf w < h.period)) && together rs
      && !hasDup (ps.map fun p => (p.tile, p.slot * 16 + p.bank))
    let tiles := rowsOf (lists.map fun r => r.y * 32 + r.x)
    if ok && tiles.all (fun t => planGrants h.period (ps.filter fun p => p.tile == t)
        (lists.filter fun r => r.y * 32 + r.x == t)) then some ps else none
  | _, _ => none

def portOf (w : Word) : PortW :=
  { idx := w.bits 56 8, out := w.bit 55, edge := w.bits 53 2, x := w.bits 48 5, y := w.bits 43 5, sel := w.bits 40 3,
    tgt := w.bits 39 1, lane := w.bits 36 3 }

/-- Whether link `edge` of a tile leaves the shape: N, E, S, W (R222). -/
def edgeLeaves (h : ImgHead) (x y edge : Nat) : Bool :=
  match edge with
  | 0 => y == 0
  | 1 => x == 4 * h.shw - 1
  | 2 => y == 4 * h.shh - 1
  | _ => x == 0

/-- The port map of an image; none where R222 refuses it. -/
def imgPorts (img : List Word) : Option (List PortW) :=
  let h := imgHead img
  match imgSection img 4 with
  | [] => some []
  | hd :: ws =>
    let ps := ws.map portOf
    let headOk := hd.bits 0 16 == 0 && hd.bits 32 32 == 0 && hd.bits 16 16 == ws.length && decide (1 ≤ ws.length ∧ ws.length ≤ 256)
    let ok := ws.all (fun w => w.bits 0 36 == 0) && ps.all (fun p => inShape h p.x p.y && computeTile p.x p.y
        && edgeLeaves h p.x p.y p.edge && (p.tgt == 1 || p.lane == 0))
      && !hasDup (ps.map fun p => (p.idx, 0)) && !hasDup (ps.map fun p => (p.y * 32 + p.x, p.edge))
    if headOk && ok then some ps else none

/-! ### Step 6: routes (R77) -/

def routeOf (tile : Nat) (w : Word) : RouteW :=
  { tile := tile, slot := w.bits 60 4, out := w.bits 56 4, src := w.bits 52 4, len := w.bits 48 4 + 1 }

def switchPort (n : Nat) : Bool := decide (n < 4) || decide (8 ≤ n)

/-- Whether a source of PE `pe` of tile (x, y) is a neighbour's latch in a tile outside the shape (R72). -/
def latchLeaves (h : ImgHead) (x y pe : Nat) (a : Src) : Bool :=
  match a with
  | .west => pe == 0 && decide (x < 2)
  | .east => pe == 15 && decide (4 * h.shw ≤ x + 2)
  | .north => decide (y < 2)
  | .south => decide (4 * h.shh ≤ y + 2)
  | _ => false

/-- Whether no timed entry names a latch outside the shape. -/
def imgLatches (img : List Word) : Bool :=
  let h := imgHead img
  ((recsIn img 0).getD []).all fun r => r.words.all fun w => match decodeWord .timed w with
    | .ok i => !(sourcesOf i).any (latchLeaves h r.x r.y r.pe)
    | .error _ => true

/-- The routes of an image by region-relative tile; none where R77 refuses them. A second record of a tile is refused like two
words of one SLOT and OUT (log entry 98). -/
def imgRoutes (img : List Word) : Option (List RouteW) :=
  let h := imgHead img
  let ports := (imgPorts img).getD []
  match recsIn img 2 with
  | none => none
  | some rs =>
    let leaves (r : Rec) (n : Nat) : Bool := decide (n < 4) && edgeLeaves h r.x r.y n
      && !ports.any fun p => p.x == r.x && p.y == r.y && p.edge == n
    let wordOk (r : Rec) (w : Word) : Bool :=
      let q := routeOf 0 w
      w.bits 0 48 == 0 && switchPort q.out && switchPort q.src && decide (q.slot < q.len) && h.period % q.len == 0
        && !leaves r q.out && !leaves r q.src
    let recOk (r : Rec) : Bool := !r.bad && r.pe == 0 && r.words.all (wordOk r)
      && !hasDup (r.words.map fun w => (w.bits 60 4, w.bits 56 4))
      && (match r.words with
        | w :: ws => ws.all fun v => v.bits 48 4 == w.bits 48 4
        | [] => true)
    if rs.all recOk && !hasDup (rs.map fun r => (r.x, r.y)) then some (rs.map fun r => r.words.map (routeOf (r.y * 32 + r.x))).flatten else none

/-! ### The whole check -/

/-- The first failure of R61's six steps. Within step 3 the header's reserved fields come last (log entry 95). -/
def imgError (img : List Word) (len : Nat) : Option Nat :=
  match imgCheck12 img len with
  | some c => some c
  | none =>
    let h := imgHead img
    if !imgShapeOk img then some ecfgShape
    else if !imgReserved img then some ecfgField
    else match ((recsIn img 0).getD []).findSome? fun r => listError h [] r.words with
      | some c => some c
      | none =>
        if (imgPlans img).isNone ∨ (imgPorts img).isNone then some ecfgPort
        else if (imgRoutes img).isNone ∨ !imgLatches img then some ecfgRoute
        else none

end Sys2Proof.Machine
end

