-- ==== Sys2Proof/Machine/Paging.lean ====
section
/-! DEFINITION. Translation faults: the pager's fault records and the tasks that wait on them (R154, R307, R308). -/

namespace Sys2Proof.Machine

/-- The record of number `k` of a die in device memory. -/
def State.recAt (s : State) (die k : Nat) : Nat := (s.dcsrAt die 0x8860).bits 15 25 * 2 ^ 15 + 32 * k

/-- The bytes of a record as it is opened. -/
def PageMiss.bytes (m : PageMiss) : List Byte :=
  bytesOfNat 8 0 ++ bytesOfNat 8 m.va ++ bytesOfNat 8 (m.ctx + 2 ^ 8 * m.kind + 2 ^ 16 * m.reason + 2 ^ 24 * m.src + 2 ^ 32)
    ++ bytesOfNat 8 0

/-- A fault joins the open record of its context and 64 KiB page, or opens the lowest free one with an event to the host, or
waits for one to free (R308). -/
def State.miss (s : State) (m : PageMiss) : State :=
  let die := m.src % 4
  match s.frecs.find? fun p => p.1 / 1024 == die && p.2.ctx == m.ctx && p.2.page == m.va / 2 ^ 16 with
  | some (k, r) =>
    let r1 := { r with waiters := r.waiters ++ [m.who], kind := if m.kind = 1 then 1 else r.kind }
    let a := s.recAt die (k % 1024)
    let s1 := { s with frecs := tabPut s.frecs k r1 }
    (s1.dStore (a + 0x11) (bytesOfNat 1 r1.kind) false).dStore (a + 0x14) (bytesOfNat 4 r1.waiters.length) false
  | none =>
    let used := (s.frecs.filter fun p => p.1 / 1024 == die).map fun p => p.1 % 1024
    let k := leastFree used 0
    if k < 1024 then
      let s1 := { s with frecs := tabPut s.frecs (die * 1024 + k)
                          { ctx := m.ctx, page := m.va / 2 ^ 16, kind := m.kind, waiters := [m.who] } }
      (s1.dStore (s.recAt die k) m.bytes false).hostEvent 4 m.ctx 0 (Word.ofN k) (Word.ofN m.va) die
    else { s with fwait := s.fwait ++ [m] }

/-- The die of the executor of a task, or the die that dispatches it. -/
def Task.dieNow (t : Task) : Nat :=
  match t.tile with
  | some x => tileDie x
  | none => t.die

/-- A task whose block is discarded for a translation fault becomes a waiter (R154, R248, R307); with no records enabled it ends
ABORTED with `FT_PAGE` (R308). -/
def State.pageWait (s : State) (k va kind : Nat) (why : XFail) : State :=
  let t := s.task k
  let die := t.dieNow
  if !(s.dcsrAt die 0x8860).bit 0 then s.faultTask k ftPage (Word.ofN va)
  else
    let s1 := s.dropBlock k
    match s1.writeFrame k t.addr true none with
    | .error _ => s1.endTask k .aborted ftPage t.addr none
    | .ok s2 =>
      (s2.setTask k { s2.task k with st := .waiting, tile := none, blk := none, die := die }).miss
        { who := .task k, ctx := t.ctx, va := va, kind := kind, reason := why.code, src := die + 4 }

/-- Whether a timed lane may touch the `n` bytes at a virtual address: only its table's pinned ranges are its own (R275). Any other
issuer may. -/
def State.laneMay (s : State) (lane : Option (Nat × Nat)) (die va n : Nat) : Bool :=
  match lane with
  | none => true
  | some (slot, l) => s.tabs.any fun t => t.2.slot == slot && t.2.dies.contains die &&
      t.2.pins.any fun p => p.1 == l && decide (p.2.1 ≤ va) && decide (va + n ≤ p.2.1 + p.2.2)

/-- The table lane of the issuer, when it is a timed lane's region. -/
def State.issuerLane (s : State) (m : Form) : Option (Nat × Nat) :=
  match m with
  | .timed => s.curRegion.lane
  | .block => none

/-- A translation fault of an instruction (R307). -/
def State.pageFault (s : State) (m : Form) (va : Nat) (write : Bool) (why : XFail) : State :=
  match m with
  | .timed => s.raise .timed ftPage
  | .block => s.pageWait s.cur.task va (if write then 1 else 0) why

/-- The end of the posted list of a task's queue (R256): behind the last, or before the first. -/
def State.postNo (s : State) (head : Bool) : Int :=
  s.tasks.foldl (fun n p => if head then (if p.2.seqNo ≤ n then p.2.seqNo - 1 else n)
    else if n ≤ p.2.seqNo then p.2.seqNo + 1 else n) 0

/-- A task posted at the tail or the head of its priority. -/
def State.post (s : State) (k : Nat) (head : Bool) : State :=
  s.setTask k { s.task k with st := .posted, seqNo := s.postNo head, waitCard := none, waitFut := none }

end Sys2Proof.Machine
end

