-- ==== Sys2Proof/Machine/Integer.lean ====
section
/-! DEFINITION. Meanings of opcodes 0x00 to 0x38: 64-bit integers, bit fields, constants, predicates, moves and identifiers
(R79 to R100). -/

namespace Sys2Proof.Machine

/-! ### The outline of R53 for one, two and three operands -/

def res1 (d : Dst) (ops : List Val) (pp : Bool) (f : Word → Word × Flags) : ResW :=
  let r := f (opn ops 0).v
  ResW.one d { v := r.1, p := anyPois ops pp } r.2

def res2 (d : Dst) (ops : List Val) (pp : Bool) (f : Word → Word → Word × Flags) : ResW :=
  let r := f (opn ops 0).v (opn ops 1).v
  ResW.one d { v := r.1, p := anyPois ops pp } r.2

def res3 (d : Dst) (ops : List Val) (pp : Bool) (f : Word → Word → Word → Word × Flags) : ResW :=
  let r := f (opn ops 0).v (opn ops 1).v (opn ops 2).v
  ResW.one d { v := r.1, p := anyPois ops pp } r.2

/-- A computation of one, two or three operands with its latency. -/
def State.op1 (s : State) (h : Hd) (d : Dst) (a : Src) (lat : Nat) (f : Word → Word × Flags) : State :=
  s.compute h [a] lat fun _ ops pp => res1 d ops pp f

def State.op2 (s : State) (h : Hd) (d : Dst) (a b : Src) (lat : Nat) (f : Word → Word → Word × Flags) : State :=
  s.compute h [a, b] lat fun _ ops pp => res2 d ops pp f

def State.op3 (s : State) (h : Hd) (d : Dst) (a b c : Src) (lat : Nat)
    (f : Word → Word → Word → Word × Flags) : State :=
  s.compute h [a, b, c] lat fun _ ops pp => res3 d ops pp f

/-! ### Two-operand and one-operand forms (R86) -/

/-- `nop` writes nothing and leaves the latch. -/
def execNop (h : Hd) (s : State) : Out := .next (s.compute h [] 1 fun _ _ _ => {})

def execAdd (h : Hd) (d : Dst) (a b : Src) (s : State) : Out :=
  .next (s.op2 h d a b 1 fun x y => (x + y, 0))

def execSub (h : Hd) (d : Dst) (a b : Src) (s : State) : Out :=
  .next (s.op2 h d a b 1 fun x y => (x - y, 0))

def execMul (h : Hd) (d : Dst) (a b : Src) (s : State) : Out :=
  .next (s.op2 h d a b 3 fun x y => (x * y, 0))

def execMulh (h : Hd) (d : Dst) (a b : Src) (s : State) : Out :=
  .next (s.op2 h d a b 3 fun x y => (alMulh x y, 0))

def execMulhu (h : Hd) (d : Dst) (a b : Src) (s : State) : Out :=
  .next (s.op2 h d a b 3 fun x y => (alMulhu x y, 0))

def execMin (h : Hd) (d : Dst) (a b : Src) (s : State) : Out :=
  .next (s.op2 h d a b 1 fun x y => (alMin x y, 0))

def execMax (h : Hd) (d : Dst) (a b : Src) (s : State) : Out :=
  .next (s.op2 h d a b 1 fun x y => (alMax x y, 0))

def execMinu (h : Hd) (d : Dst) (a b : Src) (s : State) : Out :=
  .next (s.op2 h d a b 1 fun x y => (alMinu x y, 0))

def execMaxu (h : Hd) (d : Dst) (a b : Src) (s : State) : Out :=
  .next (s.op2 h d a b 1 fun x y => (alMaxu x y, 0))

/-- `abs`: OF for the most negative value, which stays itself. -/
def execAbs (h : Hd) (d : Dst) (a : Src) (s : State) : Out := .next (s.op1 h d a 1 alAbs)

def execAnd (h : Hd) (d : Dst) (a b : Src) (s : State) : Out :=
  .next (s.op2 h d a b 1 fun x y => (x &&& y, 0))

def execOr (h : Hd) (d : Dst) (a b : Src) (s : State) : Out :=
  .next (s.op2 h d a b 1 fun x y => (x ||| y, 0))

def execXor (h : Hd) (d : Dst) (a b : Src) (s : State) : Out :=
  .next (s.op2 h d a b 1 fun x y => (x ^^^ y, 0))

def execAndn (h : Hd) (d : Dst) (a b : Src) (s : State) : Out :=
  .next (s.op2 h d a b 1 fun x y => (x &&& ~~~y, 0))

def execShl (h : Hd) (d : Dst) (a b : Src) (s : State) : Out :=
  .next (s.op2 h d a b 1 fun x y => (x <<< y.bits 0 6, 0))

def execShr (h : Hd) (d : Dst) (a b : Src) (s : State) : Out :=
  .next (s.op2 h d a b 1 fun x y => (x >>> y.bits 0 6, 0))

def execSar (h : Hd) (d : Dst) (a b : Src) (s : State) : Out :=
  .next (s.op2 h d a b 1 fun x y => (x.sshiftRight (y.bits 0 6), 0))

def execRol (h : Hd) (d : Dst) (a b : Src) (s : State) : Out :=
  .next (s.op2 h d a b 1 fun x y => (x.rotateLeft (y.bits 0 6), 0))

def execClz (h : Hd) (d : Dst) (a : Src) (s : State) : Out :=
  .next (s.op1 h d a 1 fun x => (Word.ofN (clzFrom 64 x), 0))

def execCtz (h : Hd) (d : Dst) (a : Src) (s : State) : Out :=
  .next (s.op1 h d a 1 fun x => (Word.ofN (ctzFrom 64 0 x), 0))

def execPopc (h : Hd) (d : Dst) (a : Src) (s : State) : Out :=
  .next (s.op1 h d a 1 fun x => (Word.ofN (popBelow 64 x), 0))

def execBrev (h : Hd) (d : Dst) (a : Src) (s : State) : Out :=
  .next (s.op1 h d a 1 fun x => (Word.ofN (brevFrom 64 x.toNat 0), 0))

/-! ### Immediate forms (R87): `SImm` for `addi` and `andi`, `ZImm` for `ori` and `xori` -/

def simm (i : BitVec 16) : Word := i.signExtend 64

def zimm (i : BitVec 16) : Word := i.zeroExtend 64

def execAddi (h : Hd) (d : Dst) (a : Src) (imm : BitVec 16) (s : State) : Out :=
  .next (s.op1 h d a 1 fun x => (x + simm imm, 0))

def execAndi (h : Hd) (d : Dst) (a : Src) (imm : BitVec 16) (s : State) : Out :=
  .next (s.op1 h d a 1 fun x => (x &&& simm imm, 0))

def execOri (h : Hd) (d : Dst) (a : Src) (imm : BitVec 16) (s : State) : Out :=
  .next (s.op1 h d a 1 fun x => (x ||| zimm imm, 0))

def execXori (h : Hd) (d : Dst) (a : Src) (imm : BitVec 16) (s : State) : Out :=
  .next (s.op1 h d a 1 fun x => (x ^^^ zimm imm, 0))

def execShli (h : Hd) (d : Dst) (a : Src) (imm : BitVec 6) (s : State) : Out :=
  .next (s.op1 h d a 1 fun x => (x <<< imm.toNat, 0))

def execShri (h : Hd) (d : Dst) (a : Src) (imm : BitVec 6) (s : State) : Out :=
  .next (s.op1 h d a 1 fun x => (x >>> imm.toNat, 0))

def execSari (h : Hd) (d : Dst) (a : Src) (imm : BitVec 6) (s : State) : Out :=
  .next (s.op1 h d a 1 fun x => (x.sshiftRight imm.toNat, 0))

/-- R88. -/
def execMad (h : Hd) (d : Dst) (a b c : Src) (s : State) : Out :=
  .next (s.op3 h d a b c 3 fun x y z => (x * y + z, 0))

/-! ### Division (R67, R89) -/

/-- The operands of a divide kept beside its result, as a debugger reads them (R344). -/
def State.noteDiv (s : State) (m : Form) (op : Nat) (ops : List Val) : State :=
  match m with
  | .block => s
  | .timed =>
    let r := s.curRegion
    let due := s.firedAt + 31
    let mark (p : Pend) : Pend :=
      if p.fired = s.firedAt ∧ p.due = due ∧ p.tile = s.curTile ∧ p.pe = s.cur.pe then { p with div := some (op, opn ops 0, opn ops 1) } else p
    s.setCurRegion { r with pend := r.pend.map mark }

/-- A divide occupies the divider of its PE for 32 cycles; in a block a second divide of the PE waits for it (R67). -/
def State.divide (s : State) (h : Hd) (d : Dst) (a b : Src) (op : Nat) (f : Word → Word → Word × Flags) : State :=
  let m := h.place.form
  s.act h [a, b] 0 (fun _ _ => none)
    (fun s _ => m == .block && decide (s.cycle < tabGet 0 s.curBlk.divs s.cur.pe))
    fun s ops pp =>
      let s1 := if m = .block then s.modBlk fun bl => { bl with divs := tabPut bl.divs s.cur.pe (s.cycle + 32) } else s
      (s1.complete m 32 true (res2 d ops pp f)).noteDiv m op ops

def execDiv (h : Hd) (d : Dst) (a b : Src) (s : State) : Out :=
  .next (s.divide h d a b 0 fun x y => (ofInt (divS x y).1, (divS x y).2.2))

def execDivu (h : Hd) (d : Dst) (a b : Src) (s : State) : Out :=
  .next (s.divide h d a b 1 fun x y => (Word.ofN (divU x y).1, (divU x y).2.2))

def execRem (h : Hd) (d : Dst) (a b : Src) (s : State) : Out :=
  .next (s.divide h d a b 2 fun x y => (ofInt (divS x y).2.1, (divS x y).2.2))

def execRemu (h : Hd) (d : Dst) (a b : Src) (s : State) : Out :=
  .next (s.divide h d a b 3 fun x y => (Word.ofN (divU x y).2.1, (divU x y).2.2))

/-! ### Carry (R90) -/

/-- Sum or difference with the carry in p[CP], which takes the carry out; CP = 0 reads 0 and discards. -/
def carryRes (s : State) (m : Form) (d : Dst) (cp : BitVec 3) (ops : List Val) (pp : Bool)
    (f : Word → Word → Bool → Word × Bool) : ResW :=
  let cin := if cp = 0 then (false, false) else s.readPred m cp.toNat
  let r := f (opn ops 0).v (opn ops 1).v cin.1
  let p := anyPois ops pp || cin.2
  { dsts := [(d, { v := r.1, p := p })], latch := some { v := r.1, p := p },
    preds := if cp = 0 then [] else [(cp.toNat, r.2, p)] }

def execAdc (h : Hd) (d : Dst) (a b : Src) (cp : BitVec 3) (s : State) : Out :=
  .next (s.compute h [a, b] 1 fun s ops pp => carryRes s h.place.form d cp ops pp addCarry)

def execSbb (h : Hd) (d : Dst) (a b : Src) (cp : BitVec 3) (s : State) : Out :=
  .next (s.compute h [a, b] 1 fun s ops pp => carryRes s h.place.form d cp ops pp subBorrow)

/-! ### Bit fields, extension and constants (R91, R92) -/

def execBfx (h : Hd) (d : Dst) (a b : Src) (s : State) : Out :=
  .next (s.op2 h d a b 1 fun x y => (alBfx x y, 0))

def execBfi (h : Hd) (d : Dst) (a b c : Src) (s : State) : Out :=
  .next (s.op3 h d a b c 1 fun x y z => (alBfi x y z, 0))

def execSext (h : Hd) (d : Dst) (a : Src) (w : BitVec 2) (s : State) : Out :=
  .next (s.op1 h d a 1 fun x => (alSext (extWidth w) x, 0))

def execZext (h : Hd) (d : Dst) (a : Src) (w : BitVec 2) (s : State) : Out :=
  .next (s.op1 h d a 1 fun x => (alZext (extWidth w) x, 0))

def execMovh (h : Hd) (d : Dst) (imm : BitVec 16) (s : State) : Out :=
  .next (s.compute h [] 1 fun _ ops pp => ResW.one d { v := zimm imm <<< 48, p := anyPois ops pp } 0)

def execMovi (h : Hd) (d : Dst) (imm : BitVec 16) (s : State) : Out :=
  .next (s.compute h [] 1 fun _ ops pp => ResW.one d { v := simm imm, p := anyPois ops pp } 0)

def execMovk (h : Hd) (d : Dst) (a : Src) (imm : BitVec 16) (j : BitVec 2) (s : State) : Out :=
  .next (s.op1 h d a 1 fun x => (alMovk x imm j.toNat, 0))

/-! ### Saturating lanes, generator, CRC (R93 to R95) -/

def execAddsat (h : Hd) (d : Dst) (a b : Src) (ty : ITy) (s : State) : Out :=
  .next (s.op2 h d a b 1 (laneInt2 ty true (· + ·)))

def execSubsat (h : Hd) (d : Dst) (a b : Src) (ty : ITy) (s : State) : Out :=
  .next (s.op2 h d a b 1 (laneInt2 ty true (· - ·)))

def execCbrng (h : Hd) (d : Dst) (a b : Src) (s : State) : Out :=
  .next (s.op2 h d a b 8 fun x y => (Word.ofN (cbrng x.toNat y.toNat), 0))

def execCrc (h : Hd) (d : Dst) (a b : Src) (n : BitVec 2) (s : State) : Out :=
  .next (s.op2 h d a b 3 fun x y => (Word.ofN (crcBytes (2 ^ n.toNat) (x.bits 0 32) y.toNat), 0))

/-! ### Predicates (R96 to R100) -/

/-- A predicate and the latch set to a truth value. -/
def predRes (pd : BitVec 3) (c p : Bool) : ResW :=
  { latch := some { v := boolWord c, p := p }, preds := [(pd.toNat, c, p)] }

def execCmp (h : Hd) (pd : BitVec 3) (a b : Src) (cond : Cond) (s : State) : Out :=
  .next (s.compute h [a, b] 1 fun _ ops pp =>
    predRes pd (condHolds cond (opn ops 0).v (opn ops 1).v) (anyPois ops pp))

def execCmpi (h : Hd) (pd : BitVec 3) (a : Src) (imm : BitVec 16) (cond : Cond) (s : State) : Out :=
  .next (s.compute h [a] 1 fun _ ops pp =>
    predRes pd (condHolds cond (opn ops 0).v (simm imm)) (anyPois ops pp))

def execPlog (h : Hd) (pd pa pb : BitVec 3) (f : BitVec 4) (s : State) : Out :=
  .next (s.compute h [] 1 fun s _ pp =>
    let x := s.readPred h.place.form pa.toNat
    let y := s.readPred h.place.form pb.toNat
    predRes pd (f.getLsbD (2 * x.1.toNat + y.1.toNat)) (pp || x.2 || y.2))

/-- p7 to p1 and p0 = 1 as a byte, and whether any of p7 to p1 is poisoned. -/
def State.predByte (s : State) (m : Form) : Nat × Bool :=
  (List.range 7).foldl (fun acc i =>
    let p := s.readPred m (i + 1)
    (acc.1 + (if p.1 then 2 ^ (i + 1) else 0), acc.2 || p.2)) (1, false)

def execPmovGet (h : Hd) (d : Dst) (s : State) : Out :=
  .next (s.compute h [] 1 fun s _ pp =>
    let r := s.predByte h.place.form
    ResW.one d { v := Word.ofN r.1, p := pp || r.2 } 0)

def execPmovPut (h : Hd) (a : Src) (s : State) : Out :=
  .next (s.compute h [a] 1 fun _ ops pp =>
    { allPreds := some ((opn ops 0).v.extractLsb' 0 8 &&& 0xFE, if anyPois ops pp then 0xFE else 0) })

def execSel (h : Hd) (d : Dst) (a b : Src) (neg : Bool) (p : BitVec 3) (s : State) : Out :=
  .next (s.compute h [a, b] 1 fun s ops pp =>
    let q := s.readPred h.place.form p.toNat
    let v := if q.1 != neg then opn ops 0 else opn ops 1
    ResW.one d { v := v.v, p := v.p || q.2 || pp } 0)

def execPcnt (h : Hd) (d : Dst) (a b : Src) (s : State) : Out :=
  .next (s.op2 h d a b 1 fun x y => (Word.ofN (popBelow (if 64 < y.toNat then 64 else y.toNat) x), 0))

/-! ### Moves and identifiers (R79 to R81) -/

def execMov (h : Hd) (d : Dst) (a : Src) (s : State) : Out :=
  .next (s.op1 h d a 1 fun x => (x, 0))

/-- In a block every PE of the executor tile holds the constants of the task's context (R78), so the PE number plays no part. -/
def execKget (h : Hd) (d : Dst) (n : BitVec 4) (j : BitVec 2) (s : State) : Out :=
  .next (s.compute h [] 1 fun s _ pp =>
    let ks := match h.place.form with
      | .timed => (s.pe (s.curTile * 16 + n.toNat)).k
      | .block => s.curBlk.k
    let v := ks.getD j.toNat Val.zero
    ResW.one d { v := v.v, p := v.p || pp } 0)

/-- A position in the layout of `getid` 3 and 4. -/
def posWord (die x y pe : Nat) : Word := Word.ofN (die * 2 ^ 14 + x * 2 ^ 9 + y * 2 ^ 4 + pe)

/-- The identifier of R81; `stc` and device time as they stand. -/
def State.ident (s : State) (h : Hd) (id : BitVec 4) : Word :=
  let r := s.curRegion
  match id.toNat with
  | 0 => Word.ofN r.counter
  | 1 => Word.ofN (s.instanceOf h)
  | 2 => Word.ofN s.stc.toNat
  | 3 => posWord s.cur.die s.cur.x s.cur.y (if h.place.form = .block then 0 else s.cur.pe)
  | 4 => posWord 0 (s.cur.x - 4 * r.px) (s.cur.y - 4 * r.py) s.cur.pe
  | 5 => Word.ofN r.n
  | 6 => Word.ofN s.cur.ctx
  | 7 => Word.ofN (r.period * 8 + (r.stages - 1))
  | 8 => Word.ofN s.tb.time
  | _ => 0

/-- The result of `getid` is never poisoned (R81). -/
def execGetid (h : Hd) (d : Dst) (id : BitVec 4) (s : State) : Out :=
  .next (s.compute h [] 1 fun s _ _ => ResW.one d (Val.clean (s.ident h id)) 0)

end Sys2Proof.Machine
end

