-- ==== Sys2Proof/Machine/Tile.lean ====
section
/-! DEFINITION. A memory tile as the accesses of a cycle find it: the pages of regions, layout records, rings, and the ports and planes
that the accesses of a cycle take (R119, R120, R124 to R127, R133, R137, R138, R141). -/

namespace Sys2Proof.Machine

/-! ### Regions and their pages (R6, R219) -/

/-- A region that a handle names and that is neither FREE nor ENDED (R219). -/
def Region.live (r : Region) : Bool := r.st != .free && r.st != .ended

/-- The pages of a rectangle, by its origin. -/
def rectPages (px py w h : Nat) : List Nat :=
  ((List.range h).map fun j => (List.range w).map fun i => 8 * (py + j) + px + i).flatten

def Region.pageList (r : Region) : List Nat := rectPages r.px r.py r.setw r.seth

/-- Whether a tile lies on the pages of a region. -/
def Region.holds (r : Region) (tile : Nat) : Bool :=
  tileDie tile == r.die && decide (r.px ≤ tileX tile / 4 ∧ tileX tile / 4 < r.px + r.setw ∧ r.py ≤ tileY tile / 4
    ∧ tileY tile / 4 < r.py + r.seth)

/-- Whether a region still holds its pages: what a handle of an island operand must name (R197). -/
def Region.onPagesNow (r : Region) : Bool := r.live && (r.st != .queued || r.was == .ready) && r.st != .saved

/-- The region whose pages hold a tile. -/
def State.regionAt (s : State) (tile : Nat) : Option Region :=
  (s.regions.find? fun p => p.2.onPagesNow && p.2.holds tile).map Prod.snd

/-! ### Layout records and channels (R133 to R135) -/

def MemTile.word (m : MemTile) (r w : Nat) : Word := tabGet 0 m.recs (2 * r + w)

/-- A 16-bit field read as a signed number. -/
def signed16 (n : Nat) : Int := if n < 2 ^ 15 then (n : Int) else (n : Int) - 2 ^ 16

/-- The count of dimension `d` minus 1, and its stride. -/
def recCount (w0 : Word) (d : Nat) : Nat := w0.bits (22 + 10 * d) 10

def recStride (w1 : Word) (d : Nat) : Int := signed16 (w1.bits (16 * d) 16)

/-- Swz of R128. -/
def swz (a : Nat) : Nat := a / 2 ^ 16 * 2 ^ 16 + (a / 2 ^ 14 % 4 ^^^ a / 2 ^ 12 % 4) * 2 ^ 14 + a % 2 ^ 14

/-- The offset of the beat at counters `ctr` (R133). -/
def beatOffset (w0 w1 : Word) (ctr : List Nat) : Nat :=
  let sum : Int := (List.range (w0.bits 20 2 + 1)).foldl (fun n d => n + (ctr.getD d 0 : Int) * recStride w1 d) 0
  let off := ((4 * (w0.bits 2 16 : Int) + 4 * sum) % (2 ^ 18 : Int)).toNat
  if w0.bit 19 then swz off else off

/-- The counters after one step: dimension `d` of `nd + 1` advances, and a full one returns to 0 and carries on. -/
def stepCounters (w0 : Word) (nd : Nat) : Nat → List Nat → List Nat
  | _, [] => []
  | d, c :: r =>
    if nd < d then c :: r
    else if c < recCount w0 d then (c + 1) :: r else 0 :: stepCounters w0 nd (d + 1) r

/-- Whether a running channel uses record `r` (R135). -/
def MemTile.inUse (m : MemTile) (r : Nat) : Bool := m.chans.any fun c => c.2.record == r

/-- Ring descriptor fields (R137). -/
def ringSize (w : Word) : Nat := w.bits 18 10 + 1

def ringBase (w : Word) : Nat := w.bits 3 15

/-! ### Rings (R137, R138) -/

def State.ring (s : State) (tile k : Nat) : Ring := tabGet Ring.init (s.tile tile).rings k

def State.setRing (s : State) (tile k : Nat) (r : Ring) : State :=
  let m := s.tile tile
  s.setTile tile { m with rings := tabPut m.rings k r }

/-- δ of R138. -/
def Ring.delta (r : Ring) (tag : Nat) : Nat := (BitVec.ofNat 32 tag - r.head).toNat

def Ring.behind (r : Ring) (tag : Nat) : Bool := decide (2 ^ 31 ≤ r.delta tag)

def Ring.inWindow (r : Ring) (tag : Nat) : Bool := decide (r.delta tag < r.size)

/-- The offset of slot `n`. -/
def Ring.slotOff (r : Ring) (n : Nat) : Nat := 8 * r.base + 8 * n

/-- The slot that the next pop of a holder of `held` slots takes. -/
def Ring.next (r : Ring) (held : Nat) : Nat := (r.head.toNat + held) % r.size

/-! ### Ports and planes (R124 to R127, R141) -/

/-- The plane of a ring operation: of the slot that its tag names, or of the one at HEAD. `qtkt` and `qcnt` read no cell; they claim
that plane too (log entry 81). -/
def Ring.claim (r : Ring) (tag : Option Nat) : Claim :=
  .plane (r.slotOff (match tag with
    | some t => t % r.size
    | none => r.next r.held) / 2 ^ 14)

/-- The claim of an access with the slot of a ring operation resolved. -/
def State.claimOf (s : State) (a : Acc) : Claim :=
  match a.claim with
  | .ring k tag => (s.ring a.tile k).claim tag
  | c => c

/-- The beats of running channels that a region's cycle moves, by memory tile and channel: those started from the region itself. -/
def State.dueChans (s : State) (ctx h die : Nat) : List (Nat × Nat) :=
  let r := s.regionOn ctx h die
  let go (c : Chan) : Bool := c.ctx == ctx && c.handle == h && c.timed && decide (c.next ≤ r.t)
  ((s.tiles.filter fun t => r.holds t.1).map fun t => (t.2.chans.filter fun c => go c.2).map fun c => (t.1, c.1)).flatten

/-- The beats of channels started from blocks that move in the present cycle: on the pages of a region, whatever its state (R134). -/
def State.blockChans (s : State) : List (Nat × Nat) :=
  s.tiles.flatMap fun t => (t.2.chans.filter fun c => !c.2.timed && decide (c.2.next ≤ s.cycle)).map fun c => (t.1, c.1)

/-- The claim of a channel's beat. -/
def State.chanClaim (s : State) (tile chan : Nat) : List Claim :=
  let m := s.tile tile
  match tabFind m.chans chan with
  | some c => [.plane (beatOffset (m.word c.record 0) (m.word c.record 1) c.ctr / 2 ^ 14)]
  | none => []

def Claim.plane? : Claim → Option Nat
  | .plane p => some p
  | .readHalf p _ => some p
  | .writeHalf p _ => some p
  | _ => none

def Claim.usesPort : Claim → Bool
  | .nothing => false
  | _ => true

/-- Whether a read half takes its value from a write half of the same cycle: all its words are written by that one. -/
def Claim.forwards (rd wr : Claim) : Bool :=
  match rd, wr with
  | .readHalf _ a, .writeHalf _ b => a / 2 == b / 2 && decide (a % 2 ≤ b % 2) || (a % 2 == 0 && b % 2 == 1 && a / 2 == b / 2 + 1)
  | _, _ => false

/-- Whether two of the claims of one cycle conflict, or a fifth one stands among them. -/
def clash : List Claim → Bool
  | [] => false
  | c :: rest => clash rest || rest.any fun d =>
      c.plane?.isSome && c.plane? == d.plane? && !c.forwards d && !d.forwards c

def portsOver (l : List Claim) : Bool :=
  decide (4 < (l.filter fun c => c.usesPort && !l.any fun d => c.forwards d).length)

/-- Whether a claim conflicts with one of the claims `l` of its cycle, or is the fifth access. -/
def Claim.blocked (c : Claim) (l : List Claim) : Bool :=
  c.usesPort && (portsOver (c :: l) || l.any fun d => c.plane?.isSome && c.plane? == d.plane? && !c.forwards d && !d.forwards c)

/-- Whether an access of a region's next cycle starts a channel there, whose first beat takes a plane of its own. -/
def startsChannel : Instr → Bool
  | .agstart _ _ _ => true
  | _ => false

/-- What the timed accesses of the next cycle take of a tile; none where that cannot be told yet. -/
def State.timedNext (s : State) (tile : Nat) : Option (List Claim) :=
  match s.regionAt tile with
  | none => some []
  | some r =>
    let acc := r.acc.filter fun a => a.tile == tile && decide (a.at_ ≤ r.t)
    if acc.any fun a => startsChannel a.i then none
    else some (acc.map s.claimOf ++ ((s.tile tile).chans.filter fun c => c.2.timed && decide (c.2.next ≤ r.t)).flatMap fun c =>
      s.chanClaim tile c.1)

/-- Whether an untimed access finds a port and its plane free of the timed accesses, and of the untimed ones served before it: an
atomic's in this cycle and in the next (R127). -/
def State.portFree (s : State) (tile : Nat) (c : Claim) : Bool :=
  !c.blocked (tabGet [] s.busy tile) && (match c with
    | .readHalf p w => (match s.timedNext tile with
      | none => false
      | some l => !(Claim.writeHalf p w).blocked (tabGet [] s.holds tile ++ l))
    | _ => true)

/-- The port and the plane taken; those of a write half in the next cycle are held for it. -/
def State.takePort (s : State) (tile : Nat) (c : Claim) (half : Bool) : State :=
  if !c.usesPort then s
  else
    let s1 := { s with busy := tabPut s.busy tile (tabGet [] s.busy tile ++ [c]) }
    match c with
    | .readHalf p w => if half then { s1 with holds := tabPut s1.holds tile (tabGet [] s1.holds tile ++ [.writeHalf p w]) } else s1
    | _ => s1

end Sys2Proof.Machine
end

