-- ==== Sys2Proof/Machine/Order.lean ====
section
/-! DEFINITION. The order of one agent's operations: what an access away from its issuer waits for (R121, R149, R151, R157, R160 to
R162). -/

namespace Sys2Proof.Machine

/-! ### What an instruction is -/

/-- Acquires that a tile or a partition performs (R160). -/
def isAcquire : Instr → Bool
  | .vld _ _ _ _ _ => true
  | .barwt _ _ _ _ _ => true
  | .qpop _ _ _ scp => scp != 0
  | .aadd _ _ _ _ _ scp _ => scp != 0
  | .amin _ _ _ _ _ scp _ => scp != 0
  | .amax _ _ _ _ _ scp _ => scp != 0
  | .aminu _ _ _ _ _ scp _ => scp != 0
  | .amaxu _ _ _ _ _ scp _ => scp != 0
  | .aand _ _ _ _ _ scp _ => scp != 0
  | .aor _ _ _ _ _ scp _ => scp != 0
  | .axor _ _ _ _ _ scp _ => scp != 0
  | .aswp _ _ _ _ _ scp _ => scp != 0
  | .acas _ _ _ _ _ scp _ => scp != 0
  | .ainc _ _ _ _ _ scp _ => scp != 0
  | .adec _ _ _ _ _ scp _ => scp != 0
  | .afadd _ _ _ _ scp _ _ => scp != 0
  | .redadd _ _ _ _ scp _ => scp != 0
  | .redfadd _ _ _ scp _ _ => scp != 0
  | .redmax _ _ _ _ scp _ => scp != 0
  | _ => false

/-- Releases that a tile or a partition performs (R160). -/
def isRelease : Instr → Bool
  | .vld _ _ _ _ _ => false
  | .barwt _ _ _ _ _ => false
  | .qpop _ _ _ _ => false
  | .vst _ _ _ _ _ => true
  | .vrcl _ _ _ _ => true
  | .qpush _ _ _ _ scp => scp != 0
  | i => isAcquire i

/-- Accesses to scratch that wait for nothing but a port: those of one agent to one tile keep their order. -/
def isPlainS : Instr → Bool
  | .ld _ _ _ _ _ _ => true
  | .ldx _ _ _ _ _ _ _ => true
  | .ldl _ _ _ _ => true
  | .ldt _ _ _ _ _ => true
  | .st _ _ _ _ _ => true
  | .stx _ _ _ _ _ _ => true
  | .stl _ _ _ _ => true
  | _ => false

/-- The LSID of an instruction in block form. -/
def lsidNo (i : Instr) : Option Nat :=
  match i.hd with
  | some { place := .block l, .. } => some l.toNat
  | _ => none

/-- Whether an instruction of the issuing block with an LSID below `l`, of the kind `k`, has not fired: the D requests and beats
of a block go by LSID (R151). -/
def State.lowerUnfired (s : State) (l : Option Nat) (k : Instr → Bool) : Bool :=
  match l with
  | none => false
  | some l =>
    let b := s.curBlk
    (List.range b.words.length).any fun j => !b.fired.contains (j + 1) &&
      match decodeWord .block (b.words.getD j 0) with
      | .ok i => k i && (match lsidNo i with
        | some l' => decide (l' < l)
        | none => false)
      | .error _ => false

/-! ### Locations -/

def dBytes (sz : BitVec 2) (line : Bool) : Nat := if line then 64 else 2 ^ sz.toNat

def dqWidth : DqVal → Nat
  | .elem _ sz => 2 ^ sz.toNat
  | .line _ => 64

/-- Bytes that an access to a partition or to device memory touches. -/
def accBytes : Instr → Nat
  | .ldp _ _ _ sz _ => 2 ^ sz.toNat
  | .pldx _ _ _ _ sz _ => 2 ^ sz.toNat
  | .stp _ _ _ sz => 2 ^ sz.toNat
  | .pstx _ _ _ _ sz => 2 ^ sz.toNat
  | .vld _ _ _ _ _ => 32
  | .vst _ _ _ _ _ => 32
  | .vrcl _ _ _ _ => 32
  | .dqld _ _ sz line _ => dBytes sz line
  | .dqst _ _ b _ _ => dqWidth b
  | _ => 0

/-- The issuer's operands with the place that the access acts on behind them. -/
def keepAt (ops : List Val) (key : Nat) : List Val := ops ++ [Val.clean (Word.ofN key)]

def keptAt (ops : List Val) : Nat :=
  match ops.getLast? with
  | some v => v.v.toNat
  | none => 0

/-- Whether two requests go to a common location of P or of D. -/
def Req.meets (a b : Req) : Bool :=
  let hit := decide (keptAt a.who.ops < keptAt b.who.ops + accBytes b.i ∧ keptAt b.who.ops < keptAt a.who.ops + accBytes a.i)
  match a.place, b.place with
  | .part _, .part _ => hit
  | .chan _ _, .chan _ _ => hit
  | .tile k, .tile j => k == j && isPlainS a.i && isPlainS b.i
  | _, _ => false

/-! ### Order -/

/-- Whether two operations come from one PE of one agent: those to one memory tile keep their order (R121). -/
def Issuer.samePe (a b : Issuer) : Bool := a.sameAgent b && a.die == b.die && a.x == b.x && a.y == b.y && a.pe == b.pe

/-- Whether two operations come from one compute tile: those to one partition keep their order (R149). -/
def Issuer.sameTile (a b : Issuer) : Bool := a.die == b.die && a.x == b.x && a.y == b.y

/-- Whether request `e`, issued before `r`, comes first at its place or its location (R121, R149, R157). -/
def Req.first (e r : Req) : Bool :=
  e.place == r.place && (match r.place with
    | .part _ => e.who.sameTile r.who
    | _ => e.who.samePe r.who)
  || (e.who.sameAgent r.who && e.meets r)

/-- Whether an acquire of the same agent that stands before the request in program order has not been performed: an operation of
a region by its firing cycle, a load of a block by LSID (R157, R161). -/
def State.acquireOut (s : State) (r : Req) : Bool :=
  if r.who.task = 0 then
    s.reqs.any (fun e => isAcquire e.i && e.who.earlier r.who)
      || (s.regionOn r.who.ctx r.who.handle r.who.die).accOut r.who fun a => isAcquire a.i
  else !r.store && ({ s with cur := r.who }.lowerUnfired (lsidNo r.i) isAcquire
    || s.reqs.any fun e => isAcquire e.i && e.who.task == r.who.task && (match lsidNo e.i, lsidNo r.i with
      | some a, some b => decide (a < b)
      | _, _ => false))

/-- Whether an operation that precedes the region's latest fence has not been performed (R162). -/
def State.fenceOut (s : State) (r : Req) : Bool :=
  r.who.task == 0 && (
    let rg := s.regionOn r.who.ctx r.who.handle r.who.die
    let past (w : Issuer) : Bool := decide (w.fired < rg.fenceAt ∧ rg.fenceAt ≤ r.who.fired)
    s.reqs.any (fun e => e.who.sameAgent r.who && past e.who) || rg.accOut r.who fun a => past a.who)

/-- Whether an own-page access of its region comes before a request (R160 to R162). -/
def State.accFirst (s : State) (r : Req) : Bool :=
  r.who.task == 0 && (s.regionOn r.who.ctx r.who.handle r.who.die).accOut r.who fun a =>
    isAcquire a.i || isRelease r.i || r.place == .unit 0

/-- Whether an access of a region to its own page waits, with its region, for an acquire that has left it (R161). -/
def State.accWaits (s : State) (a : Acc) : Bool := s.reqs.any fun e => isAcquire e.i && e.who.earlier a.who && !s.accFirst e

/-- What holds a request where it is: what its agent did before it. -/
def State.mustWait (s : State) (seen : List Req) (r : Req) : Bool := seen.any (fun e => e.first r) || s.acquireOut r || s.fenceOut r

/-- The die that a request is performed on; none for one that its issuer's own die performs. -/
def ReqAt.die? : ReqAt → Option Nat
  | .tile k => some (tileDie k)
  | .part k => some (k / 48)
  | .chan _ c => some (c / 16)
  | .unit _ => none

/-- Whether a request's way is closed: a link on it is not UP (R9, R393), or it goes to a tile or a partition of a die that takes no
part in work (R16, log entry 100). -/
def State.cut (s : State) (r : Req) : Bool :=
  match r.place.die? with
  | none => false
  | some d => !s.dieReach r.who.die d || (s.downDies.contains d && (match r.place with
      | .chan _ _ => false
      | _ => true))

/-- A request that waits while its region is SAVED (R347), one that reaches a region which is on no pages (R120), and one whose way is
closed. -/
def State.asleep (s : State) (r : Req) : Bool :=
  s.cut r || (r.who.task == 0 && (s.regionOn r.who.ctx r.who.handle r.who.die).st == .saved)
    || (r.who.task != 0 && (match r.place with
      | .tile _ => (s.region r.who.ctx r.reg).live && !(s.region r.who.ctx r.reg).onPagesNow
      | _ => false))

/-- The first request at a place whose time has come and that nothing holds. -/
def State.firstAt (s : State) (place : ReqAt) : List Req → List Req → Option Req
  | _, [] => none
  | seen, r :: rest =>
    if r.place = place ∧ r.at_ ≤ s.cycle ∧ !s.asleep r ∧ !s.mustWait seen r then some r else s.firstAt place (r :: seen) rest

/-- PDB_ACCESS_PERFORMED and SCRATCH_ACCESS_PERFORMED: that request is performed. -/
def State.arrive (s : State) (place : ReqAt) : State :=
  match s.firstAt place [] s.reqs with
  | some r => s.soon (.perform r)
  | none => s

end Sys2Proof.Machine
end

