-- ==== Sys2Proof/Machine/Scratch.lean ====
section
/-! DEFINITION. Space S: addresses, elements and lines in both orientations, the element transpose, the life of a scratch access
and the seven loads and stores (R119 to R132). -/

namespace Sys2Proof.Machine

/-! ### Addresses (R119, R120) -/

/-- The memory tile of index `idx` of a region (R120). -/
def Region.memTile (r : Region) (idx : Nat) : Nat :=
  let p := idx / 8
  rankTile r.die (8 * (r.py + p / r.shw) + r.px + p % r.shw) (idx % 8)

/-- The region an S operand names: the issuing one in the timed form, HANDLE's in the block form; none where it may name none. -/
def State.sRegion (s : State) (m : Form) (a : Word) : Option Region :=
  match m with
  | .timed => if a.bits 35 8 = 0 then some s.curRegion else none
  | .block => if (s.region s.cur.ctx (a.bits 35 8)).live then some (s.region s.cur.ctx (a.bits 35 8)) else none

/-- The memory tile an operand names in [26:18] under the checks of R120, with bits [63:43] and [34:27] zero. -/
def State.sTile (s : State) (m : Form) (a : Word) : Except Nat Nat :=
  if a.bits 43 21 ≠ 0 ∨ a.bits 27 8 ≠ 0 then .error ftAddr
  else match s.sRegion m a with
    | none => .error ftAddr
    | some r => if 8 * r.shw * r.shh ≤ a.bits 18 9 then .error ftAddr else .ok (r.memTile (a.bits 18 9))

def sOff (a : Word) : Nat := a.bits 0 18

/-- Whether a block's operand names a LIVE region that is on no pages now: what reaches for its scratch waits until it is (R120). -/
def State.sAway (s : State) (m : Form) (a : Word) : Bool :=
  match m with
  | .timed => false
  | .block => a.bits 43 21 == 0 && a.bits 27 8 == 0 && (s.region s.cur.ctx (a.bits 35 8)).live
      && !(s.region s.cur.ctx (a.bits 35 8)).onPagesNow

/-- The handle of the region whose scratch an operand names. -/
def State.sHandle (s : State) (m : Form) (a : Word) : Nat :=
  match m with
  | .timed => s.cur.handle
  | .block => a.bits 35 8

/-- ROW, COL and BYTE of an offset (R119). -/
def offRow (off : Nat) : Nat := off / 256 % 64

def offCol (off : Nat) : Nat := off / 4 % 64

/-- Alignment of an element of 2^sz bytes (R122). -/
def elemAligned (col : Bool) (sz off : Nat) : Bool :=
  if sz < 3 then off % 2 ^ sz == 0
  else off % 4 == 0 && (if col then offRow off % 2 == 0 else offCol off % 2 == 0)

/-- Alignment of a line (R122). -/
def lineAligned (col : Bool) (off : Nat) : Bool :=
  off % 4 == 0 && (if col then offRow off % 16 == 0 else offCol off % 16 == 0)

/-- The distance in bytes from a word to the next in the direction of the access. -/
def stride (col : Bool) : Nat := if col then 256 else 4

/-! ### Elements and lines (R122, R123, R129, R132) -/

/-- The word at `off`, with its poison. -/
def State.sWord (s : State) (tile off : Nat) : Val := s.mem.load 4 (sKey tile off) 4

/-- Two words as a 64-bit value, the lower first. -/
def joinWords (lo hi : Val) : Val := { v := Word.ofN (lo.v.toNat + hi.v.toNat * 2 ^ 32), p := lo.p || hi.p }

/-- An element of 2^sz bytes, zero-extended. -/
def State.sRead (s : State) (tile off sz : Nat) (col : Bool) : Val :=
  if sz < 3 then s.mem.load 4 (sKey tile off) (2 ^ sz)
  else joinWords (s.sWord tile off) (s.sWord tile (off + stride col))

/-- An element stored with its poison. -/
def State.sWrite (s : State) (tile off sz : Nat) (col : Bool) (v : Val) : State :=
  if sz < 3 then { s with mem := s.mem.storeVal 4 (sKey tile off) (2 ^ sz) v }
  else
    let m1 := s.mem.storeVal 4 (sKey tile off) 4 v
    { s with mem := m1.storeVal 4 (sKey tile (off + stride col)) 4 { v := v.v >>> 32, p := v.p } }

/-- The sixteen words of a line, and its eight beats. -/
def State.sLineWords (s : State) (tile off : Nat) (col : Bool) : List Val :=
  (List.range 16).map fun k => s.sWord tile (off + k * stride col)

def beatsOf (ws : List Val) : List Val :=
  (List.range 8).map fun j => joinWords (ws.getD (2 * j) Val.zero) (ws.getD (2 * j + 1) Val.zero)

/-- A line written from its beats. -/
def State.sWriteLine (s : State) (tile off : Nat) (col : Bool) (beats : List Val) : State :=
  (List.range 8).foldl (fun s j =>
    let b := beats.getD j Val.zero
    let s1 := { s with mem := s.mem.storeVal 4 (sKey tile (off + 2 * j * stride col)) 4 b }
    { s1 with mem := s1.mem.storeVal 4 (sKey tile (off + (2 * j + 1) * stride col)) 4 { v := b.v >>> 32, p := b.p } }) s

/-- The element transpose of R123 on one group of four words: with elements of `e` bytes, element 4m + k of the output is
element m of word k. Every output word carries the poison of the group. -/
def transposeGroup (e : Nat) (ws : List Val) : List Val :=
  let n := 4 / e
  let el (j : Nat) : Nat := (ws.getD (j % 4) Val.zero).v.bits (8 * e * (j / 4)) (8 * e)
  let p := ws.any fun v => v.p
  (List.range 4).map fun w => { v := Word.ofN (ofLanes (8 * e) ((List.range n).map fun i => el (n * w + i))), p := p }

def transposeLine (e : Nat) (ws : List Val) : List Val :=
  ((List.range 4).map fun g => transposeGroup e ((ws.drop (4 * g)).take 4)).flatten

/-! ### The life of a scratch access (R121, R127) -/

/-- Route distance between the issuing compute tile and a memory tile (R121). -/
def State.distTo (s : State) (tile : Nat) : Nat :=
  let dx := if tileX tile ≤ s.cur.x then s.cur.x - tileX tile else tileX tile - s.cur.x
  let dy := if tileY tile ≤ s.cur.y then s.cur.y - tileY tile else tileY tile - s.cur.y
  dx + dy

/-- Whether a memory tile lies in the issuing tile's page. -/
def State.samePage (s : State) (tile : Nat) : Bool :=
  tileDie tile == s.cur.die && pageOf (tileX tile) (tileY tile) == pageOf s.cur.x s.cur.y

/-- A timed access added to those in flight. -/
def State.addAcc (s : State) (who : Issuer) (i : Instr) (tile at_ : Nat) (claim : Claim) : State :=
  let r := s.curRegion
  s.setCurRegion { r with acc := r.acc ++ [{ at_ := at_, who := who, i := i, tile := tile, claim := claim }] }

/-- The checks of R120 on a tile, and then those of the access. -/
def State.sCheck (s : State) (m : Form) (a : Word) (rest : Option Nat) : Option Nat :=
  if s.sAway m a then none
  else match s.sTile m a with
    | .error c => some c
    | .ok _ => rest

/-- The memory tile of an address that passes the checks of R120. -/
def State.sTileOf (s : State) (m : Form) (a : Word) : Nat :=
  match s.sTile m a with
  | .error _ => 0
  | .ok t => t

/-- What an access performed in a commit waits for: the task's earlier accesses to the tile (R121, R246); and a release, for
every earlier operation of its agent (R160). -/
def State.orderWait (s : State) (tile : Nat) (release : Bool) : Bool :=
  (s.cur.phase == .commit && s.reqs.any fun r => r.who.sameAgent s.cur && r.place == .tile tile)
    || (release && if s.cur.tag = 0 then s.reqsOut s.cur else s.opsOut s.cur)

/-- Whether an access is untimed (R127): one of a block, or of another page of its region. A plain store of a block is only issued by
the commit. -/
def State.untimed (s : State) (m : Form) (res : Bool) : Bool :=
  match m, s.cur.phase with
  | .timed, _ => s.cur.tag != 0
  | .block, .commit => res
  | .block, _ => true

/-- Whether a 33rd external result would be outstanding (R66). -/
def State.extOver (s : State) (m : Form) (n : Nat) : Bool := decide (n ≠ 0 ∧ 32 < s.extOut m + n)

/-- An access to a memory tile. `target` is the address operand's value; `check` the access's own checks on the offset; `n` its
number of external results and `res` whether anything is written at its completion; `store` says that a block performs it in its
commit. A timed access to the issuing page is performed in cycle c + h + 2 with `claim`; any other is an untimed request
(R121), which is performed when a port and its plane are free (R127). A condition of `waits` that fails at the tile holds it; `fired`
is what follows at once, and `first` holds the firing. -/
def State.scratch (s : State) (i : Instr) (h : Hd) (srcs : List Src) (n : Nat) (res store : Bool) (target : List Val → Word)
    (check : State → List Val → Option Nat) (claim : State → Nat → List Val → Claim) (waits : State → Nat → List Val → Bool)
    (perform : State → Nat → Nat → List Val → Bool → State)
    (fired : State → Nat → List Val → Bool → State := fun s _ _ _ => s) (first : State → Bool := fun _ => false) : State :=
  let m := h.place.form
  let chk (s : State) (ops : List Val) : Option Nat := s.sCheck m (target ops) (check s ops)
  s.act h srcs (match m with
      | .timed => 0
      | .block => if store then 0 else n) chk (fun s ops => s.sAway m (target ops) || first s) fun s ops pp =>
    if s.sAway m (target ops) then s.hold
    else match s.sTile m (target ops) with
    | .error c => s.raise m c
    | .ok tile =>
      let off := sOff (target ops)
      match s.cur.phase with
      | .fire => (fun s => fired s tile ops pp) <| match m with
        | .timed =>
          let dist := s.distTo tile
          if s.samePage tile then
            s.addAcc (s.carry .perform ops pp dist) i tile (s.curRegion.t + dist + 2) (claim s off ops)
          else if s.extOver m n then s.raise m ftTime
          else
            let s1 := s.tagged
            let s2 := if res then s1.addPend (s1.firedAt + 2 * dist + 4) false true false [.waiting n] else s1
            s2.request (.tile tile) (s2.carry .perform ops pp dist) i (!res) 0 (s.sHandle m (target ops))
        | .block =>
          if store then s.deferStore h i ops pp
          else
            let s1 := s.tagged
            let s2 := s1.expect m 0 n
            s2.request (.tile tile) (s2.carry .perform ops pp 0) i false 0 (s.sHandle m (target ops))
      | _ =>
        let c := s.claimOf { at_ := 0, who := s.cur, i := i, tile := tile, claim := claim s off ops }
        if waits s tile ops then s.hold
        else if !s.untimed m res then perform s tile off ops pp
        else if !s.portFree tile c then s.hold
        else perform (s.takePort tile c true) tile off ops pp

/-- A result of a scratch access: due 2h + 5 cycles from firing (R121), a reply for a request, the commit's own in a commit; with
the fault that follows the completion point, if there is one (R143). -/
def State.scratchAnswer (s : State) (m : Form) (r : ResW) (f : Option Nat) : State :=
  let extra := match f with
    | some c => [Wr.fault c]
    | none => []
  match s.cur.phase with
  | .commit =>
    let s1 := s.complete m 0 false r
    match f with
    | some c => s1.raise m c
    | none => s1
  | _ =>
    if s.cur.tag = 0 then (s.complete m (2 * s.cur.dist + 5) false r).addPend (s.firedAt + 2 * s.cur.dist + 4) false false true extra
    else s.answerWith m r extra

def State.scratchResult (s : State) (m : Form) (r : ResW) : State := s.scratchAnswer m r none

/-- A plain store of a block, issued by its commit: it is performed at its tile later, in order with the task's other accesses
there (R121, R246). -/
def State.issueStore (s : State) (i : Instr) (m : Form) (place : ReqAt) (reg : Nat) (perform : State → State) : State :=
  match m, s.cur.phase with
  | .block, .commit => s.request place { s.cur with phase := .perform } i true 0 reg
  | _, _ => perform s

/-- The plane and the word of an offset (R119). -/
def planeOf (_ : State) (off : Nat) (_ : List Val) : Claim := .plane (off / 2 ^ 14)

/-! ### Loads and stores (R130 to R132) -/

def signExt (sx : Bool) (sz : Nat) (v : Val) : Val :=
  if sx then { v := alSext (8 * 2 ^ sz) v.v, p := v.p } else v

/-- a + b × 2^SZ, modulo 2^64 (R131). -/
def indexed (sz : Nat) (a b : Val) : Word := a.v + b.v * Word.ofN (2 ^ sz)

def alignCheck (ok : Bool) : Option Nat := if ok then none else some ftAlign

/-- An element load: the value poisoned by its words, by the address operands and by the predicate. -/
def State.loadElem (s : State) (m : Form) (d : Dst) (tile off sz : Nat) (col sx : Bool) (ops : List Val) (pp : Bool) : State :=
  let v := signExt sx sz (s.sRead tile off sz col)
  s.scratchResult m (ResW.one d { v := v.v, p := v.p || anyPois ops pp } 0)

def execLd (h : Hd) (d : Dst) (a : Src) (col : Bool) (sz : BitVec 2) (sx : Bool) (s : State) : Out :=
  .next (s.scratch (.ld h d a col sz sx) h [a] 1 true false (fun ops => (opn ops 0).v)
    (fun _ ops => alignCheck (elemAligned col sz.toNat (sOff (opn ops 0).v))) planeOf (fun _ _ _ => false)
    fun s tile off ops pp => s.loadElem h.place.form d tile off sz.toNat col sx ops pp)

def execLdx (h : Hd) (d : Dst) (a b : Src) (col : Bool) (sz : BitVec 2) (sx : Bool) (s : State) : Out :=
  .next (s.scratch (.ldx h d a b col sz sx) h [a, b] 1 true false (fun ops => indexed sz.toNat (opn ops 0) (opn ops 1))
    (fun _ ops => alignCheck (elemAligned col sz.toNat (sOff (indexed sz.toNat (opn ops 0) (opn ops 1))))) planeOf
    (fun _ _ _ => false)
    fun s tile off ops pp => s.loadElem h.place.form d tile off sz.toNat col sx ops pp)

def execSt (h : Hd) (a b : Src) (col : Bool) (sz : BitVec 2) (s : State) : Out :=
  .next (s.scratch (.st h a b col sz) h [a, b] 0 false true (fun ops => (opn ops 0).v)
    (fun _ ops => alignCheck (elemAligned col sz.toNat (sOff (opn ops 0).v))) planeOf (fun _ _ _ => false)
    fun s tile off ops pp => s.issueStore (.st h a b col sz) h.place.form (.tile tile) ((opn ops 0).v.bits 35 8) fun s =>
      s.sWrite tile off sz.toNat col { v := (opn ops 1).v, p := anyPois ops pp })

/-- `stx` reads its value through D. -/
def execStx (h : Hd) (v a b : Src) (col : Bool) (sz : BitVec 2) (s : State) : Out :=
  .next (s.scratch (.stx h v a b col sz) h [v, a, b] 0 false true (fun ops => indexed sz.toNat (opn ops 1) (opn ops 2))
    (fun _ ops => alignCheck (elemAligned col sz.toNat (sOff (indexed sz.toNat (opn ops 1) (opn ops 2))))) planeOf
    (fun _ _ _ => false)
    fun s tile off ops pp => s.issueStore (.stx h v a b col sz) h.place.form (.tile tile)
        ((indexed sz.toNat (opn ops 1) (opn ops 2)).bits 35 8) fun s =>
      s.sWrite tile off sz.toNat col { v := (opn ops 0).v, p := anyPois ops pp })

/-- The beats of a line to their destinations; the latch takes beat 0 (R132). -/
def State.lineResult (s : State) (m : Form) (d : LineDst) (beats : List Val) (p : Bool) : State :=
  let bs := beats.map fun b => { b with p := b.p || p }
  s.scratchResult m { dsts := (lineDsts d).zip bs, latch := bs.head? }

def execLdl (h : Hd) (d : LineDst) (a : Src) (col : Bool) (s : State) : Out :=
  .next (s.scratch (.ldl h d a col) h [a] 8 true false (fun ops => (opn ops 0).v)
    (fun _ ops => alignCheck (lineAligned col (sOff (opn ops 0).v))) planeOf (fun _ _ _ => false)
    fun s tile off ops pp => s.lineResult h.place.form d (beatsOf (s.sLineWords tile off col)) (anyPois ops pp))

def execLdt (h : Hd) (d : LineDst) (a : Src) (col half : Bool) (s : State) : Out :=
  .next (s.scratch (.ldt h d a col half) h [a] 8 true false (fun ops => (opn ops 0).v)
    (fun _ ops => alignCheck (lineAligned col (sOff (opn ops 0).v))) planeOf (fun _ _ _ => false)
    fun s tile off ops pp => s.lineResult h.place.form d
      (beatsOf (transposeLine (if half then 2 else 1) (s.sLineWords tile off col))) (anyPois ops pp))

/-- The sources of a line store as its beats: each carries its own poison, and that of the address and of the predicate. -/
def stlBeats (ops : List Val) (pp : Bool) : List Val := (ops.drop 1).map fun v => { v with p := v.p || (opn ops 0).p || pp }

/-- The latch of a line store takes beat 0, at the scratch-load latency (R132); it is known at firing, so no store waits for it. -/
def State.stlLatch (s : State) (h : Hd) (tile : Nat) (b : Val) : State :=
  match h.place.form with
  | .timed => s.addPend (s.firedAt + 2 * s.distTo tile + 4) false false true [.latch b]
  | .block =>
    let s1 := s.delay.2
    s1.modBlk fun k => blkPut k s.cur.idx (s.cycle + 5 + s.delay.1) { latch := some b }

/-- Each source's poison goes to both of its words; the address's poison to all. -/
def execStl (h : Hd) (a : Src) (b : LineSrc) (col : Bool) (s : State) : Out :=
  .next (s.scratch (.stl h a b col) h (a :: lineSrcs b) 0 false true (fun ops => (opn ops 0).v)
    (fun _ ops => alignCheck (lineAligned col (sOff (opn ops 0).v))) planeOf (fun _ _ _ => false)
    (fun s tile off ops pp => s.issueStore (.stl h a b col) h.place.form (.tile tile) ((opn ops 0).v.bits 35 8) fun s =>
      s.sWriteLine tile off col (stlBeats ops pp))
    fun s tile ops pp => s.stlLatch h tile ((stlBeats ops pp).headD Val.zero))

end Sys2Proof.Machine
end

