-- ==== Sys2Proof/Machine/Sequencer.lean ====
section
/-! DEFINITION. The address-generator sequencers and the ticket rings of memory tiles (R133 to R140). -/

namespace Sys2Proof.Machine

/-- The token of a record, or of a ring descriptor, applied. -/
def MemTile.applyToken (m : MemTile) (r w : Nat) (v : Word) : MemTile :=
  if r < 16 then { m with recs := tabPut m.recs (2 * r + w) v }
  else { m with rings := tabPut m.rings (r - 16)
                  { Ring.init with head := v.extractLsb' 32 32, size := ringSize v, base := ringBase v } }

/-- Whether a token can take effect: no running channel uses its record; its ring has no full slot (R135, R137). -/
def MemTile.tokenReady (m : MemTile) (r : Nat) : Bool :=
  if r < 16 then !m.inUse r else (tabGet Ring.init m.rings (r - 16)).full.isEmpty

/-- The tokens that are held take effect where they can: what a tile does at the end of a cycle. -/
def MemTile.settle (m : MemTile) : MemTile :=
  m.tokens.foldl (fun m t =>
    if m.tokenReady t.1 then m.applyToken t.1 t.2.1 t.2.2 else { m with tokens := m.tokens ++ [t] }) { m with tokens := [] }

/-- The end of a channel's stream (R134): the channel is idle. -/
def State.streamEnd (s : State) (tile chan : Nat) : State :=
  let m := s.tile tile
  s.setTile tile { m with chans := tabDel m.chans chan }

/-! ### `agcfg`, `agstart`, `ageos` (R136) -/

/-- The life of the three: as a scratch access that takes no port, with its operands checked. -/
def State.seqOp (s : State) (i : Instr) (h : Hd) (srcs : List Src) (bad : State → List Val → Bool)
    (waits : State → Nat → List Val → Bool) (perform : State → Nat → List Val → State) : State :=
  s.scratch i h srcs 0 false true (fun ops => (opn ops 0).v)
    (fun s ops => if bad s ops then some ftAddr else if ops.any (fun v => v.p) then some ftPoison else none)
    (fun _ _ _ => .nothing) (fun s tile ops => s.orderWait tile false || waits s tile ops) fun s tile _ ops _ => perform s tile ops

def agRec (a : Word) : Nat := a.bits 1 5

def agcfgBad (a b : Word) : Bool :=
  a.bits 6 12 != 0 || decide (24 ≤ agRec a) || (decide (16 ≤ agRec a)
    && (a.bit 0 || b.bits 28 4 != 0 || b.bits 0 3 != 0 || decide (2 ^ 18 < 8 * (ringBase b + ringSize b))))

/-- Whether a token for the same word is held (R135). -/
def State.tokenHeld (s : State) (tile : Nat) (a : Word) : Bool :=
  (s.tile tile).tokens.any fun t => t.1 == agRec a && t.2.1 == a.bits 0 1

/-- A token for the same word that is held makes the issuer wait. -/
def execAgcfg (h : Hd) (a b : Src) (s : State) : Out :=
  .next (s.seqOp (.agcfg h a b) h [a, b] (fun _ ops => agcfgBad (opn ops 0).v (opn ops 1).v)
    (fun s tile ops => s.tokenHeld tile (opn ops 0).v)
    fun s tile ops =>
      let m := s.tile tile
      s.setTile tile { m with tokens := m.tokens ++ [(agRec (opn ops 0).v, (opn ops 0).v.bits 0 1, (opn ops 1).v)] })

def agChan (a : Word) : Nat := a.bits 4 2

/-- On a running channel: `FT_TIME` from a timed region, a wait in a block. -/
def execAgstart (h : Hd) (a b : Src) (s : State) : Out :=
  let m := h.place.form
  .next (s.seqOp (.agstart h a b) h [a, b] (fun _ ops => (opn ops 0).v.bits 6 12 != 0 || (opn ops 1).v.bits 20 44 != 0)
    (fun s tile ops => m == .block && (tabFind (s.tile tile).chans (agChan (opn ops 0).v)).isSome)
    fun s tile ops =>
      let t := s.tile tile
      let ch := agChan (opn ops 0).v
      let b := (opn ops 1).v
      if (tabFind t.chans ch).isSome then s.raise m ftTime
      else
        let c : Chan :=
          { record := (opn ops 0).v.bits 0 4, port := b.bits 16 3, wr := b.bit 19,
            left := if b.bits 0 16 = 0 then none else some (b.bits 0 16), ctr := [0, 0, 0, 0],
            next := if m = .timed then s.curRegion.t else s.cycle, ctx := s.cur.ctx,
            handle := if m = .timed then s.cur.handle else (opn ops 0).v.bits 35 8, timed := m == .timed }
        s.setTile tile { t with chans := tabPut t.chans ch c })

/-- No effect on an idle channel. -/
def execAgeos (h : Hd) (a : Src) (s : State) : Out :=
  .next (s.seqOp (.ageos h a) h [a] (fun _ ops => (opn ops 0).v.bits 6 12 != 0 || (opn ops 0).v.bits 0 4 != 0)
    (fun _ _ _ => false) fun s tile ops => s.streamEnd tile (agChan (opn ops 0).v))

/-! ### Beats (R134) -/

/-- A beat that leaves a tile by a local port. A region that stands still takes no beat, so of several beats that a block's stream
sends meanwhile its switch finds the last (log entry 41). -/
def Region.leaveTile (r : Region) (f : Flight) : Region :=
  { r with flights := r.flights.filter (fun g => !(g.tile == f.tile && g.src == f.src)) ++ [f] }

/-- The beat a channel moves in this cycle. Read: the element leaves through the switch of its tile in the next cycle. Write:
the beat that the local input holds is stored. A misaligned beat faults the region (R133) and ends the stream (log entry 82). -/
def State.chanBeat (s : State) (tile chan : Nat) : State :=
  let m := s.tile tile
  match tabFind m.chans chan with
  | none => s
  | some c =>
    let w0 := m.word c.record 0
    let off := beatOffset w0 (m.word c.record 1) c.ctr
    let col := w0.bit 18
    let die := tileDie tile
    let r := s.regionOn c.ctx c.handle die
    if !elemAligned col 3 off then
      (s.setRegion c.ctx c.handle die { r with faults := r.faults ++
        [{ rank := ((tileY tile * 32 + tileX tile) * 16) * 256 + ftAlign, code := ftAlign, data1 := 0 }] }).streamEnd tile chan
    else
      let e1 := sKey tile off
      let e2 := sKey tile (off + stride col)
      let s := if c.wr then (s.renew spS e1 4).renew spS e2 4 else (s.correct spS e1 4).correct spS e2 4
      let s1 := if c.wr then s.sWrite tile off 3 col (s.routeIn tile c.port).v
        else s.setRegion c.ctx c.handle die
          (r.leaveTile { tile := tile, src := 8 + c.port, b := { v := s.sRead tile off 3 col, sb := 0 } })
      let c1 := { c with ctr := stepCounters w0 (w0.bits 20 2) 0 c.ctr, next := c.next + 1, left := c.left.map fun n => n - 1 }
      let s2 := s1.setTile tile { s1.tile tile with chans := tabPut m.chans chan c1 }
      if c1.left = some 0 then s2.streamEnd tile chan else s2

/-- A beat of a stream that a block started: an untimed access, which waits for a port and its plane (R127, R134). -/
def State.untimedBeat (s : State) (tile chan : Nat) : State :=
  let c := (s.chanClaim tile chan).headD .nothing
  if s.portFree tile c then (s.takePort tile c true).chanBeat tile chan else s

/-- SEQUENCER_STREAM_END: a stream whose beats are all moved has left its channel idle; on a channel that still has beats the
event does not happen. -/
def execSequencerStreamEnd (tile chan : Nat) (s : State) : Out :=
  .next (match tabFind (s.tile tile).chans chan with
    | some c => if c.left = some 0 then (s.streamEnd tile chan).setTile tile ((s.streamEnd tile chan).tile tile).settle else s
    | none => s)

/-! ### Ticket rings (R137 to R140) -/

/-- A slot that other agents hold is not popped past: a pop waits for its slot, and for other holders (R140). -/
def Ring.popWaits (r : Ring) (task : Nat) : Bool :=
  match r.holder with
  | none => !r.full.contains (r.next 0)
  | some k => k != task || decide (r.size ≤ r.held) || !r.full.contains (r.next r.held)

/-- The tag of a ring instruction: its operand, or `Instance()` of its firing. -/
def State.tagOf (s : State) (h : Hd) (t : Tag) (v : Val) : Nat :=
  match t with
  | .op _ => v.v.bits 0 32
  | .inst =>
    let p := s.curRegion.period
    (s.firedAt / (if p = 0 then 1 else p) - stageOf h) % 2 ^ 32

/-- A ring operand: its ring number in [2:0], and [17:3] 0. -/
def ringNo (a : Word) : Nat := a.bits 0 3

/-- `FT_ADDR` for the operand's other bits, `FT_POISON` where an operand named by `poi` is poisoned. -/
def ringCheck (a : Word) (poi : Bool) : Option Nat :=
  if a.bits 3 15 ≠ 0 then some ftAddr else if poi then some ftPoison else none

def State.ringAt (s : State) (tile : Nat) (a : Val) : Ring := s.ring tile (ringNo a.v)

/-- Whether a tag has to wait until HEAD has advanced (R138). -/
def State.ringEarly (s : State) (tile : Nat) (a : Val) (tag : Nat) : Bool :=
  !(s.ringAt tile a).inWindow tag && !(s.ringAt tile a).behind tag

/-- `qtkt`: the slot number of a tag in the window; a tag behind HEAD faults. -/
def execQtkt (h : Hd) (d : Dst) (a : Src) (t : Tag) (s : State) : Out :=
  let m := h.place.form
  let tag (s : State) (ops : List Val) : Nat := s.tagOf h t (opn ops 1)
  .next (s.scratch (.qtkt h d a t) h (a :: tagSrcs t) 1 true false (fun ops => (opn ops 0).v)
    (fun _ ops => ringCheck (opn ops 0).v (ops.any fun v => v.p))
    (fun s _ ops => .ring (ringNo (opn ops 0).v) (some (tag s ops)))
    (fun s tile ops => s.ringEarly tile (opn ops 0) (tag s ops))
    fun s tile _ ops pp =>
      let r := s.ringAt tile (opn ops 0)
      if r.behind (tag s ops) then s.raise m ftAddr
      else s.scratchResult m (ResW.one d { v := Word.ofN (tag s ops % r.size), p := pp } 0))

/-- A push performed at its tile: a full slot faults and keeps its value (R138). -/
def State.ringPush (s : State) (m : Form) (tile k tag : Nat) (v : Val) : State :=
  let r := s.ring tile k
  let slot := tag % r.size
  if r.behind tag || r.full.contains slot then s.raise m ftAddr
  else (s.sWrite tile (r.slotOff slot) 3 false v).setRing tile k { r with full := setIns r.full slot }

/-- `qpush`. In a block it fires once its tag is in the window and is performed in the commit (R140). -/
def execQpush (h : Hd) (a b : Src) (t : Tag) (scp : BitVec 2) (s : State) : Out :=
  let m := h.place.form
  let i : Instr := .qpush h a b t scp
  let srcs := a :: b :: tagSrcs t
  let tag (s : State) (ops : List Val) : Nat := s.tagOf h t (opn ops 2)
  let poi (ops : List Val) : Bool := (opn ops 0).p || (opn ops 2).p
  let early (s : State) (tile : Nat) (ops : List Val) : Bool := s.ringEarly tile (opn ops 0) (tag s ops)
  let push (s : State) (tile : Nat) (ops : List Val) (pp : Bool) : State :=
    s.ringPush m tile (ringNo (opn ops 0).v) (tag s ops) { v := (opn ops 1).v, p := (opn ops 1).p || pp }
  .next (match m with
    | .timed => s.scratch i h srcs 0 false true (fun ops => (opn ops 0).v) (fun _ ops => ringCheck (opn ops 0).v (poi ops))
        (fun s _ ops => .ring (ringNo (opn ops 0).v) (some (tag s ops)))
        (fun s tile ops => s.orderWait tile (scp != 0) || early s tile ops) fun s tile _ ops pp => push s tile ops pp
    | .block => s.act h srcs 0
        (fun s ops => s.sCheck m (opn ops 0).v (match ringCheck (opn ops 0).v (poi ops) with
          | some c => some c
          | none => if (s.ringAt (s.sTileOf m (opn ops 0).v) (opn ops 0)).behind (tag s ops) then some ftAddr else none))
        (fun s ops => s.sAway m (opn ops 0).v || early s (s.sTileOf m (opn ops 0).v) ops)
        fun s ops pp => match s.cur.phase with
          | .fire => s.deferStore h i ops pp
          | _ =>
            let tile := s.sTileOf m (opn ops 0).v
            let c := (s.ringAt tile (opn ops 0)).claim (some (tag s ops))
            if s.sAway m (opn ops 0).v || s.orderWait tile (scp != 0) || !s.portFree tile c then s.hold
            else push (s.takePort tile c true) tile ops pp)

/-- A pop performed in a timed region: the slot is empty again and HEAD advances. -/
def State.ringPop (s : State) (tile k : Nat) : Val × State :=
  let r := s.ring tile k
  let slot := r.next 0
  (s.sRead tile (r.slotOff slot) 3 false, s.setRing tile k { r with full := setDel r.full slot, head := r.head + 1 })

/-- One more slot of ring `k` of a tile in the list of held ones. -/
def addHeld (tile k : Nat) : List (Nat × Nat × Nat) → List (Nat × Nat × Nat)
  | [] => [(tile, k, 1)]
  | e :: r => if e.1 == tile && e.2.1 == k then (tile, k, e.2.2 + 1) :: r else e :: addHeld tile k r

/-- A pop of a block: the slot is read and held, and HEAD stays (R140). -/
def State.ringHold (s : State) (tile k : Nat) : Val × State :=
  let r := s.ring tile k
  let v := s.sRead tile (r.slotOff (r.next r.held)) 3 false
  let s1 := (s.correct spS (sKey tile (r.slotOff (r.next r.held))) 8).setRing tile k { r with holder := some s.cur.task, held := r.held + 1 }
  (v, s1.modBlk fun b => { b with held := addHeld tile k b.held })

/-- The slots a block holds, popped by its commit: they are empty again, and HEAD advances by their number. -/
def State.ringsCommit (s : State) (k : Nat) : State :=
  match (s.task k).blk with
  | none => s
  | some b => b.held.foldl (fun s e =>
      let r := s.ring e.1 e.2.1
      let freed := (List.range e.2.2).foldl (fun f j => setDel f (r.next j)) r.full
      s.setRing e.1 e.2.1 { r with full := freed, head := r.head + BitVec.ofNat 32 e.2.2, holder := none, held := 0 })
    (s.setTask k { s.task k with blk := some { b with held := [] } })

def execQpop (h : Hd) (d : Dst) (a : Src) (scp : BitVec 2) (s : State) : Out :=
  let m := h.place.form
  let i : Instr := .qpop h d a scp
  let res (v : Val) (pp : Bool) : ResW := ResW.one d { v := v.v, p := v.p || pp } 0
  .next (match m with
    | .timed => s.scratch i h [a] 1 true false (fun ops => (opn ops 0).v)
        (fun _ ops => ringCheck (opn ops 0).v (opn ops 0).p) (fun _ _ ops => .ring (ringNo (opn ops 0).v) none)
        (fun s tile ops => (s.ringAt tile (opn ops 0)).popWaits 0)
        fun s tile _ ops pp =>
          let r := s.ringPop tile (ringNo (opn ops 0).v)
          r.2.scratchResult m (res r.1 pp)
    | .block => s.act h [a] 1 (fun s ops => s.sCheck m (opn ops 0).v (ringCheck (opn ops 0).v (opn ops 0).p))
        (fun s ops =>
          let tile := s.sTileOf m (opn ops 0).v
          let r := s.ringAt tile (opn ops 0)
          s.sAway m (opn ops 0).v || r.popWaits s.cur.task || !s.portFree tile (r.claim none))
        fun s ops pp =>
          let tile := s.sTileOf m (opn ops 0).v
          let s1 := s.takePort tile ((s.ringAt tile (opn ops 0)).claim none) true
          let r := (s1.expect m 0 1).ringHold tile (ringNo (opn ops 0).v)
          r.2.answer m (res r.1 pp))

/-- Whether a request of a timed region that has reached its tile in another page waits there for a token or a ring: its region
stands still meanwhile (R135, R139). -/
def State.tileWaits (s : State) (r : Req) : Bool :=
  let s1 := { s with cur := r.who }
  let a := opn r.who.ops 0
  match r.place with
  | .tile k => match r.i with
    | .agcfg _ _ _ => s.tokenHeld k a.v
    | .qtkt h _ _ t => s1.ringEarly k a (s1.tagOf h t (opn r.who.ops 1))
    | .qpush h _ _ t _ => s1.ringEarly k a (s1.tagOf h t (opn r.who.ops 2))
    | .qpop _ _ _ _ => (s.ringAt k a).popWaits 0
    | _ => false
  | _ => false

/-- The word that `qcnt` returns: HEAD, full and held slots, free slots. -/
def Ring.word (r : Ring) : Word :=
  Word.ofN (r.head.toNat * 2 ^ 32 + r.full.length * 2 ^ 16 + (r.size - r.full.length))

def execQcnt (h : Hd) (d : Dst) (a : Src) (s : State) : Out :=
  let m := h.place.form
  .next (s.scratch (.qcnt h d a) h [a] 1 true false (fun ops => (opn ops 0).v)
    (fun _ ops => ringCheck (opn ops 0).v (opn ops 0).p) (fun _ _ ops => .ring (ringNo (opn ops 0).v) none)
    (fun _ _ _ => false)
    fun s tile _ ops pp => s.scratchResult m (ResW.one d { v := (s.ringAt tile (opn ops 0)).word, p := pp } 0))

end Sys2Proof.Machine
end

