-- ==== Sys2Proof/Machine/Memory.lean ====
section
/-! DEFINITION. Spaces P and D, versioned words, fences and timeline counters (R147 to R167). -/

namespace Sys2Proof.Machine

/-! ### Space P (R147 to R149) -/

/-- The entry of handle `h` of a context's partition table, from its save area (R341). -/
def State.partEntry (s : State) (ctx h : Nat) : Val :=
  s.dLoad ((s.pkgCsr (0x8B40 + ctx)).bits 12 28 * 4096 + 0x100 + 8 * h) 8

/-- The partition (48 · die + number) and the offset a P address names, under the checks of R147. -/
def State.partOf (s : State) (ctx : Nat) (vers : Bool) (a : Word) : Except Nat (Nat × Nat) :=
  if a.bits 29 35 ≠ 0 then .error ftAddr
  else
    let e := s.partEntry ctx (a.bits 21 8)
    if e.p then .error ftPoison
    else if !e.v.bit 63 ∨ e.v.bits 10 53 ≠ 0 ∨ 2 ≤ e.v.bits 8 2 ∨ 48 ≤ e.v.bits 0 6 ∨ (e.v.bits 8 2 = 1) ≠ vers then .error ftAddr
    else .ok (e.v.bits 6 2 * 48 + e.v.bits 0 6, a.bits 0 21)

/-- The key of a byte of a partition. -/
def partKey (p off : Nat) : Nat := p * 2 ^ 21 + off

/-- Whether the P request path of the issuing tile holds 32 unperformed accesses (R149). -/
def State.pFull (s : State) : Bool :=
  decide (32 ≤ (s.reqs.filter fun r => tileKey r.who.die r.who.x r.who.y == s.curTile && (match r.place with
    | .part _ => true
    | _ => false)).length)

/-- Latency of a load from a partition (R149). -/
def State.pLat (s : State) (p : Nat) : Nat := if p / 48 = s.cur.die then 24 else 160

/-- An access to a partition at the address `target` gives: a request from either form, but the commit of a block performs a
store-class one. `n` results; `waits` holds it at the partition; `direct` says that the commit itself performs it. -/
def State.pAccess (s : State) (i : Instr) (h : Hd) (srcs : List Src) (n : Nat) (store direct vers : Bool) (align : Nat)
    (target : List Val → Word) (check : List Val → Option Nat) (waits : State → Nat → List Val → Bool)
    (perform : State → Nat → List Val → Bool → State) : State :=
  let m := h.place.form
  let chk (s : State) (ops : List Val) : Option Nat :=
    match s.partOf s.cur.ctx vers (target ops) with
    | .error c => some c
    | .ok (_, off) =>
      match check ops with
      | some c => if c < ftAlign then some c else if off % align ≠ 0 then some ftAlign else some c
      | none => if off % align ≠ 0 then some ftAlign else none
  s.act h srcs (match m with
      | .timed => n
      | .block => if store then 0 else n) chk (fun s _ => m == .timed && store && s.pFull) fun s ops pp =>
    match s.cur.phase with
    | .fire =>
      match s.partOf s.cur.ctx vers (target ops) with
      | .error c => s.raise m c
      | .ok (p, off) =>
        let ops1 := keepAt ops (partKey p off)
        if m = .block ∧ store then s.deferStore h i ops1 pp
        else
          let s1 := s.tagged
          let s2 := s1.expect m (s1.pLat p) n
          s2.request (.part p) (s2.carry .perform ops1 pp 0) i store
    | ph =>
      let p := keptAt ops / 2 ^ 21
      if ph = .commit ∧ !direct then s.request (.part p) { s.cur with phase := .perform } i true
      else if (ph = .commit ∧ s.reqs.any fun r => r.who.sameAgent s.cur && r.place == .part p) ∨ waits s p ops then s.hold
      else perform s (keptAt ops) (ops.dropLast) pp

/-- The result of a P access: a reply, or the commit's own. -/
def State.pResult (s : State) (m : Form) (r : ResW) : State :=
  match s.cur.phase with
  | .commit => s.complete m 0 false r
  | _ => s.answer m r

/-- An element load from P. -/
def State.pLoad (s : State) (m : Form) (d : Dst) (key sz : Nat) (sx : Bool) (ops : List Val) (pp : Bool) : State :=
  let v := signExt sx sz (s.pdb.load 8 key (2 ^ sz))
  s.pResult m (ResW.one d { v := v.v, p := v.p || anyPois ops pp } 0)

def State.pStore (s : State) (key sz : Nat) (v : Val) : State := { s with pdb := s.pdb.storeVal 8 key (2 ^ sz) v }

def execLdp (h : Hd) (d : Dst) (a : Src) (sz : BitVec 2) (sx : Bool) (s : State) : Out :=
  .next (s.pAccess (.ldp h d a sz sx) h [a] 1 false false false (2 ^ sz.toNat) (fun ops => (opn ops 0).v) (fun _ => none)
    (fun _ _ _ => false) fun s key ops pp => s.pLoad h.place.form d key sz.toNat sx ops pp)

def execPldx (h : Hd) (d : Dst) (a b : Src) (sz : BitVec 2) (sx : Bool) (s : State) : Out :=
  .next (s.pAccess (.pldx h d a b sz sx) h [a, b] 1 false false false (2 ^ sz.toNat)
    (fun ops => indexed sz.toNat (opn ops 0) (opn ops 1)) (fun _ => none) (fun _ _ _ => false)
    fun s key ops pp => s.pLoad h.place.form d key sz.toNat sx ops pp)

def execStp (h : Hd) (a b : Src) (sz : BitVec 2) (s : State) : Out :=
  .next (s.pAccess (.stp h a b sz) h [a, b] 0 true false false (2 ^ sz.toNat) (fun ops => (opn ops 0).v) (fun _ => none)
    (fun _ _ _ => false) fun s key ops pp => s.pStore key sz.toNat { v := (opn ops 1).v, p := anyPois ops pp })

/-- `pstx` reads its value through D. -/
def execPstx (h : Hd) (v a b : Src) (sz : BitVec 2) (s : State) : Out :=
  .next (s.pAccess (.pstx h v a b sz) h [v, a, b] 0 true false false (2 ^ sz.toNat)
    (fun ops => indexed sz.toNat (opn ops 1) (opn ops 2)) (fun _ => none) (fun _ _ _ => false)
    fun s key ops pp => s.pStore key sz.toNat { v := (opn ops 0).v, p := anyPois ops pp })

/-- PDB_ACCESS_PERFORMED: a request that has reached its partition is performed. -/
def execPdbAccessPerformed (part : Nat) (s : State) : Out :=
  .next (s.arrive (.part part))

/-- SCRATCH_ACCESS_PERFORMED: an untimed access that has reached its memory tile is performed (R127). -/
def execScratchAccessPerformed (tile : Nat) (s : State) : Out :=
  .next (s.arrive (.tile tile))

/-! ### Versioned words (R165, R166) -/

def State.versOf (s : State) (key : Nat) : Vers := tabGet Vers.init s.vers key

def State.setVers (s : State) (key : Nat) (v : Vers) : State := { s with vers := tabPut s.vers key v }

/-- A version operand with bits [63:32] set. -/
def versCheck (v : Val) : Option Nat := if v.v.bits 32 32 ≠ 0 then some ftAddr else none

/-- The key of the versioned word an access names; the word's own number of its partition. -/
def execVld (h : Hd) (d : Dst) (a b : Src) (scp : BitVec 3) (s : State) : Out :=
  let m := h.place.form
  .next (s.pAccess (.vld h d a b scp) h [a, b] 1 false false true 32 (fun ops => (opn ops 0).v) (fun ops => versCheck (opn ops 1))
    (fun s _ ops =>
      let w := s.versOf (keptAt ops)
      let v := (opn ops 1).v.toNat
      decide (w.rc < v) && decide (w.np < v))
    fun s key ops pp =>
      let v := (opn ops 1).v.toNat
      if v ≤ (s.versOf key).rc then s.raise m ftVersion
      else
        let x := s.pdb.load 8 (key + 8 * ((v - 1) % 4)) 8
        if x.p then s.raise m ftPoison
        else s.pResult m (ResW.one d { v := x.v, p := anyPois ops pp } 0))

def execVst (h : Hd) (d : Dst) (a b : Src) (scp : BitVec 3) (s : State) : Out :=
  let m := h.place.form
  .next (s.pAccess (.vst h d a b scp) h [a, b] 1 true true true 32 (fun ops => (opn ops 0).v) (fun _ => none)
    (fun s _ ops =>
      let w := s.versOf (keptAt ops)
      s.opsOut s.cur || decide (4 ≤ w.np - w.rc))
    fun s key ops pp =>
      let w := s.versOf key
      if w.np = 2 ^ 32 - 1 then s.raise m ftVersion
      else
        let s1 := s.pStore (key + 8 * (w.np % 4)) 3 { v := (opn ops 1).v, p := anyPois ops pp }
        (s1.setVers key { w with np := w.np + 1 }).pResult m (ResW.one d { v := Word.ofN (w.np + 1), p := anyPois ops pp } 0))

def execVrcl (h : Hd) (a b : Src) (scp : BitVec 3) (s : State) : Out :=
  let m := h.place.form
  .next (s.pAccess (.vrcl h a b scp) h [a, b] 0 true true true 32 (fun ops => (opn ops 0).v) (fun ops => versCheck (opn ops 1))
    (fun s _ _ => s.opsOut s.cur)
    fun s key ops _ =>
      let w := s.versOf key
      let v := (opn ops 1).v.toNat
      if w.np < v then s.raise m ftVersion else s.setVers key { w with rc := if w.rc < v then v else w.rc })

/-! ### Device memory through the decoupling queues (R150 to R154) -/

/-- The key of queue `q` of the issuer: its tile's in a timed region, its own in a block (R150). -/
def State.dqKey (s : State) (m : Form) (q : BitVec 2) : Nat :=
  match m with
  | .timed => 4 * s.curTile + q.toNat
  | .block => 4 * (4096 + s.cur.task) + q.toNat

def State.dq (s : State) (k : Nat) : Dq := tabGet Dq.init s.dqs k

def State.setDq (s : State) (k : Nat) (d : Dq) : State := { s with dqs := tabPut s.dqs k d }

/-- The queue of a D instruction. -/
def queueOf : Instr → Option (BitVec 2)
  | .dqld _ _ _ _ q => some q
  | .dqst _ _ _ _ q => some q
  | .dqpop _ _ q => some q
  | .dqwt _ q => some q
  | _ => none

def Issuer.tileOf (w : Issuer) : Nat := tileKey w.die w.x w.y

/-- Whether a request is of queue `q` of the issuer. -/
def State.ofQueue (s : State) (m : Form) (q : BitVec 2) (r : Req) : Bool :=
  (match m with
    | .timed => r.who.task == 0 && r.who.tileOf == s.curTile
    | .block => r.who.task == s.cur.task) && queueOf r.i == some q

/-- The checks of a D address: 48 bits, alignment, poison (R150, R152). -/
def dCheck (a : Val) (align : Nat) : Option Nat :=
  if a.v.bits 48 16 ≠ 0 then some ftAddr else if a.v.toNat % align ≠ 0 then some ftAlign else if a.p then some ftPoison else none

/-- The D sequence number of a request (R151): the tile's next, or the block's own window by LSID. -/
def State.dSeq (s : State) (h : Hd) : Nat × State :=
  match h.place with
  | .timed _ _ => s.nextD s.curTile 1
  | .block l => (s.curBlk.dbase + l.toNat, s)

/-- Places for the beats of a load, in sequence order (R151). -/
def addSlots (l : List (Nat × Option Val)) (seq n : Nat) : List (Nat × Option Val) :=
  let new := (List.range n).map fun j => (8 * seq + j, (none : Option Val))
  l.filter (fun p => p.1 < 8 * seq) ++ new ++ l.filter (fun p => ¬ p.1 < 8 * seq)

/-- The beats of a load that returns, to their places; a queue that is gone takes none. -/
def State.fillSlots (s : State) (k seq : Nat) (beats : List Val) : State :=
  let d := s.dq k
  s.setDq k { d with slots := d.slots.map fun p =>
    if p.1 / 8 = seq then (p.1, some (beats.getD (p.1 % 8) Val.zero)) else p }

/-- A D address translated through the issuer's queue cache (R304); a timed lane has only its pinned ranges (R275). -/
def State.dXlate (s : State) (m : Form) (va n : Nat) (write : Bool) : Except XFail Nat × State :=
  if s.laneMay (s.issuerLane m) s.cur.die va n then s.xlate s.cur.die 1 s.cur.ctx va write else (.error .notPresent, s)

/-- `dqld`: issued when it fires, performed at its channel. A stream command that delivers into the queue shuts it out (R199). -/
def execDqld (h : Hd) (a : Src) (sz : BitVec 2) (line : Bool) (q : BitVec 2) (s : State) : Out :=
  let m := h.place.form
  let i : Instr := .dqld h a sz line q
  let n := if line then 8 else 1
  .next (s.act h [a] 0
    (fun s ops => if (s.dq (s.dqKey m q)).live ≠ 0 then some ftAddr else dCheck (opn ops 0) (dBytes sz line))
    (fun s _ => decide (32 ≤ (s.reqs.filter (s.ofQueue m q)).length) || decide (64 < (s.dq (s.dqKey m q)).slots.length + n))
    fun s ops pp => match s.cur.phase with
      | .fire =>
        let va := (opn ops 0).v.toNat
        match s.dXlate m va (dBytes sz line) false with
        | (.error r, s1) => s1.pageFault m va false r
        | (.ok pa, s1) =>
          let sq := s1.dSeq h
          let k := s.dqKey m q
          let d := sq.2.dq k
          let s2 := sq.2.setDq k { d with slots := addSlots d.slots sq.1 n }
          let s3 := s2.request (.chan s.curTile (paDie pa * 16 + s2.chanOf pa)) (s2.carry .perform (keepAt ops pa) pp sq.1) i false sq.1
          s3.complete m 1 false {}
      | _ =>
        let pa := keptAt ops
        let k := s.dqKey m q
        let beats := if line then (List.range 8).map fun j => s.dLoad (pa + 8 * j) 8 else [s.dLoad pa (2 ^ sz.toNat)]
        s.fillSlots k s.cur.dist (beats.map fun v => { v with p := v.p || pp }))

/-- The bytes a `dqst` stores, and whether they are written as poison. -/
def dqBytes (b : DqVal) (vs : List Val) : List Byte :=
  match b with
  | .elem _ sz => bytesOfNat (2 ^ sz.toNat) (opn vs 0).v.toNat
  | .line _ => (vs.map fun v => bytesOfWord v.v).flatten

/-- `dqst`: issued when it fires in a timed region, in the commit of a block; performed at its channel, which acknowledges it. -/
def execDqst (h : Hd) (a : Src) (b : DqVal) (scp : BitVec 3) (q : BitVec 2) (s : State) : Out :=
  let m := h.place.form
  let i : Instr := .dqst h a b scp q
  let issue (s : State) (who : Issuer) (pa : Nat) : State :=
    let sq := s.dSeq h
    sq.2.request (.chan s.curTile (paDie pa * 16 + sq.2.chanOf pa)) { who with dist := sq.1 } i true sq.1
  .next (s.act h (a :: dqValSrcs b) 0
    (fun s ops => match dCheck (opn ops 0) (dqWidth b) with
      | some c => some c
      | none => if scp = 4 ∧ ((ops.drop 1).any (fun v => v.p) ∨ (s.fires h).2) then some ftPoison else none)
    (fun s _ => decide (32 ≤ (s.reqs.filter (s.ofQueue m q)).length))
    fun s ops pp => match s.cur.phase with
      | .fire =>
        let va := (opn ops 0).v.toNat
        match s.dXlate m va (dqWidth b) true with
        | (.error r, s1) => s1.pageFault m va true r
        | (.ok pa, s1) =>
          match m with
          | .timed => (issue s1 (s1.carry .perform (keepAt ops pa) pp 0) pa).complete .timed 1 false {}
          | .block => s1.deferStore h i (keepAt ops pa) pp
      | .commit =>
        if 32 ≤ (s.reqs.filter (s.ofQueue m q)).length then s.hold else issue s { s.cur with phase := .perform } (keptAt ops)
      | .perform =>
        let vs := ops.dropLast.drop 1
        s.dStore (keptAt ops) (dqBytes b vs) (pp || vs.any fun v => v.p))

/-- `dqpop`: the oldest beat. -/
def execDqpop (h : Hd) (d : Dst) (q : BitVec 2) (s : State) : Out :=
  let m := h.place.form
  let before (s : State) : Bool := s.lowerUnfired (lsidNo (.dqpop h d q)) fun i => match i with
    | .dqld _ _ _ _ q' => q' == q
    | .dqpop _ _ q' => q' == q
    | _ => false
  .next (s.act h [] 0
    (fun s _ =>
      let e := s.dq (s.dqKey m q)
      if !before s ∧ e.slots.isEmpty ∧ e.live = 0 then some (match m with
        | .timed => ftTime
        | .block => ftAddr) else none)
    (fun s _ => before s || (match (s.dq (s.dqKey m q)).slots with
      | (_, some _) :: _ => false
      | _ => true))
    fun s _ pp =>
      let k := s.dqKey m q
      let e := s.dq k
      match e.slots with
      | (_, some v) :: r => (s.setDq k { e with slots := r }).complete m 1 false (ResW.one d { v := v.v, p := v.p || pp } 0)
      | _ => s.hold)

/-- `dqwt`: in a block, for the stores of the task's earlier blocks on every queue (R153). -/
def execDqwt (h : Hd) (q : BitVec 2) (s : State) : Out :=
  let m := h.place.form
  .next (s.act h [] 0 (fun _ _ => none)
    (fun s _ => s.reqs.any fun r => r.store && (match m with
      | .timed => s.ofQueue .timed q r && r.who.earlier s.cur
      | .block => r.who.task == s.cur.task && (queueOf r.i).isSome))
    fun s _ _ => s.complete m 1 false {})

/-- D_REQUEST_PERFORMED: of the requests of one tile to one channel the first in sequence order, once its channel has served it, its
time has come, no load of the same block with a lower LSID is still to be issued (R151), and nothing that its agent did before it
holds it (R157 to R162). -/
def execDRequestPerformed (tile chan : Nat) (s : State) : Out :=
  let here := s.reqs.filter fun r => r.place == .chan tile chan
  let first := here.foldl (fun (acc : Option Req) r => match acc with
    | none => some r
    | some a => if r.seq < a.seq then some r else acc) none
  .next (match first with
    | none => s
    | some r =>
      let gap := r.who.task != 0 && !r.store && { s with cur := r.who }.lowerUnfired (lsidNo r.i) fun i => match i with
        | .dqld _ _ _ _ _ => true
        | _ => false
      if r.served ∧ r.at_ ≤ s.cycle ∧ !gap ∧ !s.asleep r ∧ !s.mustWait (s.reqs.takeWhile fun e => e != r) r then s.soon (.perform r)
      else s)

/-! ### The arbiter of a channel (R155, R156) -/

/-- The timed lane that issued a request (R273). -/
def State.reqLane (s : State) (r : Req) : Option (Nat × Nat) :=
  if r.who.task = 0 then (s.regionOn r.who.ctx r.who.handle r.who.die).lane else none

/-- The timed lane that owns a slot of a channel, by an installed table's plan; the channels count over the four dies. -/
def State.slotOwner (s : State) (chan k : Nat) : Option (Nat × Nat) :=
  s.tabs.findSome? fun t => (t.2.arb.find? fun a => a.2.1 == chan / 16 && a.2.2.1 == chan % 16 && a.2.2.2.testBit k).map fun a =>
    (t.2.slot, a.1)

/-- Rank of unowned traffic: table lanes, then realtime, normal and background work. -/
def State.reqRank (s : State) (r : Req) : Nat :=
  if (s.reqLane r).isSome then 0
  else if r.who.task = 0 then (s.regionOn r.who.ctx r.who.handle r.who.die).prio else (s.task r.who.task).prio

/-- Requests in the order of a measure; equal ones keep their order. -/
def insReq (key : Req → Nat) : List Req → Req → List Req
  | [], r => [r]
  | e :: l, r => if key r < key e then r :: e :: l else e :: insReq key l r

/-- As many of the first requests as a slot moves: 1 KiB. -/
def slotTake : Nat → List Req → List Req
  | _, [] => []
  | left, r :: l => if accBytes r.i ≤ left then r :: slotTake (left - accBytes r.i) l else []

/-- A request served: it completes at a free later time, at most 600 ns on for a lane's request to its own die (R156). -/
def State.serve (s : State) (r : Req) : State :=
  let d := s.delay
  let at1 := s.cycle + 1 + (if s.nearLane r.place r.who then d.1 % 599 else d.1)
  { d.2 with reqs := d.2.reqs.map fun q => if q = r then { q with served := true, at_ := at1 } else q }

/-- ARBITER_SLOT_START: slot k of the channel's frame of 1,024 cycles begins. Slots 0 and 16 serve nothing; an owned one takes its
lane's waiting requests in sequence order; one that is unowned, or whose lane waits for nothing, serves unowned traffic by the
priority of the issuing work and in order of arrival. -/
def execArbiterSlotStart (die chan : Nat) (s : State) : Out :=
  let k := s.cycle % 1024 / 32
  let here := s.reqs.filter fun r => !r.served && decide (r.at_ ≤ s.cycle) && (match r.place with
    | .chan _ c => c == 16 * die + chan
    | _ => false)
  let mine := match s.slotOwner (16 * die + chan) k with
    | some l => here.filter fun r => s.reqLane r == some l
    | none => []
  let order := if mine.isEmpty then (here.foldl (insReq Req.at_) []).foldl (insReq s.reqRank) [] else mine.foldl (insReq Req.seq) []
  .next (if s.cycle % 32 ≠ 0 ∨ k % 16 = 0 then s else (slotTake 1024 order).foldl State.serve s)

/-! ### Fences (R162) -/

/-- What a fence of a timed region waits for: what the region issued in earlier cycles, with its release part everything, with its
acquire part what returns a value. What an access to the region's own page comes before, or such an access itself, is performed in
region cycles only (R73): later operations are held behind it (log entry 67). -/
def State.fenceHolds (s : State) (acq : Bool) : Bool :=
  let past (w : Issuer) : Bool := w.earlier s.cur && decide (w.fired < s.curRegion.t)
  s.reqs.any (fun r => past r.who && (!acq || !r.store) && !s.accFirst r) || s.replies.any (fun r => past r.who)
    || (!acq && s.cinvs.any fun c => past c.who)

/-- In a timed region a fence waits with its region. In a block it stands at the block boundary: the block's instructions fire once
the operations of earlier blocks are performed. -/
def execFence (h : Hd) (scp : BitVec 3) (kind : FenceKind) (s : State) : Out :=
  let m := h.place.form
  let _ := scp
  .next (s.act h [] 0 (fun _ _ => none)
    (fun s _ => m == .timed && s.fenceHolds (kind == .acq))
    fun s _ _ => (match m with
      | .timed => s.setCurRegion { s.curRegion with fenceAt := s.curRegion.t }
      | .block => s).complete m 1 false {})

/-! ### Timeline counters (R163, R164) -/

/-- The number of a counter in a context's order (R341), under the checks of R163. -/
def counterIdx (a : Word) : Option Nat :=
  let i := a.bits 0 6
  let at_ : Option Nat := match a.bits 11 3 with
    | 0 => if i < 8 then some i else none
    | 1 => if i < 16 then some (8 + i) else none
    | 2 => if i = 0 then some 24 else none
    | 3 => some (25 + i)
    | _ => none
  if a.bits 16 48 ≠ 0 ∨ a.bits 6 5 ≠ 0 then none else at_.map fun n => a.bits 14 2 * 89 + n

def counterKey (ctx idx : Nat) : Nat := ctx * 356 + idx

def State.counter (s : State) (k : Nat) : Counter := tabGet Counter.init s.counters k

def State.setCounter (s : State) (k : Nat) (c : Counter) : State := { s with counters := tabPut s.counters k c }

/-- The physical die of a logical die of a context (R339). -/
def State.physDie (s : State) (ctx d : Nat) : Nat := (s.pkgCsr (0x8B80 + ctx)).bits (50 + 2 * d) 2

def counterCheck (a : Val) (others : List Val) (soft : Bool) : Option Nat :=
  if counterIdx a.v = none ∨ (soft ∧ a.v.bits 11 3 ≠ 3) then some ftAddr
  else if a.p ∨ others.any (fun v => v.p) then some ftPoison else none

/-- A counter raised to at least `n`. -/
def State.signal (s : State) (k n : Nat) : State :=
  let c := s.counter k
  s.setCounter k { c with v := if c.v < n then n else c.v }

def execTlsig (h : Hd) (a b : Src) (scp : BitVec 3) (s : State) : Out :=
  .next (s.send (.tlsig h a b scp) h [a, b] 0 true (fun _ ops => counterCheck (opn ops 0) (ops.drop 1) true) (fun _ _ => false)
    (fun s ops _ => match counterIdx (opn ops 0).v with
      | some k => s.signal (counterKey s.cur.ctx k) (opn ops 1).v.toNat
      | none => s) 1)

/-- A counter's latency: 8 cycles on the issuing die, 64 elsewhere (R164). -/
def State.counterLat (s : State) (a : Word) : Nat := if s.physDie s.cur.ctx (a.bits 14 2) = s.cur.die then 8 else 64

def markAt (c : Counter) (n : Nat) : Bool :=
  match c.mark with
  | some m => decide (m ≤ n)
  | none => false

def execTlwt (h : Hd) (a b : Src) (scp : BitVec 3) (s : State) : Out :=
  let m := h.place.form
  let _ := scp
  .next (s.act h [a, b] 0 (fun _ ops => counterCheck (opn ops 0) (ops.drop 1) false)
    (fun s ops => decide ((s.counter (counterKey s.cur.ctx ((counterIdx (opn ops 0).v).getD 0))).v < (opn ops 1).v.toNat))
    fun s ops _ =>
      if markAt (s.counter (counterKey s.cur.ctx ((counterIdx (opn ops 0).v).getD 0))) (opn ops 1).v.toNat then s.raise m ftPoison
      else s.complete m (s.counterLat (opn ops 0).v) false {})

def execTlrd (h : Hd) (d : Dst) (a : Src) (s : State) : Out :=
  let m := h.place.form
  .next (s.act h [a] 1 (fun _ ops => counterCheck (opn ops 0) [] false) (fun _ _ => false) fun s ops pp =>
    let c := s.counter (counterKey s.cur.ctx ((counterIdx (opn ops 0).v).getD 0))
    let s1 := s.tagged
    (s1.expect m (s1.counterLat (opn ops 0).v) 1).answer m (ResW.one d { v := Word.ofN c.v, p := pp || markAt c c.v } 0))

end Sys2Proof.Machine
end

