-- ==== Sys2Proof/Machine/Work.lean ====
section
/-! DEFINITION. Serials, completion words, jobs, graphs and the end of a card (R229, R230, R254, R255, R320, R324). -/

namespace Sys2Proof.Machine

/-! ### Serials and completion words -/

/-- Levels of R232: launch, graph, phase, job. -/
def lvLaunch : Nat := 0
def lvGraph : Nat := 1
def lvPhase : Nat := 2
def lvJob : Nat := 3

/-- The next serial of a context and level: from 1 up, modulo 2^24. -/
def State.nextSerial (s : State) (ctx level : Nat) : Nat × State :=
  let n := (tabGet 0 s.serials (4 * ctx + level) + 1) % 2 ^ 24
  (n, { s with serials := tabPut s.serials (4 * ctx + level) n })

def complWord (state code serial count : Nat) : Word :=
  Word.ofN (state * 2 ^ 60 + code * 2 ^ 52 + serial * 2 ^ 28 + (if count < 2 ^ 28 then count else 2 ^ 28 - 1))

/-- The state and code of an object whose children have all ended (R230). -/
def endOf (cancelled : Bool) (bad : Option Nat) : Nat × Nat :=
  if cancelled then (stCancelled, 0)
  else match bad with
    | some c => (stAborted, c)
    | none => (stDone, 0)

/-! ### Jobs (R320, R324) -/

def State.job (s : State) (ctx k : Nat) : Job := tabGet Job.init s.jobs (1024 * ctx + k)

def State.setJob (s : State) (ctx k : Nat) (j : Job) : State := { s with jobs := tabPut s.jobs (1024 * ctx + k) j }

/-- The lowest slot of a context that is unused or whose job is over. -/
def freeSlot {α : Type} (t : Tab α) (ctx : Nat) (ended : α → Bool) : Option Nat :=
  let used := (t.filter fun p => p.1 / 1024 == ctx && !ended p.2).map fun p => p.1 % 1024
  let k := leastFree used 0
  if k < 1024 then some k else none

/-- A job whose children have all ended is terminal: its completion word goes to its signal, and a COMPLETE event to the host. -/
def State.settleJob (s : State) (ctx k : Nat) : State :=
  let j := s.job ctx k
  if j.kids ≠ 0 ∨ j.final.isSome then s
  else
    let e := endOf j.cancelled j.bad
    let w := complWord e.1 e.2 j.serial j.count
    let s1 := s.setJob ctx k { j with final := some w }
    let s2 := if j.csig = 0 then s1 else match s1.vStore j.die 2 ctx j.csig (bytesOfWord w) false with
      | .ok s' => s'
      | .error _ => s1
    if j.evt then s2.sendEvent { kind := 1, code := 0, queue := j.queue, ctx := ctx, die := j.die, tag := j.tag, data0 := w,
                                 data1 := Word.ofN j.index }
    else s2

/-- A child of a job begins. -/
def State.jobBegin (s : State) (ctx : Nat) (k : Option Nat) : State :=
  match k with
  | none => s
  | some k => s.setJob ctx k { s.job ctx k with kids := (s.job ctx k).kids + 1 }

/-- The code that an object keeps once a child ends: the first ABORTED one recorded, the lowest of those of one cycle (R230). -/
def firstBad (bad : Option Nat) (at_ cycle st code : Nat) : Option Nat × Nat :=
  if st ≠ stAborted then (bad, at_)
  else match bad with
    | none => (some code, cycle)
    | some c => (some (if at_ = cycle ∧ code < c then code else c), at_)

/-- A child of a job ends in state `st` with `code`. -/
def State.jobEnd (s : State) (ctx : Nat) (k : Option Nat) (st code : Nat) : State :=
  match k with
  | none => s
  | some k =>
    let j := s.job ctx k
    (s.setJob ctx k { j with kids := j.kids - 1, count := j.count + 1,
                             bad := (firstBad j.bad j.badAt s.cycle st code).1, badAt := (firstBad j.bad j.badAt s.cycle st code).2 }).settleJob ctx k

/-! ### Graphs (R255) -/

def State.graph (s : State) (ctx k : Nat) : Graph := tabGet Graph.init s.graphs (1024 * ctx + k)

def State.setGraph (s : State) (ctx k : Nat) (g : Graph) : State := { s with graphs := tabPut s.graphs (1024 * ctx + k) g }

/-- A graph whose posted cards have all ended is over (R254, R255). -/
def State.settleGraph (s : State) (ctx k : Nat) : State :=
  let g := s.graph ctx k
  if g.live ≠ 0 ∨ g.final.isSome then s
  else
    let bad := match g.dropped with
      | some c => some (g.bad.getD c)
      | none => g.bad
    let e := endOf g.cancelled bad
    (s.setGraph ctx k { g with final := some (complWord e.1 e.2 g.serial g.count) }).jobEnd ctx g.job e.1 e.2

/-- A posted card of a graph has ended. -/
def State.graphEnd (s : State) (ctx : Nat) (k : Option Nat) (st code : Nat) : State :=
  match k with
  | none => s
  | some k =>
    let g := s.graph ctx k
    (s.setGraph ctx k { g with live := g.live - 1, count := g.count + 1,
                               bad := (firstBad g.bad g.badAt s.cycle st code).1
                               badAt := (firstBad g.bad g.badAt s.cycle st code).2 }).settleGraph ctx k

end Sys2Proof.Machine
end

