-- ==== Sys2Proof/Machine/Kernel.lean ====
section
/-! DEFINITION. Kernels: configuration tables and caches, placement, loading, arming, drain, quiescence and the end of a launch
(R215 to R231, R294 to R298, R319). -/

namespace Sys2Proof.Machine

/-! ### Fabric pages (R294, R295) -/

def State.page (s : State) (die n : Nat) : FPage := tabGet FPage.init s.pages (64 * die + n)

def State.setPage (s : State) (die n : Nat) (p : FPage) : State := { s with pages := tabPut s.pages (64 * die + n) p }

/-- The page state that shows a region's state (R294, R295). -/
def pageStOf (r : Region) : PageSt :=
  if r.saving ∧ (r.st = .running ∨ r.st = .draining ∨ r.st = .halted) then .saving
  else if r.moving.isSome then .moving
  else match r.st with
  | .queued => .allocated
  | .loading => .loading
  | .arming => .running
  | .running => .running
  | .halted => .running
  | .draining => .draining
  | .ready => if r.lane.isSome then .reserved else .allocated
  | _ => .saving

/-- The pages of a region changed by `f`. -/
def State.onPages (s : State) (r : Region) (f : FPage → FPage) : State :=
  r.pageList.foldl (fun s n => s.setPage r.die n (f (s.page r.die n))) s

/-- The pages of a region show its state; a lent page stays LENT (R294), and a RETIRED one RETIRED. A page in which a program stands
holds its context's data (R295). -/
def State.syncPages (s : State) (ctx h die : Nat) : State :=
  let r := s.regionOn ctx h die
  let st := pageStOf r
  let own := st == .loading || st == .running || st == .draining
  s.onPages r fun p =>
    { p with st := if p.st = .lent ∨ p.st = .retired then p.st else st, handle := h, ctx := ctx, lctx := if own then ctx else p.lctx, lv := own || p.lv }

/-- Marking (R300) carried out on a page that has become free. -/
def FPage.settle (p : FPage) : FPage := if p.st = .free ∧ p.retp then { p with st := .retired } else p

/-- Whether a page is in the die's pool by `EXPOOL` (R239). -/
def State.pooled (s : State) (die n : Nat) : Bool := (s.dcsrAt die 0x8210).bit n

/-- A page that has become free: retired when it is marked, pooled when `EXPOOL` asks for it. -/
def State.freed (s : State) (die n : Nat) (p : FPage) : State :=
  let q := { p with st := .free }.settle
  s.setPage die n (if q.st = .free ∧ s.pooled die n then { q with st := .pool } else q)

/-- The scrub of a page (R298): its scratch, row files, latches, predicates, flags and constants. -/
def State.scrub (s : State) (die n : Nat) : State :=
  let mine (t : Nat) : Bool := tileDie t == die && pageOf (tileX t) (tileY t) == n
  let s1 := s.renewIn spS fun k => mine (k / 2 ^ 16)
  { s1 with
    mem := { cells := s.mem.cells.filter fun c => !mine (c.1 / 2 ^ 18), pois := s.mem.pois.filter fun g => !mine (g / 2 ^ 16) }
    rows := s.rows.filter fun e => !mine (e.1 / 192)
    pes := s.pes.map fun e => if mine (e.1 / 16) then (e.1, { Pe.init with list := e.2.list, tags := e.2.tags, bad := e.2.bad }) else e }

/-- A page taken for context `c`: scrubbed when it may hold another context's data (R298). -/
def State.take (s : State) (die n c h : Nat) (st : PageSt) : State :=
  let p := s.page die n
  let s1 := if p.lv && p.lctx != c then s.scrub die n else s
  s1.setPage die n { p with st := st, handle := h, ctx := c, lctx := c, lv := true }

/-- The pages of a region returned: FREE, or RESERVED for the lane that lent them, scrubbed for it when R298 asks. -/
def State.freePages (s : State) (r : Region) (ctx : Nat) (laneCtx : Nat → Nat → Nat) : State :=
  r.pageList.foldl (fun s n =>
    let p := { s.page r.die n with handle := 0, ctx := 0, lctx := ctx, lv := true }
    match p.rsv with
    | none => s.freed r.die n p
    | some (slot, lane) =>
      if laneCtx slot lane ≠ ctx then (s.scrub r.die n).setPage r.die n { p with st := .reserved, lv := false }
      else s.setPage r.die n { p with st := .reserved }) s

/-! ### Configuration table and cache (R215 to R217) -/

/-- `n` words from a virtual address through the front end's cache of a die. -/
def State.readWords (s : State) (die ctx : Nat) : Nat → Nat → Except Nat (List Word) × State
  | _, 0 => (.ok [], s)
  | va, n + 1 =>
    match s.vLoad die 2 ctx va 8 with
    | (.error _, s1) => (.error ftPage, s1)
    | (.ok v, s1) => match s1.readWords die ctx (va + 8) n with
      | (.error c, s2) => (.error c, s2)
      | (.ok ws, s2) => (.ok (v.v :: ws), s2)

/-- Bytes of the cache area of a die (R430). -/
def State.cacheBytes (s : State) (die : Nat) : Nat := (s.dcsrAt die 0x8220).bits 0 12 * 2 ^ 20

/-- The configuration handle of what stands in a region's pages or is streamed into them, and whether that copy is stale. -/
def Region.resident (r : Region) : Nat × Bool :=
  match r.kept with
  | some k => (k.cfg, k.stale)
  | none => (r.cfg, r.stale)

/-- Whether a copy is in use: held resident, streamed by a load, or pinned (R216). -/
def State.copyUsed (s : State) (c : Copy) : Bool :=
  !c.pins.isEmpty || s.regions.any fun p =>
    p.1 / 4 / 256 == c.ctx && p.2.die == c.die && p.2.resident == (c.handle, c.stale) && p.2.live && (p.2.st != .queued || p.2.was == .ready)

/-- The cache without stale copies whose last use has ended (R217). -/
def State.dropStale (s : State) : State := { s with ccache := s.ccache.filter fun c => !c.stale || s.copyUsed c }

/-- The copies of a die without the least recently used that are not in use, until `room` bytes are free, counted from the
last. -/
def State.evict (s : State) (die room : Nat) : Nat → List Copy → List Copy
  | 0, l => l
  | fuel + 1, l =>
    let used := ((l.filter fun c => c.die == die).map fun c => 8 * c.image.length).foldl (· + ·) 0
    if used + room ≤ s.cacheBytes die then l
    else match (l.filter fun c => c.die == die && !s.copyUsed c).getLast? with
      | none => l
      | some c => s.evict die room fuel (l.erase c)

/-- A validated image kept in its die's cache where it finds room. -/
def State.keep (s0 : State) (c : Copy) : State :=
  let s := s0.dropStale
  let l := s.evict c.die (8 * c.image.length) s.ccache.length s.ccache
  let used := ((l.filter fun e => e.die == c.die).map fun e => 8 * e.image.length).foldl (· + ·) 0
  if used + 8 * c.image.length ≤ s.cacheBytes c.die then { s with ccache := c :: l } else s

/-- A lookup of configuration `h` of a context on a die: a valid copy, or the image fetched and checked (R215, R216, R61). -/
def State.lookup (s : State) (die ctx h : Nat) : Except Nat (List Word) × State :=
  match s.ccache.find? fun c => c.die == die && c.ctx == ctx && c.handle == h && !c.stale with
  | some c => (.ok c.image, { s with ccache := c :: s.ccache.erase c })
  | none =>
    let t := s.ccsrAt ctx 0x1010
    if t.bits 0 10 < h then (.error ecfgCheck, s)
    else match s.readWords die ctx (t.bits 12 36 * 4096 + 16 * h) 2 with
      | (.error c, s1) => (.error c, s1)
      | (.ok ws, s1) =>
        let a := ws.getD 0 0
        let e := ws.getD 1 0
        let len := e.bits 0 32
        if !e.bit 32 ∨ e.bits 33 31 ≠ 0 ∨ a.bits 48 16 ≠ 0 ∨ a.bits 0 3 ≠ 0 then (.error ecfgCheck, s1)
        else match s1.readWords die ctx a.toNat (len / 8) with
          | (.error c, s2) => (.error c, s2)
          | (.ok img, s2) => match imgError img len with
            | some c => (.error c, s2)
            | none => (.ok img, s2.keep { die := die, ctx := ctx, handle := h, image := img, pins := [], stale := false })

/-- The invalidation of R217 on every die: cached copies that are not in use go; those in use, and the regions that hold one, are
stale. -/
def State.cfgInvalidate (s : State) (ctx : Nat) (h : Option Nat) : State :=
  let hit (k : Nat) : Bool := match h with
    | none => true
    | some x => k == x
  let mine (c : Copy) : Bool := c.ctx == ctx && hit c.handle
  { s with
    ccache := (s.ccache.filter fun c => !mine c || s.copyUsed c).map fun (c : Copy) => if mine c then { c with stale := true } else c
    regions := s.regions.map fun p => if p.1 / 4 / 256 = ctx ∧ p.2.live then
      (p.1, { p.2 with stale := p.2.stale || hit p.2.cfg
                       kept := p.2.kept.map fun k => { k with stale := k.stale || hit k.cfg } }) else p }

/-- What stands in a region's pages before a launch that may load another configuration. -/
def Region.keptNow (r : Region) : Kept :=
  { cfg := r.cfg, image := r.image, stale := r.stale, shw := r.shw, shh := r.shh, period := r.period, stages := r.stages, rm := r.rm,
    leave := r.leave, ports := r.ports }

/-- A region back at the configuration that stands in its pages: its launch ended before any page was written (R233). -/
def Region.unload (r : Region) : Region :=
  match r.kept with
  | none => r
  | some k => { r with cfg := k.cfg, image := k.image, stale := k.stale, shw := k.shw, shh := k.shh, period := k.period, stages := k.stages,
                       rm := k.rm, leave := k.leave, ports := k.ports, kept := none }

/-! ### The dispatcher (R219, R233) -/

/-- States of R340 in `CTXSTAT`. -/
def State.ctxState (s : State) (ctx : Nat) : Nat := (s.pkgCsr (0x8B80 + ctx)).bits 60 4

def ctxFree : Nat := 0
def ctxActive : Nat := 1
def ctxSaving : Nat := 2
def ctxSaved : Nat := 3
def ctxRestoring : Nat := 4
def ctxEnding : Nat := 5

/-- The handle a new region takes (R219): the lowest FREE one, else the lowest ENDED one. -/
def State.newHandle (s : State) (ctx : Nat) : Option Nat :=
  let used := rowsOf ((s.regions.filter fun p => p.1 / 4 / 256 == ctx && p.2.st != .free).map fun p => p.1 / 4 % 256)
  let live := rowsOf ((s.regions.filter fun p => p.1 / 4 / 256 == ctx && p.2.live).map fun p => p.1 / 4 % 256)
  if leastFree used 0 < 256 then some (leastFree used 0)
  else if leastFree live 0 < 256 then some (leastFree live 0) else none

/-- The word that `launch` returns. -/
def launchWord (status serial h : Nat) : Word :=
  if status = 0 then Word.ofN (serial * 2 ^ 24 + h) else Word.ofN (2 ^ 63 + status * 2 ^ 8)

/-- The tail of a FIFO, or its head. -/
def State.fifoNo (s : State) (head : Bool) : Int :=
  s.regions.foldl (fun n p => if head then (if p.2.order ≤ n then p.2.order - 1 else n)
    else if n ≤ p.2.order then p.2.order + 1 else n) 0

/-! ### A context that is being saved (R333) -/

/-- The live regions of a context that no table lane holds, by handle and die. -/
def State.ownRegions (s : State) (ctx : Nat) (p : Region → Bool) : List (Nat × Nat) :=
  (s.regions.filter fun e => e.1 / 4 / 256 == ctx && e.2.lane.isNone && p e.2).map fun e => (e.1 / 4 % 256, e.2.die)

def State.ladder (s : State) (ctx : Nat) : Ladder := tabGet { rung := 0, since := 0 } s.ladders ctx

/-- Whether the context holds fabric pages with work that is not at rest. -/
def State.workLeft (s : State) (ctx : Nat) : Bool :=
  !(s.ownRegions ctx fun r => r.st == .loading || r.st == .arming || r.st == .running || r.st == .draining || r.st == .halted).isEmpty

/-- A context whose tasks, streams and islands stop: at rung 2, or when rung 1 has left no region at work (R333). -/
def State.ctxStops (s : State) (ctx : Nat) : Bool :=
  s.ctxState ctx == ctxSaving && (decide (2 ≤ (s.ladder ctx).rung) || !s.workLeft ctx)

/-- A context whose tasks, streams and collectives go on: an ACTIVE one, and one whose regions drain at rung 1. -/
def State.ctxWorks (s : State) (ctx : Nat) : Bool := s.ctxState ctx == ctxActive || (s.ctxState ctx == ctxSaving && !s.ctxStops ctx)

/-- A launch at the dispatcher: STATUS of R233, the word for D, and the state. An accepted launch waits in QUEUED; a relaunch
of the region's own configuration goes on to ARMING after the decision time (R224). -/
def State.accept (s : State) (q : LaunchReq) : Nat × Word × State :=
  let refuse (st : Nat) : Nat × Word × State := (st, launchWord st 0 0, s)
  let cs := s.ctxState q.ctx
  if cs = ctxFree ∨ cs = ctxEnding then refuse 1
  else if q.op.bit 24 then
    let h := q.op.bits 16 8
    let r := s.region q.ctx h
    if !r.live ∨ r.lane.isSome then refuse 4
    else if r.st ≠ .ready then refuse 3
    else if s.downDies.contains r.die then refuse 5
    else
      let n := s.nextSerial q.ctx lvLaunch
      let ph := if q.isSeq then n.2.nextSerial q.ctx lvPhase else (r.phaseSerial, n.2)
      let r1 := { r with st := .queued, was := .ready, ready := false, kept := some r.keptNow, n := q.n, serial := n.1, recAddr := q.recAddr, prio := q.prio, queue := q.queue,
                         job := q.job, graph := q.graph, card := q.card, inl := q.inl, cfg := q.op.bits 0 10,
                         stale := r.stale || q.op.bits 0 10 != r.cfg, due := n.2.cycle + 8, waitAt := n.2.cycle,
                         seq := if q.isSeq then some q.recAddr else none, stepNo := 0, order := n.2.fifoNo false,
                         cLoad := 0, cFill := 0, cSteady := 0, cDrain := 0, kill := none, lrel := q.lrel, lisl := q.lisl,
                         phase := if q.isSeq then Compl.unknown else r.phase, phaseSerial := ph.1 }
      (0, launchWord 0 n.1 h, (ph.2.setRegion q.ctx h r.die r1).jobBegin q.ctx (if q.card.isSome then none else q.job))
  else if s.downDies.contains q.die then refuse 5
  else match s.newHandle q.ctx with
    | none => refuse 2
    | some h =>
      let n := s.nextSerial q.ctx lvLaunch
      let old := s.regions.filter fun p => p.1 / 4 != q.ctx * 256 + h
      let r : Region := { Region.init with
        st := .queued, die := q.die, cfg := q.op.bits 0 10, n := q.n, serial := n.1, recAddr := q.recAddr, prio := q.prio,
        queue := q.queue, job := q.job, graph := q.graph, card := q.card, inl := q.inl, due := n.2.cycle + 8, waitAt := n.2.cycle,
        seq := if q.isSeq then some q.recAddr else none, order := n.2.fifoNo false, lrel := q.lrel, lisl := q.lisl }
      let ph := if q.isSeq then n.2.nextSerial q.ctx lvPhase else (0, n.2)
      (0, launchWord 0 n.1 h, (({ ph.2 with regions := old }).setRegion q.ctx h q.die { r with phaseSerial := ph.1 }).jobBegin
        q.ctx (if q.card.isSome then none else q.job))

/-! ### The end of a launch (R220, R225, R227) -/

/-- Instances finished (R230). -/
def Region.finished (r : Region) : Nat :=
  let a := r.admission
  let f := a - (r.stages - 1)
  if f < r.n then f else r.n

/-- The launch's completion word as it stands (R230). -/
def Region.word (r : Region) : Word :=
  match r.st with
  | .queued => complWord 0 0 r.serial 0
  | .loading => complWord 1 0 r.serial 0
  | .arming => complWord 1 0 r.serial 0
  | .running => complWord 2 0 r.serial r.finished
  | .draining => complWord 2 0 r.serial r.finished
  | .halted => complWord 3 0 r.serial r.finished
  | .saved => complWord 4 0 r.serial r.finished
  | _ => complWord r.compl.state r.compl.code r.compl.serial r.compl.count

/-- The launch's work identifier (R229). -/
def workId (serial h : Nat) : Word := Word.ofN (serial * 2 ^ 24 + h)

/-- What is in flight of a region discarded (R220, R406): results, accesses, beats, its requests and replies, its timed sequencer
channels and its queues' beats. -/
def State.discard (s : State) (ctx h die : Nat) : State :=
  let r := s.regionOn ctx h die
  let mine (w : Issuer) : Bool := w.task == 0 && w.ctx == ctx && w.handle == h && w.die == die
  { s.setRegion ctx h die { r with pend := [], acc := [], flights := [], faults := [], consts := [], seeds := [] } with
    reqs := s.reqs.filter fun q => !mine q.who
    replies := s.replies.filter fun q => !mine q.who
    dqs := s.dqs.filter fun q => !(decide (q.1 < 16384) && r.holds (q.1 / 4))
    tiles := s.tiles.map fun t => if r.holds t.1 then (t.1, { t.2 with chans := t.2.chans.filter fun c => !c.2.timed }) else t }

/-- The row files of a region zeroed. -/
def State.zeroRows (s : State) (r : Region) : State := { s with rows := s.rows.filter fun e => !r.holds (e.1 / 192) }

/-- The context of a table lane by slot and lane, for the scrub of returned pages: kept with the lane's regions. -/
def State.laneCtx (s : State) (die slot lane : Nat) : Nat :=
  match s.regions.find? fun p => p.2.die == die && p.2.lane == some (slot, lane) with
  | some p => p.1 / 4 / 256
  | none => 64

/-- A region READY after a launch, or ENDED when REL is set: its pages are then returned (R220). -/
def State.restRegion (s : State) (ctx h die : Nat) : State :=
  let r := s.regionOn ctx h die
  if r.rel then (s.freePages r ctx (s.laneCtx die)).setRegion ctx h die { r with st := .ended }
  else (s.setRegion ctx h die { r with st := .ready, saving := false, back := false }).syncPages ctx h die

/-- The accounting record of an ended launch (R421): one for a lane's entry, from its lowest die. A translation fault drops it. -/
def State.account (s : State) (ctx h die : Nat) : State :=
  let r := s.regionOn ctx h die
  let base := s.ccsrAt ctx 0x1050
  if base.bits 0 4 = 0 ∨ (r.lane.isSome ∧ s.dieOf ctx h ≠ die) then s
  else
    let q := tabGet 0 s.acctSeq ctx
    let va := base.bits 6 42 * 64 + 64 * (q % 2 ^ base.bits 0 4)
    let ws : List Nat := [(workId r.serial h).toNat, q, r.cLoad, r.cFill, r.cSteady, r.cDrain, 0, 0]
    let s1 := { s with acctSeq := tabPut s.acctSeq ctx (q + 1) }
    match s1.xlate die 2 ctx va true with
    | (.ok pa, s2) => s2.dStore pa ((ws.map fun n => bytesOfWord (Word.ofN n)).flatten) false
    | (.error _, s2) => s2

/-! ### Leave (R290, R291) -/

/-- The amount of a leave class on a die. -/
def State.leaveAmt (s : State) (die c : Nat) : Nat := if c = 0 then 0 else (s.dcsrAt die (0x8340 + c)).bits 0 16

/-- SUSE of a die set to `n`. -/
def State.setSuse (s : State) (die n : Nat) : State :=
  let w := s.dcsrAt die 0x8330
  s.setDcsr die 0x8330 (Word.ofN (w.bits 16 48 * 2 ^ 16 + n % 2 ^ 16))

def State.suse (s : State) (die : Nat) : Nat := (s.dcsrAt die 0x8330).bits 0 16

def State.seeded (s : State) (die : Nat) : Nat := (s.dcsrAt die 0x8330).bits 32 16

/-- The grant of a region's class given back. -/
def State.giveLeave (s : State) (ctx h die : Nat) : State :=
  let r := s.regionOn ctx h die
  if r.granted then (s.setRegion ctx h die { r with granted := false }).setSuse die (s.suse die - s.leaveAmt die r.leave) else s

/-- The launch of a region ends with `state` and `code`; the region itself is left to its caller. Its card learns of it, or its
job when no card made it. A lane's launch has neither. -/
def State.closeLaunch (s : State) (ctx h die state code count : Nat) : State :=
  let r := s.regionOn ctx h die
  let s1 := s.setRegion ctx h die { r with compl := { state := state, code := code, serial := r.serial, count := count },
                                           phase := if r.seq.isSome then { r.phase with state := state, code := code } else r.phase }
  (((s1.giveLeave ctx h die).account ctx h die).jobEnd ctx (if r.card.isSome then none else r.job) state code).cardEnd r.card state code

/-- A launch that has not reached ARMING ends: its pages, if it holds any, return (R220). A relaunch refused before any page is
written leaves its region READY (R233); one whose load has failed (`lost`) does not. -/
def State.dropLaunch (s : State) (ctx h die state code : Nat) (lost : Bool := false) : State :=
  let r := s.regionOn ctx h die
  let s1 := s.closeLaunch ctx h die state code 0
  let r1 := s1.regionOn ctx h die
  if r.st = .queued ∧ r.was = .ready ∧ !lost then (s1.setRegion ctx h die { r1.unload with st := .ready }).syncPages ctx h die
  else
    let s2 := if r.st = .loading ∨ r.was = .ready then s1.freePages r ctx (s1.laneCtx die) else s1
    { s2 with saved := tabDel s2.saved (regKey ctx h die) }.setRegion ctx h die { s2.regionOn ctx h die with st := .ended }

/-- A load error ends the launch before ARMING; a FAULT record carries the configuration handle (R406, R408). -/
def State.loadError (s : State) (ctx h die code : Nat) (lost : Bool := false) : State :=
  let r := s.regionOn ctx h die
  (s.hostEvent evFault ctx code (workId r.serial h) (Word.ofN r.cfg) die).dropLaunch ctx h die stAborted code lost

/-- A launch that holds its pages stopped at a cycle boundary (R220, R406); in ARMING its row file is left as it is. -/
def State.stopLaunch (s : State) (ctx h die state code : Nat) : State :=
  let r := s.regionOn ctx h die
  let s1 := s.discard ctx h die
  (((if r.st = .arming then s1 else s1.zeroRows r).closeLaunch ctx h die state code r.finished)).restRegion ctx h die

/-- The launch of a SAVED region ends, and its frames are freed. -/
def State.dropSaved (s : State) (ctx h die state code : Nat) : State :=
  let s1 := s.closeLaunch ctx h die state code (s.regionOn ctx h die).finished
  { s1 with saved := tabDel s1.saved (regKey ctx h die) }.setRegion ctx h die { s1.regionOn ctx h die with st := .ended }

/-! ### Launch records (R228) -/

structure LRec where
  rel : Bool
  isl : Option Nat
  consts : List (Nat × Nat × Nat × Nat × Word)
  seeds : List (Nat × Word)
deriving DecidableEq, Repr

def LRec.none : LRec := { rel := false, isl := .none, consts := [], seeds := [] }

def pairs : List Word → List (Word × Word)
  | a :: b :: r => (a, b) :: pairs r
  | _ => []

/-- Constants and seeds from their words, under the checks of R228 for an image. -/
def recBody (img : List Word) (nc ns : Nat) (ws : List Word) : Option (List (Nat × Nat × Nat × Nat × Word) × List (Nat × Word)) :=
  let hd := imgHead img
  let ports := (imgPorts img).getD []
  let ps := pairs ws
  let cs := ps.take nc
  let ss := (ps.drop nc).take ns
  if cs.length = nc ∧ ss.length = ns
      ∧ cs.all (fun p => p.1.bits 16 48 == 0 && inShape hd (p.1.bits 0 5) (p.1.bits 5 5) && computeTile (p.1.bits 0 5) (p.1.bits 5 5))
      ∧ ss.all (fun p => p.1.bits 8 56 == 0 && ports.any fun q => q.idx == p.1.bits 0 8 && !q.out)
  then some (cs.map fun p => (p.1.bits 0 5, p.1.bits 5 5, p.1.bits 10 4, p.1.bits 14 2, p.2), ss.map fun p => (p.1.bits 0 8, p.2))
  else .none

/-- The launch record at `va`: an error code, or its contents. Address 0 names none. -/
def State.readRecord (s : State) (die ctx va : Nat) (inl : Option (List Word)) (img : List Word) : Except Nat LRec × State :=
  let parse (w : Word) (body : List Word) : Except Nat LRec :=
    let ns := w.bits 0 16
    let nc := w.bits 16 16
    if 256 < ns ∨ 64 < nc ∨ w.bits 33 7 ≠ 0 ∨ w.bits 44 3 ≠ 0 ∨ w.bits 48 16 ≠ 0 then .error ecfgPort
    else match recBody img nc ns body with
      | .none => .error ecfgPort
      | some (c, sd) => .ok { rel := w.bit 32, isl := if w.bit 47 then some (w.bits 40 4) else .none, consts := c, seeds := sd }
  match inl with
  | some (w :: body) => (parse w body, s)
  | some [] => (.ok LRec.none, s)
  | .none =>
    if va = 0 then (.ok LRec.none, s)
    else match s.readWords die ctx va 1 with
      | (.error c, s1) => (.error c, s1)
      | (.ok ws, s1) =>
        let w := ws.getD 0 0
        let n := if 256 < w.bits 0 16 ∨ 64 < w.bits 16 16 then 0 else 2 * (w.bits 0 16 + w.bits 16 16)
        match s1.readWords die ctx (va + 8) n with
        | (.error c, s2) => (.error c, s2)
        | (.ok body, s2) => (parse w body, s2)

/-! ### Placement (R221, R223, R296, R319) -/

/-- The tile of lane `l` of matrix island `n` (R10, R172). -/
def laneTile (n l : Nat) : Nat × Nat :=
  let o := 8 * (n % 4) + l
  match n / 4 with
  | 0 => (0, o)
  | 1 => (o, 0)
  | 2 => (31, o)
  | _ => (o, 31)

/-- Whether every TGT 1 port of an image meets its island lane at an origin. -/
def portsFit (ports : List PortW) (isl : Option Nat) (px py : Nat) : Bool :=
  ports.all fun p => p.tgt == 0 || (match isl with
    | none => false
    | some n => laneTile n p.lane == (4 * px + p.x, 4 * py + p.y))

/-- The admissible place of R296: the lowest row, then the lowest column. -/
def State.findPlace (s : State) (die w h : Nat) (ports : List PortW) (isl : Option Nat) : Option (Nat × Nat) :=
  ((List.range 8).map fun py => (List.range 8).map fun px => (px, py)).flatten.find? fun o =>
    decide (o.1 + w ≤ 8) && decide (o.2 + h ≤ 8) && portsFit ports isl o.1 o.2
      && (rectPages o.1 o.2 w h).all fun n => (s.page die n).st == .free && !(s.page die n).retp

/-- Whether a context may use a matrix island: it owns it (R178). -/
def State.ownsIsl (s : State) (ctx die n : Nat) : Bool :=
  let m := tabGet MIsl.init s.misls (16 * die + n)
  m.owner == ctx && m.st == .owned

/-- The configuration handle, instances and record of step `k` of a sequence record (R227). -/
def State.readStep (s : State) (die ctx va k : Nat) : Except Nat (Nat × Nat × Nat × Nat) × State :=
  match s.readWords die ctx va 1 with
  | (.error c, s1) => (.error c, s1)
  | (.ok ws, s1) =>
    let w := ws.getD 0 0
    match s1.readWords die ctx (va + 8 + 24 * k) 3 with
    | (.error c, s2) => (.error c, s2)
    | (.ok st, s2) =>
      let a := st.getD 0 0
      if w.bits 0 16 = 0 ∨ 64 < w.bits 0 16 ∨ w.bits 16 48 ≠ 0 ∨ a.bits 16 16 ≠ 0 ∨ a.bits 32 32 = 0
          ∨ 2 ^ 28 ≤ a.bits 32 32 ∨ (st.getD 2 0) ≠ 0 then (.error ecfgField, s2)
      else (.ok (w.bits 0 16, a.bits 0 16, a.bits 32 32, (st.getD 1 0).toNat), s2)

/-- The largest width and height among the steps of a sequence whose images can be looked up. -/
def State.seqShape (s : State) (die ctx va : Nat) : Nat → Nat × Nat
  | 0 => (1, 1)
  | k + 1 =>
    let p := s.seqShape die ctx va k
    match s.readStep die ctx va k with
    | (.error _, _) => p
    | (.ok st, s1) => match s1.lookup die ctx st.2.1 with
      | (.error _, _) => p
      | (.ok img, _) => (if p.1 < (imgHead img).shw then (imgHead img).shw else p.1,
                         if p.2 < (imgHead img).shh then (imgHead img).shh else p.2)

/-- Cycles in which an image of `n` words streams at 64 bytes per cycle. -/
def streamCycles (n : Nat) : Nat := (n + 7) / 8

/-- The configuration and the record of the region's current step looked up: the region takes the image's shape, period and
ports. An error ends the launch before ARMING: a load that fails frees the pages of the region (R220); a shape or a port that does not
fit is found before any page is written (R233), and an error of the sequence record before the step it governs (R227). -/
def State.prepare (s : State) (ctx h die : Nat) : State :=
  let r := s.regionOn ctx h die
  let step : Except Nat (Nat × Nat × Nat × Nat) × State := match r.seq with
    | none => (.ok (1, r.cfg, r.n, r.recAddr), s)
    | some va => s.readStep die ctx va r.stepNo
  let kept := r.was == .ready && !r.stale && r.seq.isNone
  match step with
  | (.error c, s1) => s1.loadError ctx h die c
  | (.ok (nsteps, cfg, n, recA), s1) =>
    match (if kept then (.ok r.image, s1) else s1.lookup die ctx cfg) with
    | (.error c, s2) => (s2.setRegion ctx h die { r with cfg := cfg }).loadError ctx h die c true
    | (.ok img, s2) =>
      match s2.readRecord die ctx recA r.inl img with
      | (.error c, s3) => s3.loadError ctx h die c (!kept)
      | (.ok lr, s3) =>
        let hd := imgHead img
        let ports := (imgPorts img).getD []
        let isl := r.lisl.orElse fun _ => lr.isl
        let needs := ports.any fun p => p.tgt == 1
        let owned := match isl with
          | some i => s3.ownsIsl ctx die i
          | none => false
        let fresh := r.was ≠ .ready ∧ r.stepNo = 0
        let set := match r.seq with
          | none => (hd.shw, hd.shh)
          | some va => s3.seqShape die ctx va nsteps
        let hit := s1.ccache.any fun c => c.die == die && c.ctx == ctx && c.handle == cfg && !c.stale
        let miss := !(hit || kept)
        let r1 := { r with cfg := cfg, n := n, image := img, stale := false, reload := !kept, fetch := if miss then streamCycles img.length else 0,
                           shw := hd.shw, shh := hd.shh, period := hd.period, stages := hd.stages,
                           leave := hd.leave, rm := hd.rm, ports := ports, rel := lr.rel || r.lrel, isl := isl, consts := lr.consts,
                           seeds := lr.seeds, nsteps := nsteps, ready := true, setw := if fresh then set.1 else r.setw,
                           seth := if fresh then set.2 else r.seth }
        if needs && !owned then s3.loadError ctx h die ecfgPort
        else if ¬ fresh ∧ ¬ kept ∧ (if r.seq.isSome then r.setw < hd.shw ∨ r.seth < hd.shh else hd.shw ≠ r.setw ∨ hd.shh ≠ r.seth) then
          s3.loadError ctx h die ecfgShape
        else if ¬ fresh ∧ !portsFit ports isl r.px r.py then s3.loadError ctx h die ecfgPort
        else s3.setRegion ctx h die r1

/-- LOADING begins: the wave is due 17 cycles after the last bytes (R224), which a missed image's fetch precedes (R216). -/
def State.startLoad (s : State) (ctx h die : Nat) : State :=
  let r := s.regionOn ctx h die
  (s.setRegion ctx h die { r with st := .loading, kept := none, fetch := 0, due := s.cycle + r.fetch + streamCycles r.image.length + 17 }).syncPages
    ctx h die

/-- The PE state and the sequencers of a load (R62, R145, R224): everything of the region's tiles is replaced from the image. -/
def State.writePages (s : State) (ctx h die : Nat) : State :=
  let r := s.regionOn ctx h die
  let img := r.image
  let tileAt (x y : Nat) : Nat := tileKey die (4 * r.px + x) (4 * r.py + y)
  let consts := (recsIn img 3).getD []
  let tags := nodeRecs img
  let of (l : List Rec) (q : Rec) : Option Rec := l.find? fun e => e.x == q.x && e.y == q.y && e.pe == q.pe
  let kOf (q : Rec) : List Val := match of consts q with
    | some e => e.words.map Val.clean
    | none => Pe.init.k
  let base := s.pes.filter fun p => !r.holds (p.1 / 16)
  let listed := ((recsIn img 0).getD []).foldl (fun t q => tabPut t (tileAt q.x q.y * 16 + q.pe)
    { Pe.init with list := q.words, k := kOf q, tags := match of tags q with
        | some e => e.words
        | none => [] }) base
  let pes := consts.foldl (fun t q => match tabFind t (tileAt q.x q.y * 16 + q.pe) with
    | some _ => t
    | none => tabPut t (tileAt q.x q.y * 16 + q.pe) { Pe.init with k := q.words.map Val.clean }) listed
  let move (t : Nat) : Nat := tileAt (t % 32) (t / 32)
  ({ s with
    pes := pes
    tiles := s.tiles.filter fun t => !r.holds t.1 }.zeroRows r).setRegion ctx h die
      { r with routes := ((imgRoutes img).getD []).map fun (q : RouteW) => { q with tile := move q.tile }
               plans := ((imgPlans img).getD []).map fun (q : PlanW) => { q with tile := move q.tile } }

/-- ARMING begins: the PE state of a launch (R62), route inputs at 0 (R75), the counter at 0. Constants and seeds follow, one per
cycle. Beats that wait at the gates stay (R224, R225). -/
def State.arm (s : State) (ctx h die : Nat) : State :=
  let r := s.regionOn ctx h die
  let pes := s.pes.map fun p => if r.holds (p.1 / 16) then
    (p.1, { p.2 with latch := Val.zero, pred := 0, ppois := 0, flags := 0, bad := [] }) else p
  (({ s with pes := pes, routesIn := s.routesIn.filter fun e => !r.holds (e.1 / 8) }).setRegion ctx h die
    { r with st := .arming, kept := none, t := 0, fenceAt := 0, pend := [], acc := [], flights := [], faults := [], quiet := none, haltTag := none,
             kill := none }).syncPages ctx h die

/-- A region placed at an origin: its pages are taken and its load begins. -/
def State.placeAt (s : State) (ctx h die px py : Nat) (st : PageSt) : State :=
  let r := { s.regionOn ctx h die with px := px, py := py }
  let s1 := r.pageList.foldl (fun s n => s.take die n ctx h st) (s.setRegion ctx h die r)
  s1.startLoad ctx h die

/-- Queued launches, and saved regions that are to be restored, of a die and priority in FIFO order, those of contexts that are
not ACTIVE left out; a context that is restored places its saved regions (R349). -/
def State.fifo (s : State) (die prio : Nat) : List (Nat × Nat × Region) :=
  let ins (l : List (Nat × Nat × Region)) (e : Nat × Nat × Region) : List (Nat × Nat × Region) :=
    l.filter (fun a => decide (a.2.2.order < e.2.2.order)) ++ e :: l.filter (fun a => !decide (a.2.2.order < e.2.2.order))
  (s.regions.filterMap fun p =>
    if (p.2.st = .queued ∨ (p.2.st = .saved ∧ p.2.back)) ∧ p.2.die = die ∧ p.2.prio = prio ∧ p.2.lane = none
        ∧ (s.ctxState (p.1 / 4 / 256) = ctxActive ∨ (p.2.st = .saved ∧ s.ctxState (p.1 / 4 / 256) = ctxRestoring))
    then some (p.1 / 4 / 256, p.1 / 4 % 256, p.2) else none).foldl ins []

/-- The launches of a FIFO that are ready for a place: those with leave enter it when that is granted (R319). -/
def State.line (s : State) (die prio : Nat) : List (Nat × Nat × Region) :=
  (s.fifo die prio).filter fun e => e.2.2.ready && (e.2.2.leave == 0 || e.2.2.granted)

/-- The launch a die's allocator places next, with its place (R319): priorities in order; in a FIFO its head, else the earliest of
the next eight that fits; behind a head that has waited 10 µs nothing. `lend` gives a place on reserved pages (R297). -/
def State.choose (s : State) (die : Nat) (lend : Nat → Region → Option (Nat × Nat)) : Nat → Option (Nat × Nat × Nat × Nat × PageSt)
  | 0 => none
  | k + 1 =>
    let prio := 5 - k
    let l := s.line die prio
    let spot (e : Nat × Nat × Region) : Option (Nat × Nat × Nat × Nat × PageSt) :=
      match s.findPlace die e.2.2.setw e.2.2.seth e.2.2.ports e.2.2.isl with
      | some o => some (e.1, e.2.1, o.1, o.2, .loading)
      | none => (lend e.1 e.2.2).map fun o => (e.1, e.2.1, o.1, o.2, .lent)
    match l with
    | [] => s.choose die lend k
    | hd :: rest =>
      match spot hd with
      | some c => some c
      | none =>
        if hd.2.2.waitAt + 10000 ≤ s.cycle then none
        else match (rest.take 8).findSome? spot with
          | some c => some c
          | none => s.choose die lend k

end Sys2Proof.Machine
end

