-- ==== Sys2Proof/Machine/Frames.lean ====
section
/-! DEFINITION. Saving a region's pages into shadow storage and restoring them (R287, R333, R342 to R349). -/

namespace Sys2Proof.Machine

/-- A tile of a region as its number on other pages of another die. -/
def reTile (r : Region) (die px py tile : Nat) : Nat :=
  if r.holds tile then tileKey die (tileX tile + 4 * px - 4 * r.px) (tileY tile + 4 * py - 4 * r.py) else tile

/-- A table whose keys hold tiles in units of `n`, carried along. -/
def moveKeys {α : Type} (mv : Nat → Nat) (n : Nat) (t : Tab α) : Tab α :=
  t.foldl (fun acc p => tabPut acc (mv (p.1 / n) * n + p.1 % n) p.2) []

def moveMem (mv : Nat → Nat) (m : Mem) : Mem :=
  { cells := m.cells.foldl (fun acc c => cellPut acc (mv (c.1 / 2 ^ 18) * 2 ^ 18 + c.1 % 2 ^ 18) c.2) []
    pois := m.pois.foldl (fun acc g => setIns acc (mv (g / 2 ^ 16) * 2 ^ 16 + g % 2 ^ 16)) [] }

/-- Poisoned cell words as a frame keeps them: its list holds 63 of a tile, and beyond that both cells of a poisoned 8-byte word come
back poisoned (R345). -/
def framePois (pois : List Nat) : List Nat :=
  pois.foldl (fun acc g =>
    if 63 < (pois.filter fun x => x / 2 ^ 16 == g / 2 ^ 16).length then setIns (setIns acc (g / 2 * 2)) (g / 2 * 2 + 1) else setIns acc g) []

/-- The issuer of a region's operation, on its new pages. -/
def moveWho (mv : Nat → Nat) (ctx h : Nat) (w : Issuer) : Issuer :=
  if w.task = 0 ∧ w.ctx = ctx ∧ w.handle = h then
    let t := mv (tileKey w.die w.x w.y)
    { w with die := tileDie t, x := tileX t, y := tileY t }
  else w

/-- A region's own record carried to other pages. -/
def Region.carry (r : Region) (mv : Nat → Nat) (ctx h die px py : Nat) : Region :=
  { r with
    die := die, px := px, py := py
    pend := r.pend.map fun (p : Pend) => { p with tile := mv p.tile }
    acc := r.acc.map fun (a : Acc) => { a with tile := mv a.tile, who := moveWho mv ctx h a.who }
    flights := r.flights.map fun (f : Flight) => { f with tile := mv f.tile }
    routes := r.routes.map fun (q : RouteW) => { q with tile := mv q.tile }
    plans := r.plans.map fun (q : PlanW) => { q with tile := mv q.tile } }

/-- The state of a region's pages, numbered from its own corner. -/
def State.frameOf (s : State) (r : Region) : Frame :=
  let mv := reTile r 0 0 0
  let mine {α : Type} (n : Nat) (t : Tab α) : Tab α := moveKeys mv n (t.filter fun p => r.holds (p.1 / n))
  { pes := mine 16 s.pes, rows := mine 192 s.rows, routesIn := mine 8 s.routesIn, tiles := mine 1 s.tiles,
    dqs := mine 4 (s.dqs.filter fun q => decide (q.1 < 16384)), dseq := mine 1 (s.dseq.filter fun q => decide (q.1 < 4096)),
    mem := moveMem mv { cells := s.mem.cells.filter fun c => r.holds (c.1 / 2 ^ 18)
                        pois := framePois (s.mem.pois.filter fun g => r.holds (g / 2 ^ 16)) }
    bad := none }

/-- What runs in a region's pages taken away. Their scratch stays (R298). -/
def State.without (s : State) (r : Region) : State :=
  { s with
    pes := s.pes.filter fun p => !r.holds (p.1 / 16)
    rows := s.rows.filter fun p => !r.holds (p.1 / 192)
    routesIn := s.routesIn.filter fun p => !r.holds (p.1 / 8)
    tiles := s.tiles.filter fun p => !r.holds p.1
    dqs := s.dqs.filter fun p => !(decide (p.1 < 16384) && r.holds (p.1 / 4))
    dseq := s.dseq.filter fun p => !r.holds p.1 }

/-- Two tables joined; the first one's entries stand. -/
def mergeTab {α : Type} (a b : Tab α) : Tab α := a.foldl (fun t p => tabPut t p.1 p.2) b

/-- A frame written onto the pages of a region: it replaces all that they hold. -/
def State.putFrame (s : State) (f : Frame) (r : Region) : State :=
  let home : Region := { r with px := 0, py := 0, die := 0 }
  let mv := reTile home r.die r.px r.py
  let m := moveMem mv f.mem
  let s1 := s.without r
  { s1 with
    weak := (s1.renewIn spS fun k => r.holds (k / 2 ^ 16)).weak
    pes := mergeTab (moveKeys mv 16 f.pes) s1.pes
    rows := mergeTab (moveKeys mv 192 f.rows) s1.rows
    routesIn := mergeTab (moveKeys mv 8 f.routesIn) s1.routesIn
    tiles := mergeTab (moveKeys mv 1 f.tiles) s1.tiles
    dqs := mergeTab (moveKeys mv 4 f.dqs) s1.dqs
    dseq := mergeTab (moveKeys mv 1 f.dseq) s1.dseq
    mem := { cells := m.cells.foldl (fun t c => cellPut t c.1 c.2) (s1.mem.cells.filter fun c => !r.holds (c.1 / 2 ^ 18))
             pois := m.pois.foldl setIns (s1.mem.pois.filter fun g => !r.holds (g / 2 ^ 16)) } }

/-- The resident image of a region that is restored elsewhere reloaded from the cache, or refetched when it is not cached; the pages
get the image that they held (R299, R348; log entry 94). -/
def State.reloadImage (s : State) (ctx h die : Nat) : State :=
  let r := s.regionOn ctx h die
  if r.image = [] then s
  else match s.ccache.find? fun c => c.die == die && c.ctx == ctx && c.handle == r.cfg && c.image == r.image with
    | some c => { s with ccache := c :: s.ccache.erase c }
    | none => (s.lookup die ctx r.cfg).2

/-! ### Shadow storage (R342) -/

/-- Page frames a context holds on a die: of its saved regions, by the die they were saved on. -/
def State.framesHeld (s : State) (ctx die : Nat) : Nat :=
  (s.regions.filter fun p => p.1 / 4 / 256 == ctx && p.2.die == die && p.2.st == .saved).foldl
    (fun n p => n + p.2.setw * p.2.seth) 0

/-- Pages of a context's regions that are lent on a die: their frames are kept free (R286). -/
def State.lentPages (s : State) (ctx die : Nat) : Nat :=
  ((List.range 64).filter fun n => (s.page die n).st == .lent && (s.page die n).ctx == ctx).length

def State.frameQuota (s : State) (ctx : Nat) : Nat := (s.pkgCsr (0x8B40 + ctx)).bits 56 8

/-! ### Saving and restoring a region -/

/-- Whether every request of a region outside its own timed fabric has been performed and answered (R347); an instruction that
waits for a group, a grant or a tick goes on waiting in the saved region. -/
def State.outsideQuiet (s : State) (ctx h die : Nat) : Bool :=
  let mine (w : Issuer) : Bool := w.task == 0 && w.ctx == ctx && w.handle == h && w.die == die
  let wait (q : Req) : Bool := match q.place with
    | .unit k => k != 0
    | _ => false
  !s.reqs.any (fun q => mine q.who && !wait q) && !s.replies.any (fun q => mine q.who)

/-- The place of a request for scratch of a region that has other pages now (R120). -/
def moveScratch (mv : Nat → Nat) (ctx h : Nat) (q : Req) : ReqAt :=
  match q.place with
  | .tile k => if q.who.ctx = ctx ∧ q.reg = h then .tile (mv k) else .tile k
  | p => p

/-- A saved or restored region's requests that wait, with their issuers at its new place, and blocks' requests for its scratch. -/
def State.carryWaits (s : State) (mv : Nat → Nat) (ctx h : Nat) : State :=
  { s with reqs := s.reqs.map fun (q : Req) => { q with who := moveWho mv ctx h q.who, place := moveScratch mv ctx h q }
           replies := s.replies.map fun (q : Reply) => { q with who := moveWho mv ctx h q.who } }

/-- A launch whose region finds no room in shadow storage, or is not saved in time, is discarded (R333, rung 3). -/
def State.discardLaunch (s : State) (ctx h die : Nat) : State :=
  (s.setRegion ctx h die { s.regionOn ctx h die with rel := true }).stopLaunch ctx h die stAborted ftOverrun

/-- What a region's memory tiles do before a save (R146): the write half of each atomic whose read half has been performed is
completed, and blocks that hold slots of its rings are discarded. -/
def State.settleTiles (s : State) (ctx h die : Nat) : State :=
  let r := s.regionOn ctx h die
  let half (a : Acc) : Option (Nat × Nat) := match a.claim with
    | .writeHalf _ w => some (w / 2 * 4, if w % 2 = 1 then 3 else 2)
    | _ => none
  let s1 := r.acc.foldl (fun s a => match half a with
    | some (off, sz) => s.sWrite a.tile off sz false (a.who.ops.getLast?.getD Val.zero)
    | none => s) (s.setRegion ctx h die { r with acc := r.acc.filter fun a => (half a).isNone })
  (s1.tasks.filter fun t => match t.2.blk with
    | some b => b.held.any fun e => r.holds e.1
    | none => false).foldl (fun s t => s.dropBlock t.1) s1

/-- A frozen region's pages written to shadow storage and returned (R295, R347): rung 2. -/
def State.saveRegion (s : State) (ctx h die : Nat) : State :=
  let s := s.settleTiles ctx h die
  let r := s.regionOn ctx h die
  let s := s.correctIn spS fun k => r.holds (k / 2 ^ 16)
  if s.frameQuota ctx < s.framesHeld ctx die + r.setw * r.seth then s.discardLaunch ctx h die
  else
    let s := s.giveLeave ctx h die
    let r := s.regionOn ctx h die
    let f := s.frameOf r
    let r1 := r.carry (reTile r 0 0 0) ctx h r.die 0 0
    let s1 := ((s.without r).freePages r ctx (s.laneCtx die))
    { (s1.carryWaits (reTile r 0 0 0) ctx h).setRegion ctx h die { r1 with st := .saved, was := r.st, saving := false, stop := false } with
      saved := tabPut s1.saved (regKey ctx h die) f }

/-- A saved region put back on pages at an origin of its die: the state it had goes on. One whose frame or record fails its check ends
ABORTED, and no tile is written (R348). -/
def State.restoreAt (s : State) (ctx h die px py : Nat) (st : PageSt) : State :=
  let f := tabGet Frame.empty s.saved (regKey ctx h die)
  match f.bad with
  | some code => s.dropSaved ctx h die stAborted code
  | none =>
  let r := s.regionOn ctx h die
  let home : Region := { r with px := 0, py := 0, die := 0 }
  let r1 := { (r.carry (reTile home die px py) ctx h die px py) with st := r.was, was := .free, back := false }
  let s1 := r1.pageList.foldl (fun s n => s.take die n ctx h st) (s.setRegion ctx h die r1)
  ((({ s1.putFrame f r1 with saved := tabDel s1.saved (regKey ctx h die) }).carryWaits (reTile home die px py) ctx h).reloadImage ctx h die).syncPages
    ctx h die

/-- A load that is abandoned: the pages are freed, and the launch waits at the head of its FIFO (R220, R287). -/
def State.abandonLoad (s : State) (ctx h die : Nat) : State :=
  let r := s.regionOn ctx h die
  let s1 := (s.discard ctx h die).freePages r ctx (s.laneCtx die)
  s1.setRegion ctx h die { s1.regionOn ctx h die with st := .queued, was := .free, order := s1.fifoNo true, waitAt := s.cycle,
                                                      cLoad := 0, ready := false, due := s.cycle }

end Sys2Proof.Machine
end

