-- ==== Sys2Proof/Machine/Regions.lean ====
section
/-! DEFINITION. The steps of a region's life: grant, wave, drain token, quiescence report, move and compaction (R220, R224, R225,
R227, R297, R299, R319). -/

namespace Sys2Proof.Machine

/-! ### Entries (R68) -/

/-- The entries read in the present cycle of a region, in the order of R407, each with its place in its list. -/
def State.entriesAt (s : State) (ctx h die : Nat) : List (Issuer × Word × Nat) :=
  let r := s.regionOn ctx h die
  let fire (p : Nat × Pe) : Option (Issuer × Word × Nat) :=
    match p.2.list.findIdx? fun w => w.bits 52 12 == r.counter with
    | none => none
    | some j =>
      let w := p.2.list.getD j 0
      let g := w.bits 5 3
      let tile := p.1 / 16
      if g ≤ r.admission ∧ r.admission - g < r.n then
        some ({ Issuer.init with die := die, x := tileX tile, y := tileY tile, pe := p.1 % 16, ctx := ctx, handle := h, fired := r.t }, w, j)
      else none
  (s.pes.filter fun p => r.holds (p.1 / 16)).filterMap fire

def State.entries (s : State) (ctx h die : Nat) : List (Issuer × Word) := (s.entriesAt ctx h die).map fun e => (e.1, e.2.1)

/-! ### Grant and wave -/

/-- The place of R297 on reserved pages of one lane of a RUNNING table; `lends slot lane n` says that the lane lends `n` pages more. -/
def State.lendPlace (s : State) (die : Nat) (lends : Nat → Nat → Nat → Bool) (r : Region) : Option (Nat × Nat) :=
  ((List.range 8).map fun py => (List.range 8).map fun px => (px, py)).flatten.find? fun o =>
    decide (o.1 + r.setw ≤ 8) && decide (o.2 + r.seth ≤ 8) && portsFit r.ports r.isl o.1 o.2
      && (match rectPages o.1 o.2 r.setw r.seth with
        | [] => false
        | n :: ns => match (s.page die n).rsv with
          | none => false
          | some l => (n :: ns).all (fun k => (s.page die k).st == .reserved && (s.page die k).rsv == some l)
              && lends l.1 l.2 (n :: ns).length)

/-- The priority of the work that an issuer belongs to. -/
def State.prioOf (s : State) (w : Issuer) : Nat :=
  if w.task = 0 then (s.regionOn w.ctx w.handle w.die).prio else (s.task w.task).prio

/-- The `powq.wait` requests that wait for a grant on a die (R293). -/
def State.powReqs (s : State) (die : Nat) : List Req :=
  s.reqs.filter fun r => r.place == .unit 2 && s.physDie r.who.ctx ((opn r.who.ops 0).v.bits 4 2) == die

/-- Whether a context under restoration still asks for a grant of a die that it gave up (R293). -/
def State.owedOn (s : State) (die : Nat) : Bool :=
  s.owed.any fun g => s.ctxState g.1 == ctxRestoring && s.physDie g.1 g.2.1 == die

/-- The first launch of a die that waits for its leave grant, in the order of R291. -/
def State.leaveHead (s : State) (die : Nat) : Option (Nat × Nat × Region) :=
  ([1, 2, 3, 4, 5] : List Nat).findSome? fun prio => (s.fifo die prio).find? fun e =>
    e.2.2.ready && e.2.2.leave != 0 && !e.2.2.granted

/-- Seeded leave granted, or refused for good, to the launches at the front, at most `fuel` of them (R291): a `powq.wait` that stands
before one comes first. A launch enters its FIFO when it is granted (R319). -/
def State.grantLeaves (s : State) (die : Nat) : Nat → State
  | 0 => s
  | fuel + 1 => match s.leaveHead die with
    | none => s
    | some (ctx, h, r) =>
      let amt := s.leaveAmt die r.leave
      if s.seeded die < amt then (s.dropLaunch ctx h die stAborted ftLeave).grantLeaves die fuel
      else if s.seeded die < s.suse die + amt ∨ s.owedOn die
          ∨ (s.powReqs die).any (fun q => decide (s.prioOf q.who < r.prio ∨ (s.prioOf q.who = r.prio ∧ q.born < r.due))) then s
      else ((s.setRegion ctx h die { r with granted := true, order := s.fifoNo false, waitAt := s.cycle }).setSuse die (s.suse die + amt)).grantLeaves die fuel

/-- A relaunch whose decision time has come, and whose leave is granted, goes on to LOADING or ARMING (R224). -/
def State.goAhead (s : State) (ctx h die : Nat) : State :=
  let r := s.regionOn ctx h die
  if r.st ≠ .queued ∨ r.was ≠ .ready ∨ !r.ready ∨ (r.leave ≠ 0 ∧ !r.granted) then s
  else if r.reload then s.startLoad ctx h die else s.arm ctx h die

/-- The launches of a die that wait in QUEUED and are in `p`, of ACTIVE contexts, by context and handle. -/
def State.waiting (s : State) (die : Nat) (p : Region → Bool) : List (Nat × Nat) :=
  (s.regions.filter fun e => e.2.st == .queued && e.2.die == die && e.2.lane.isNone && s.ctxState (e.1 / 4 / 256) == ctxActive && p e.2).map
    fun e => (e.1 / 4 / 256, e.1 / 4 % 256)

/-- The allocator's act of one cycle: the configurations of the launches whose decision time has come are looked up, leave is granted,
the relaunches of resident regions go on, and the launch that the allocator chooses is placed (R221): one in a cycle (R295). -/
def State.grant (s : State) (die : Nat) (lend : State → Nat → Region → Option (Nat × Nat)) : State :=
  let s1 := (s.waiting die fun r => !r.ready && decide (r.due ≤ s.cycle)).foldl (fun s e => s.prepare e.1 e.2 die) s
  let s2 := s1.grantLeaves die 64
  let s3 := (s2.waiting die fun r => r.ready && r.was == .ready).foldl (fun s e => s.goAhead e.1 e.2 die) s2
  if tabFind s3.placed die = some s3.cycle then s3
  else match s3.choose die (lend s3) 5 with
  | some c =>
    let s4 : State := { s3 with placed := tabPut s3.placed die s3.cycle }
    if (s4.regionOn c.1 c.2.1 die).st = .saved then s4.restoreAt c.1 c.2.1 die c.2.2.1 c.2.2.2.1 c.2.2.2.2
    else s4.placeAt c.1 c.2.1 die c.2.2.1 c.2.2.2.1 c.2.2.2.2
  | none => s3

/-- CONFIG_COMPLETE_WAVE: every tile of the region holds its configuration; the region enters ARMING. -/
def State.wave (s : State) (ctx h : Nat) : State :=
  ([0, 1, 2, 3] : List Nat).foldl (fun s die =>
    let r := s.regionOn ctx h die
    if r.st = .loading ∧ r.due ≤ s.cycle then (s.writePages ctx h die).arm ctx h die else s) s

def execConfigCompleteWave (ctx handle : Nat) (s : State) : Out := .next (s.wave ctx handle)

/-! ### Drain and quiescence (R225) -/

/-- The conditions of R225: nothing of the region is in flight. -/
def State.quietNow (s : State) (ctx h die : Nat) : Bool :=
  let r := s.regionOn ctx h die
  let mine (w : Issuer) : Bool := w.task == 0 && w.ctx == ctx && w.handle == h && w.die == die
  r.pend.isEmpty && r.acc.isEmpty && r.flights.isEmpty && !s.reqs.any (fun q => mine q.who) && !s.replies.any (fun q => mine q.who)
    && !s.cinvs.any (fun c => mine c.who) && s.tiles.all fun t => !r.holds t.1 || t.2.chans.all fun c => !c.2.timed

/-- Whether the counter has passed its last cycle (R68). -/
def Region.pastEnd (r : Region) : Bool := decide ((r.n + r.stages - 1) * r.period ≤ r.t)

def State.drainDie (s : State) (ctx h die : Nat) : State :=
  let r := s.regionOn ctx h die
  if r.st = .running ∧ r.pastEnd then
    let stopEos (c : Tab Chan) : Tab Chan := c.filter fun e => !(e.2.timed && e.2.left == none)
    let stop (t : Nat × MemTile) : Nat × MemTile :=
      if r.holds t.1 then (t.1, { t.2 with chans := stopEos t.2.chans }) else t
    let s1 := { s with tiles := s.tiles.map stop }
    let s2 := (s1.setRegion ctx h die { r with st := .draining }).syncPages ctx h die
    if s2.quietNow ctx h die then s2.setRegion ctx h die { s2.regionOn ctx h die with quiet := some s.cycle } else s2
  else s

/-- DRAIN_TOKEN: channels that stream until `ageos` end, and the tree begins to watch. -/
def execDrainToken (ctx handle : Nat) (s : State) : Out :=
  .next (([0, 1, 2, 3] : List Nat).foldl (fun s die => s.drainDie ctx handle die) s)

/-- The next step of a sequence begins to load on the region's pages (R227). -/
def State.nextStep (s : State) (ctx h die : Nat) : State :=
  let r := s.regionOn ctx h die
  let s1 := s.setRegion ctx h die { r with st := .queued, was := .ready, kept := some r.keptNow, stepNo := r.stepNo + 1,
                                           phase := { r.phase with count := r.phase.count + 1 } }
  let s2 := s1.prepare ctx h die
  if (s2.regionOn ctx h die).st = .queued then s2.startLoad ctx h die else s2

/-- The launch, or the sequence, of a region ends DONE. -/
def State.launchDone (s : State) (ctx h die : Nat) : State :=
  let r := s.regionOn ctx h die
  let s1 := { s with dqs := s.dqs.filter fun q => !(decide (q.1 < 16384) && r.holds (q.1 / 4)) }
  if r.seq.isSome ∧ r.stepNo + 1 < r.nsteps then s1.nextStep ctx h die
  else
    let s2 := s1.setRegion ctx h die { r with phase := { r.phase with count := r.phase.count + 1 } }
    (s2.closeLaunch ctx h die stDone 0 r.n).restRegion ctx h die

/-- QUIESCENCE_REPORT: 16 cycles after the last condition of R225 came to hold. -/
def execQuiescenceReport (ctx handle : Nat) (s : State) : Out :=
  .next (([0, 1, 2, 3] : List Nat).foldl (fun s die =>
    let r := s.regionOn ctx handle die
    match r.quiet with
    | some q => if r.st = .draining ∧ q + 16 ≤ s.cycle ∧ s.quietNow ctx handle die then s.launchDone ctx handle die else s
    | none => s) s)

/-! ### A region's fault at the end of its cycle (R406 to R408) -/

/-- The fault that the launch reports: the one of lowest rank (R407). -/
def firstFault (l : List RFault) : Option RFault :=
  l.foldl (fun (acc : Option RFault) f => match acc with
    | none => some f
    | some a => if f.rank < a.rank then some f else acc) none

/-- The launch of a faulted region ends ABORTED; the Umber core and the host are told. -/
def State.regionFault (s : State) (ctx h die : Nat) : State :=
  let r := s.regionOn ctx h die
  match firstFault r.faults with
  | none => s
  | some f =>
    let w := workId r.serial h
    ((s.hostEvent evFault ctx f.code w f.data1 die).umberEvent evFault ctx f.code w f.data1 die).stopLaunch ctx h die stAborted f.code

/-! ### Moves (R299) -/

/-- A tile of a region as its number on other pages. -/
def moveTile (r : Region) (px py tile : Nat) : Nat :=
  if r.holds tile then
    tileKey r.die (tileX tile - 4 * r.px + 4 * px) (tileY tile - 4 * r.py + 4 * py)
  else tile

def moveAt (mv : Nat → Nat) : ReqAt → ReqAt
  | .tile k => .tile (mv k)
  | .chan t c => .chan (mv t) c
  | p => p

/-- The whole state of a region's pages carried to another place of its die as frames are: position-independent, so every result
stays (R221). The scratch of the pages it leaves stays with its context (R298). -/
def State.moveRegion (s : State) (ctx h die px py : Nat) : State :=
  let r := s.regionOn ctx h die
  let s := s.correctIn spS fun k => r.holds (k / 2 ^ 16)
  let mv := moveTile r px py
  let who := moveWho mv ctx h
  let r1 := { r.carry mv ctx h die px py with moving := none }
  let f := s.frameOf r
  let s1 := (s.without r).freePages r ctx (s.laneCtx die)
  let s2 := { s1 with
    reqs := s1.reqs.map fun (q : Req) => { q with who := who q.who, place := moveAt mv q.place }
    tasks := s1.tasks.map fun (t : Nat × Task) => (t.1, { t.2 with blk := t.2.blk.map fun (b : Blk) =>
      { b with held := b.held.map fun (e : Nat × Nat × Nat) => (mv e.1, e.2) } })
    replies := s1.replies.map fun (q : Reply) => { q with who := who q.who, tile := mv q.tile } }
  let s3 := r1.pageList.foldl (fun s n => s.setPage die n
    { s.page die n with st := .allocated, handle := h, ctx := ctx, lctx := ctx, lv := true }) ((s2.setRegion ctx h die r1).putFrame f r1)
  (s3.reloadImage ctx h die).syncPages ctx h die

/-- Whether the allocator may move a region (R299): a seeded one on pages of its own. -/
def State.movable (s : State) (r : Region) : Bool :=
  r.lane.isNone && r.moving.isNone && !r.saving && (r.st == .ready || r.st == .running || r.st == .draining || r.st == .halted)
    && r.pageList.all fun n => (s.page r.die n).st != .lent

/-- A move begins: the region stands still and its pages, and those it goes to, are MOVING; pages that may hold another context's data
are scrubbed first (R298). -/
def State.beginMove (s : State) (ctx h die px py : Nat) : State :=
  let r := s.regionOn ctx h die
  let s1 := (rectPages px py r.setw r.seth).foldl (fun s n => s.take die n ctx h .moving) s
  (s1.setRegion ctx h die { r with moving := some (px, py) }).syncPages ctx h die

/-- A move ends: the region is carried to its place. A region that is to be saved is not moved, and one that has ended or has been
saved leaves the pages it was to take FREE (R301). -/
def State.finishMove (s : State) (ctx h die : Nat) (o : Nat × Nat) : State :=
  let r := s.regionOn ctx h die
  let goes := !r.saving && (r.st == .ready || r.st == .queued || r.st == .running || r.st == .draining || r.st == .halted || r.st == .arming)
  if goes then s.moveRegion ctx h die o.1 o.2
  else
    let s1 := (rectPages o.1 o.2 r.setw r.seth).foldl (fun s n => s.freed die n { s.page die n with handle := 0, ctx := 0 })
      (s.setRegion ctx h die { r with moving := none })
    if r.saving then s1.syncPages ctx h die else s1

/-- The moves that began in the last cycle end, and pages that a context torn down was to take are FREE (R301). -/
def State.finishMoves (s : State) : State :=
  let s1 := (s.regions.filterMap fun e => e.2.moving.map fun o => (e.1, e.2.die, o)).foldl
    (fun s e => s.finishMove (e.1 / 4 / 256) (e.1 / 4 % 256) e.2.1 e.2.2) s
  (s1.pages.filter fun e => e.2.st == .moving).foldl
    (fun s e => s.freed (e.1 / 64) (e.1 % 64) { s.page (e.1 / 64) (e.1 % 64) with handle := 0, ctx := 0 }) s1

/-- REGION_MOVE. -/
def execRegionMove (ctx handle px py : Nat) (s : State) : Out :=
  let die := s.dieOf ctx handle
  let r := s.regionOn ctx handle die
  let free := decide (px + r.setw ≤ 8) && decide (py + r.seth ≤ 8) && portsFit r.ports r.isl px py
    && (rectPages px py r.setw r.seth).all fun n => (s.page die n).st == .free && !(s.page die n).retp
  .next (if s.movable r && free then s.beginMove ctx handle die px py else s)

/-! ### Compaction (R299, R319) -/

/-- The regions that lie on the pages of a rectangle, each with its page count. -/
def State.onRect (s : State) (die px py w h : Nat) : List (Nat × Nat) :=
  (s.regions.filter fun p => p.2.die == die && p.2.live && p.2.st != .queued
      && (rectPages px py w h).any fun n => p.2.pageList.contains n).map fun p => (p.1 / 4 / 256, p.1 / 4 % 256)

/-- Whether every page of a rectangle is FREE or holds a region that may move. -/
def State.rectClear (s : State) (die px py w h : Nat) : Bool :=
  (rectPages px py w h).all fun n =>
    let p := s.page die n
    !p.retp && (p.st == .free || (s.onRect die (n % 8) (n / 8) 1 1).any fun e => s.movable (s.regionOn e.1 e.2 die))

/-- The moved regions of a rectangle put one after another into places among the other FREE pages; none when one finds no place.
The pages of the rectangle itself take no part. -/
def State.clearRect (s : State) (die : Nat) (keep : List Nat) : List (Nat × Nat) → Option State
  | [] => some s
  | (ctx, h) :: rest =>
    let r := s.regionOn ctx h die
    let place := ((List.range 8).map fun py => (List.range 8).map fun px => (px, py)).flatten.find? fun o =>
      decide (o.1 + r.setw ≤ 8) && decide (o.2 + r.seth ≤ 8) && portsFit r.ports r.isl o.1 o.2
        && (rectPages o.1 o.2 r.setw r.seth).all fun n => (s.page die n).st == .free && !(s.page die n).retp && !keep.contains n
    match place with
    | none => none
    | some o => (s.beginMove ctx h die o.1 o.2).clearRect die keep rest

/-- The place that a compaction clears: under R296's order the one whose moved regions hold the fewest pages. -/
def State.compactPlace (s : State) (die w h : Nat) : Option (Nat × Nat) :=
  let cost (o : Nat × Nat) : Nat :=
    (s.onRect die o.1 o.2 w h).foldl (fun n e => n + (s.regionOn e.1 e.2 die).setw * (s.regionOn e.1 e.2 die).seth) 0
  let all := (((List.range 8).map fun py => (List.range 8).map fun px => (px, py)).flatten).filter fun o =>
    decide (o.1 + w ≤ 8) && decide (o.2 + h ≤ 8) && s.rectClear die o.1 o.2 w h
  all.foldl (fun (acc : Option (Nat × Nat)) o => match acc with
    | none => some o
    | some a => if cost o < cost a then some o else acc) none

/-- ALLOCATOR_HEAD_TIMEOUT: the head of the highest waiting priority has waited 10 µs. The allocator compacts the die when its FREE pages are at least
the head's shape and no place is admissible. -/
def execAllocatorHeadTimeout (die prio : Nat) (s : State) : Out :=
  .next (match (s.line die prio).head? with
    | none => s
    | some e =>
      let r := e.2.2
      let frees := ((List.range 64).filter fun n => (s.page die n).st == .free && !(s.page die n).retp).length
      if s.cycle < r.waitAt + 10000 ∨ !r.ready ∨ (([1, 2, 3, 4, 5] : List Nat).any fun p => decide (p < prio) && !(s.line die p).isEmpty)
          ∨ (s.regions.any fun p => p.2.die == die && p.2.moving.isSome) ∨ frees < r.setw * r.seth
          ∨ (s.findPlace die r.setw r.seth r.ports r.isl).isSome then s
      else match s.compactPlace die r.setw r.seth with
        | none => s
        | some o => (s.clearRect die (rectPages o.1 o.2 r.setw r.seth) (s.onRect die o.1 o.2 r.setw r.seth)).getD s)

end Sys2Proof.Machine
end

