-- ==== Sys2Proof/Machine/Engine.lean ====
section
/-! DEFINITION. What the engines share: their counters, the life of a command (R163, R174), patterns and the elements they name
in the four spaces (R196, R197), and the endpoints of stream ports (R198 to R200). -/

namespace Sys2Proof.Machine

/-! ### Counters of engines (R163) -/

/-- The logical die of a context under which a physical die's engines are counted: the lowest that maps to it. -/
def State.logDie (s : State) (ctx die : Nat) : Nat :=
  (([0, 1, 2, 3] : List Nat).find? fun d => s.physDie ctx d == die).getD 0

/-- The counter of an engine: place 0 to 7 are the stream islands, 8 to 23 the matrix islands, 24 the collective engine. -/
def State.engKey (s : State) (ctx die place : Nat) : Nat := counterKey ctx (s.logDie ctx die * 89 + place)

/-- The next command number. -/
def State.takeNo (s : State) (k : Nat) : Nat × State :=
  let c := s.counter k
  (c.issued + 1, s.setCounter k { c with issued := c.issued + 1 })

/-- The counter advanced past every number whose command, and each before it, has completed. -/
def Counter.advance : Nat → Counter → Counter
  | 0, c => c
  | n + 1, c => if c.ended.contains (c.v + 1) then Counter.advance n { c with v := c.v + 1, ended := setDel c.ended (c.v + 1) } else c

/-- Command `n` complete; with a fault the counter is marked from `n` on. -/
def Counter.finish (c : Counter) (n : Nat) (bad : Bool) : Counter :=
  let mark := if !bad then c.mark else match c.mark with
    | none => some n
    | some m => some (if n < m then n else m)
  Counter.advance (c.ended.length + 1) { c with ended := setIns c.ended n, mark := mark }

def State.finishNo (s : State) (k n : Nat) (bad : Bool) : State := s.setCounter k ((s.counter k).finish n bad)

/-! ### Issue (R174, R201) -/

def State.issuerJob (s : State) (m : Form) : Option Nat :=
  match m with
  | .timed => s.curRegion.job
  | .block => s.curTask.job

def State.issuerPrio (s : State) (m : Form) : Nat :=
  match m with
  | .timed => s.curRegion.prio
  | .block => s.curTask.prio

/-- The number of an accepted command on its way to D: it comes with the cycle after the acceptance (R174, R201). -/
def State.acceptResult (s : State) (m : Form) (r : ResW) : State :=
  match m with
  | .timed => s.answerAt (s.cycle + 1) .timed r
  | .block => s.complete .block 0 false r

/-- A command: a release at package scope; it waits while its engine has no room; D receives the number `accept` gives it. In a
timed region it is accepted in cycle c + 6, or later when it has to wait, and D is written at the end of cycle c + 7. -/
def State.command (s : State) (i : Instr) (h : Hd) (d : Dst) (srcs : List Src) (check : State → List Val → Option Nat)
    (full : State → List Val → Bool) (accept : State → List Val → Nat × State) : State :=
  s.sendF i h srcs 1 true check full (fun s ops pp =>
    let r := accept s ops
    r.2.acceptResult h.place.form (ResW.one d { v := Word.ofN r.1, p := pp } 0)) (fun _ _ => 8) 6

/-- The lowest code of those that apply. -/
def firstCode (addr align poison : Bool) : Option Nat :=
  if addr then some ftAddr else if align then some ftAlign else if poison then some ftPoison else none

/-! ### Patterns (R196) -/

structure Pat where
  space : Nat
  /-- log2 of the element size. -/
  lg : Nat
  dims : List (Nat × Int)
  len : Nat
deriving DecidableEq, Repr

def signedBits (n v : Nat) : Int := if v < 2 ^ (n - 1) then (v : Int) else (v : Int) - (2 ^ n : Nat)

/-- A valid pattern of a record's 13 words. -/
def patOf (ws : Option (List Word)) : Option Pat :=
  match ws with
  | none => none
  | some ws =>
    let h := ws.getD 0 0
    let nd := h.bits 56 4
    let dims := ((ws.drop 1).take (nd + 1)).map fun w => (w.bits 40 24 + 1, signedBits 40 (w.bits 0 40))
    let len := dims.foldl (fun n d => n * d.1) 1
    if h.bits 60 4 ≠ 0 ∨ h.bits 0 50 ≠ 0 ∨ 11 < nd ∨ 3 < h.bits 52 4 ∨ (h.bits 52 4 = 3 ∧ h.bits 50 2 ≠ 3) ∨ 2 ^ 40 < len
        ∨ (ws.drop (nd + 2)).any (fun w => w != 0) then none
    else some { space := h.bits 52 4, lg := h.bits 50 2, dims := dims, len := len }

/-- Sum of c[d] × STRIDE[d] for element `j`, c0 fastest. -/
def dimSum : List (Nat × Int) → Nat → Int
  | [], _ => 0
  | d :: r, j => ((j % d.1 : Nat) : Int) * d.2 + dimSum r (j / d.1)

/-- The address of element `j`, modulo 2^64. -/
def Pat.addr (p : Pat) (base : Word) (j : Nat) : Word := BitVec.ofInt 64 ((base.toNat : Int) + dimSum p.dims j)

def Pat.bytes (p : Pat) : Nat := p.len * 2 ^ p.lg

/-! ### Elements in the four spaces (R196, R197) -/

/-- Where an element lies. -/
inductive ElemAt where
  | d (pa : Nat)
  | p (key : Nat)
  | w (key : Nat)
  | sp (tile off : Nat)
deriving DecidableEq, Repr

/-- Why an element cannot be reached: a code, nothing lasting, or a translation fault. -/
inductive ElemFail where
  | code (c : Nat)
  /-- Not in this cycle: its region is on no pages, the tile has no port or plane for it, or a link on its way is not UP (R9, R120,
  R127). -/
  | wait
  | miss (va : Nat) (write : Bool) (why : XFail)
deriving DecidableEq, Repr

/-- What an element of 2^lg bytes takes of its memory tile (R124, R125). -/
def sClaim (off lg : Nat) (atomic : Bool) : Claim :=
  if atomic then .readHalf (off / 2 ^ 14) (off / 4 * 2 + (if lg = 3 then 1 else 0)) else .plane (off / 2 ^ 14)

/-- Single-bit errors that an access to an element meets: a read corrects them, a store over a whole granule ends them (R129). -/
def State.meet (s : State) (sp k lg : Nat) (write : Bool) : State := if write then s.renew sp k (2 ^ lg) else s.correct sp k (2 ^ lg)

/-- Whether an engine of `die` reaches what lies on die `d` now: its way over the links is open (R9), and that die takes part in work
(R16). -/
def State.engReach (s : State) (die d : Nat) : Bool := s.dieReach die d && !s.downDies.contains d

/-- The element of 2^lg bytes at an address of a space, for an engine on `die` and context `ctx`. One in scratch takes its port and
its plane (R127): an access of the engine to it is one access, an atomic update two halves. -/
def State.elemAt (s : State) (die ctx : Nat) (lane : Option (Nat × Nat)) (space lg : Nat) (a : Word) (write : Bool)
    (atomic : Bool := false) :
    Except ElemFail ElemAt × State :=
  let bad (c : Nat) : Except ElemFail ElemAt × State := (.error (.code c), s)
  match space with
  | 0 =>
    if a.bits 48 16 ≠ 0 then bad ftAddr
    else if a.toNat % 2 ^ lg ≠ 0 then bad ftAlign
    else if !s.laneMay lane die a.toNat (2 ^ lg) then bad ftPage
    else match s.xlate die 0 ctx a.toNat write with
      | (.ok pa, s1) => if s.dieReach die (paDie pa) then (.ok (.d pa), s1.meet spD pa lg (write && !atomic)) else (.error .wait, s1)
      | (.error r, s1) => (.error (.miss a.toNat write r), s1)
  | 1 => match s.partOf ctx false a with
    | .error c => bad c
    | .ok (p, off) => if off % 2 ^ lg ≠ 0 then bad ftAlign
      else if !s.engReach die (p / 48) then (.error .wait, s)
      else (.ok (.p (partKey p off)), s.meet spP (partKey p off) lg (write && !atomic))
  | 2 =>
    let r := s.region ctx (a.bits 35 8)
    let tile := r.memTile (a.bits 18 9)
    let claim := sClaim (sOff a) lg atomic
    if a.bits 43 21 ≠ 0 ∨ a.bits 27 8 ≠ 0 ∨ !r.live then bad ftAddr
    else if !r.onPagesNow then (.error .wait, s)
    else if 8 * r.shw * r.shh ≤ a.bits 18 9 then bad ftAddr
    else if sOff a % 2 ^ lg ≠ 0 then bad ftAlign
    else if !s.engReach die r.die ∨ !s.portFree tile claim then (.error .wait, s)
    else (.ok (.sp tile (sOff a)), (s.takePort tile claim true).meet spS (sKey tile (sOff a)) lg (write && !atomic))
  | _ =>
    if a.bits 31 33 ≠ 0 ∨ !Config.tileWindow ctx die (a.bits 27 4) (a.bits 10 10) then bad ftAddr
    else if a.toNat % 8 ≠ 0 then bad ftAlign
    else
      let key := wKey die (a.bits 27 4) (a.bits 20 7) (a.bits 0 20)
      (.ok (.w key), s.meet spW key lg write)

def State.elemRead (s : State) (e : ElemAt) (lg : Nat) : Val :=
  match e with
  | .d pa => s.dLoad pa (2 ^ lg)
  | .p k => s.pdb.load 8 k (2 ^ lg)
  | .w k => s.wst.load 8 k (2 ^ lg)
  | .sp t off => s.sRead t off lg false

def State.elemWrite (s : State) (e : ElemAt) (lg : Nat) (v : Val) : State :=
  match e with
  | .d pa => s.dStoreVal pa (2 ^ lg) v
  | .p k => s.pStore k lg v
  | .w k => { s with wst := s.wst.storeVal 8 k (2 ^ lg) v }
  | .sp t off => s.sWrite t off lg false v

/-! ### Bytes with poison -/

/-- The low `n` bytes of a value, each with its poison. -/
def valBytes (v : Val) (n : Nat) : List (Byte × Bool) := (bytesOfNat n v.v.toNat).map fun b => (b, v.p)

/-- Bytes as a value, poisoned when one of them is. -/
def bytesVal (bs : List (Byte × Bool)) : Val :=
  { v := wordOfBytes (bs.map Prod.fst), p := bs.any fun b => b.2 }

/-! ### Endpoints (R198 to R200) -/

def Bound.memory (b : Bound) : Option (Pat × Word) :=
  match b.e with
  | .mem _ base => (patOf b.pat).map fun p => (p, base)
  | _ => none

/-- A memory side's length in bytes. -/
def Bound.memLen (b : Bound) : Option Nat := b.memory.map fun p => p.1.bytes

/-- KIND 1, 2 or 3. -/
def Bound.single (b : Bound) : Bool :=
  match b.e with
  | .unbound => false
  | .mem _ _ => false
  | _ => true

/-- What keeps a port from serving as a source or as a destination. A handle that names no LIVE region fails (R219); one that names a
region on no pages waits until it is placed or restored, and its ports are looked at then. -/
def State.portBad (s : State) (ctx : Nat) (b : Bound) (dst : Bool) : Option Nat :=
  match b.e with
  | .unbound => some ftAddr
  | .mem _ _ => if (patOf b.pat).isNone then some ftCheck else none
  | .fabric h idx =>
    let r := s.region ctx h
    if r.live && (!r.onPagesNow || r.ports.any (fun p => p.idx == idx && p.tgt == 0 && p.out != dst)) then none else some ftAddr
  | .vector h x y _ =>
    let r := s.region ctx h
    if dst && r.live && (!r.onPagesNow || decide (x < 4 * r.shw) && decide (y < 4 * r.shh)) && computeTile x y then none else some ftAddr
  | .ingress _ _ => if dst then some ftAddr else none

/-- The compute tile's queue of a vector port. -/
def State.vectorQueue (s : State) (ctx h x y q : Nat) : Nat :=
  let r := s.region ctx h
  4 * tileKey r.die (4 * r.px + x) (4 * r.py + y) + q

end Sys2Proof.Machine
end

