-- ==== Sys2Proof/Machine/Streams.lean ====
section
/-! DEFINITION. Stream islands: commands, their streams, conversion, checks and the Ethernet ingress (R196 to R214). A stream is
moved in small steps: an element, beat or record is fetched, a unit is converted, an element or beat is delivered. -/

namespace Sys2Proof.Machine

def State.sisl (s : State) (k : Nat) : SIsl := tabGet SIsl.init s.sisls k

def State.setSisl (s : State) (k : Nat) (v : SIsl) : State := { s with sisls := tabPut s.sisls k v }

def State.sctx (s : State) (k ctx : Nat) : SCtx := tabGet SCtx.init (s.sisl k).ctxs ctx

def State.setSctx (s : State) (k ctx : Nat) (c : SCtx) : State :=
  s.setSisl k { s.sisl k with ctxs := tabPut (s.sisl k).ctxs ctx c }

/-! ### Kinds of commands and their ports (R205) -/

inductive SKind where
  | copy
  | chk
  | gat
  | sct
  | red (op : SredOp) (ty : SredTy) (x : Bool)
  | fill
  | cvt (x : Bool)
deriving DecidableEq, Repr

def sKind : Instr → SKind
  | .scpyChk _ _ _ _ _ => .chk
  | .sgat _ _ _ => .gat
  | .ssct _ _ _ => .sct
  | .sred _ _ _ op ty x => .red op ty x
  | .sfill _ _ _ _ => .fill
  | .scvt _ _ _ _ _ x => .cvt x
  | _ => .copy

/-- Format codes of R118: width in bits, and the format. -/
def fmtFloat : Nat → Option FTy
  | 0 => some .f32
  | 1 => some .bf16
  | 2 => some .f16
  | 3 => some .e4m3
  | 4 => some .e5m2
  | _ => none

def fmtSbf : Nat → Option Sbf
  | 6 => some .sbf4
  | 7 => some .sbf6
  | 8 => some .sbf8
  | _ => none

def fmtWidth (n : Nat) : Nat :=
  match fmtFloat n, fmtSbf n with
  | some t, _ => t.width
  | _, some f => sbfWidth f
  | _, _ => 8

def hasSbf (b : Word) : Bool := (fmtSbf (b.bits 0 8)).isSome || (fmtSbf (b.bits 8 8)).isSome

def SKind.ports (k : SKind) (b : Word) : List Nat :=
  match k with
  | .fill => [1]
  | .gat => [0, 1, 2]
  | .sct => [0, 1, 2]
  | .cvt _ => if hasSbf b then [0, 1, 2, 3] else [0, 1]
  | _ => [0, 1]

/-- A port as a command reads it when it is accepted (R200). -/
def State.bound (s : State) (k ctx port : Nat) : Bound :=
  let e := tabGet Endp.unbound (s.sisl k).binds (16 * ctx + port)
  { port := port, e := e, pat := match e with
      | .mem n _ => tabFind (s.sisl k).pats (256 * ctx + n)
      | _ => none }

def Bound.none_ : Bound := { port := 16, e := .unbound, pat := none }

/-- A command accepted (R200, R201): it takes a number, and reads the bindings of its ports. -/
def State.streamAccept (s : State) (k : Nat) (i : Instr) (ctx : Nat) (a b c : Word) (prio : Nat) (job card : Option Nat)
    (who : Issuer) (lane : Option (Nat × Nat)) : Nat × State :=
  let n := s.takeNo (s.engKey ctx (k / 8) (k % 8))
  let used := (sKind i).ports b
  let ports := (List.range 4).map fun p => if used.contains p then s.bound k ctx (a.bits (8 + 4 * p) 4) else Bound.none_
  let cmd : SCmd :=
    { num := n.1, ctx := ctx, i := i, a := a, b := b, c := c, ports := ports, prio := prio, job := job, card := card, who := who,
      lane := lane, started := false, total := 0, got := 0, raw := [], units := 0, conv := 0, buf := [], sent := 0,
      turn := (n.2.sisl k).last, stall := false, fault := none, cancelled := false, done := false }
  (n.1, (n.2.setSisl k { n.2.sisl k with cmds := (n.2.sisl k).cmds ++ [cmd] }).jobBegin ctx job)

/-- The places for accepted commands that have not started (R201). -/
def State.streamFull (s : State) (k : Nat) : Bool := decide (64 ≤ ((s.sisl k).cmds.filter fun c => !c.started && !c.done).length)

/-! ### Issue (R201, R205) -/

/-- Whether the island operand breaks its layout: only the fields named may be set. -/
def islBad (a : Word) (ports : List Nat) (pat : Bool) : Bool :=
  decide (8 ≤ a.bits 0 4) || a.bits 4 4 != 0 || a.bits 32 32 != 0 || (!pat && a.bits 24 8 != 0)
    || (List.range 4).any fun p => !ports.contains p && a.bits (8 + 4 * p) 4 != 0

/-- The island an operand names, on the issuing die. -/
def State.islKey (s : State) (a : Val) : Nat := 8 * s.cur.die + a.v.bits 0 4

def anyP (ops : List Val) : Bool := ops.any fun v => v.p

/-- A stream command from a PE. Operands: the island, then b and c as far as the entry has them. -/
def State.streamCmd (s : State) (i : Instr) (h : Hd) (d : Dst) (srcs : List Src) (ports : List Nat)
    (bad misaligned : List Val → Bool := fun _ => false) : State :=
  let m := h.place.form
  s.command i h d srcs (fun _ ops => firstCode (islBad (opn ops 0).v ports false || bad ops) (misaligned ops) (anyP ops))
    (fun s ops => s.streamFull (s.islKey (opn ops 0)))
    fun s ops => s.streamAccept (s.islKey (opn ops 0)) i s.cur.ctx (opn ops 0).v (opn ops 1).v (opn ops 2).v (s.issuerPrio m)
      (s.issuerJob m) none s.cur (s.issuerLane m)

def execScpy (h : Hd) (d : Dst) (a b : Src) (s : State) : Out :=
  .next (s.streamCmd (.scpy h d a b) h d [a, b] [0, 1])

/-- The check array's address follows R147's layout, and is 4-byte aligned. -/
def execScpyChk (h : Hd) (d : Dst) (a b c : Src) (s : State) : Out :=
  .next (s.streamCmd (.scpyChk h d a b c) h d [a, b, c] [0, 1] (fun ops => (opn ops 2).v.bits 29 35 != 0)
    fun ops => (opn ops 2).v.bits 0 2 != 0)

def execSgat (h : Hd) (d : Dst) (a : Src) (s : State) : Out :=
  .next (s.streamCmd (.sgat h d a) h d [a] [0, 1, 2])

def execSsct (h : Hd) (d : Dst) (a : Src) (s : State) : Out :=
  .next (s.streamCmd (.ssct h d a) h d [a] [0, 1, 2])

def execSred (h : Hd) (d : Dst) (a : Src) (op : SredOp) (ty : SredTy) (x : Bool) (s : State) : Out :=
  .next (s.streamCmd (.sred h d a op ty x) h d [a] [0, 1])

def execSfill (h : Hd) (d : Dst) (a b : Src) (s : State) : Out :=
  .next (s.streamCmd (.sfill h d a b) h d [a, b] [1])

def execScvt (h : Hd) (d : Dst) (a b c : Src) (x : Bool) (s : State) : Out :=
  .next (s.streamCmd (.scvt h d a b c x) h d [a, b, c] [0, 1, 2, 3])

/-- Whether the operands of `sbind` break their layout (R198, R205). -/
def sbindBad (a b c : Word) : Bool :=
  islBad a [0] false || b.bits 10 54 != 0 || (b.bits 8 2 != 0 && b.bits 0 8 != 0)
    || (match b.bits 8 2 with
      | 0 => false
      | 1 => c.bits 16 48 != 0
      | 2 => c.bits 24 40 != 0 || c.bit 15 || c.bits 2 3 != 0
      | _ => c.bits 5 59 != 0)

def bindOf (b c : Word) : Endp :=
  match b.bits 8 2 with
  | 0 => .mem (b.bits 0 8) c
  | 1 => .fabric (c.bits 8 8) (c.bits 0 8)
  | 2 => .vector (c.bits 16 8) (c.bits 10 5) (c.bits 5 5) (c.bits 0 2)
  | _ => .ingress (c.bits 3 2) (c.bits 0 3)

/-- A setting is performed when it is accepted; only the owning context may bind an ingress channel (R212). -/
def execSbind (h : Hd) (a b c : Src) (s : State) : Out :=
  .next (s.send (.sbind h a b c) h [a, b, c] 0 true
    (fun s ops =>
      let cv := (opn ops 2).v
      let foreign := (opn ops 1).v.bits 8 2 == 3 && (s.pkgCsr (0x8400 + cv.bits 0 5)).bits 34 6 != s.cur.ctx
      firstCode (sbindBad (opn ops 0).v (opn ops 1).v cv || foreign) false (anyP ops))
    (fun _ _ => false)
    (fun s ops _ =>
      let k := s.islKey (opn ops 0)
      let v := s.sisl k
      s.setSisl k { v with binds := tabPut v.binds (16 * s.cur.ctx + (opn ops 0).v.bits 8 4) (bindOf (opn ops 1).v (opn ops 2).v) })
    8)

/-- The 13 words of a record in space P. -/
def State.patWords (s : State) (p off : Nat) : List Word := (List.range 13).map fun j => (s.pdb.load 8 (partKey p (off + 8 * j)) 8).v

def execSpat (h : Hd) (a b : Src) (s : State) : Out :=
  .next (s.send (.spat h a b) h [a, b] 0 true
    (fun s ops =>
      let bad := match s.partOf s.cur.ctx false (opn ops 1).v with
        | .error c => c == ftAddr
        | .ok (_, off) => decide (2 ^ 21 < off + 104)
      let poi := match s.partOf s.cur.ctx false (opn ops 1).v with
        | .error c => c == ftPoison
        | .ok _ => false
      firstCode (islBad (opn ops 0).v [] true || bad) ((opn ops 1).v.bits 0 3 != 0) (anyP ops || poi))
    (fun _ _ => false)
    (fun s ops _ =>
      let k := s.islKey (opn ops 0)
      let v := s.sisl k
      match s.partOf s.cur.ctx false (opn ops 1).v with
      | .error _ => s
      | .ok (p, off) => (s.correct spP (partKey p off) 104).setSisl k { v with pats := tabPut v.pats (256 * s.cur.ctx + (opn ops 0).v.bits 24 8) (s.patWords p off) })
    8)

/-! ### The end of a command (R163, R202, R210, R252) -/

/-- Commands of copy cards that the counter has passed end their cards. -/
def State.settleCopies (s : State) (k : Nat) : State :=
  let due (c : SCmd) : Bool := c.done && decide (c.num ≤ (s.counter (s.engKey c.ctx (k / 8) (k % 8))).v)
  let v := s.sisl k
  let s1 := s.setSisl k { v with cmds := v.cmds.filter fun c => !due c }
  (v.cmds.filter due).foldl (fun s c =>
    match c.fault with
    | some f => s.cardEnd c.card stAborted f
    | none => s.cardEnd c.card (if c.cancelled then stCancelled else stDone) 0) s1

/-- The vector port that a command in flight holds is free again. -/
def State.releaseQueue (s : State) (c : SCmd) : State :=
  match (c.ports.getD 1 Bound.none_).e with
  | .vector h x y q =>
    let k := s.vectorQueue c.ctx h x y q
    if c.started then s.setDq k { s.dq k with live := (s.dq k).live - 1 } else s
  | _ => s

/-- A command completes: the counter, `LASTF`, its job, and then its card. -/
def State.streamEndCmd (s : State) (k : Nat) (c : SCmd) (cancelled : Bool) : State :=
  let fault := if cancelled then none else c.fault
  let v := s.sisl k
  let rest := v.cmds.filter fun e => !(e.ctx == c.ctx && e.num == c.num)
  let s1 := s.setSisl k { v with cmds := rest ++ (if c.card.isSome
    then [{ c with done := true, fault := fault, cancelled := cancelled, raw := [], buf := [] }] else []) }
  let s2 := (s1.releaseQueue c).finishNo (s1.engKey c.ctx (k / 8) (k % 8)) c.num fault.isSome
  let s3 := match fault with
    | some f => s2.setSctx k c.ctx { s2.sctx k c.ctx with lastf := f }
    | none => s2
  let s4 := match fault with
    | some f => s3.jobEnd c.ctx c.job stAborted f
    | none => s3.jobEnd c.ctx c.job (if cancelled then stCancelled else stDone) 0
  s4.settleCopies k

/-- `scan`: the commands of a context that are not over, all or one, completed without poison; how many there were. -/
def State.scanCmds (s : State) (k : Nat) (hit : SCmd → Bool) : Nat × State :=
  let l := (s.sisl k).cmds.filter fun c => !c.done && hit c
  (l.length, l.foldl (fun s c => s.streamEndCmd k c true) s)

def execScan (h : Hd) (d : Dst) (a b : Src) (s : State) : Out :=
  .next (s.command (.scan h d a b) h d [a, b] (fun _ ops => firstCode (islBad (opn ops 0).v [] false) false (anyP ops))
    (fun _ _ => false)
    fun s ops => s.scanCmds (s.islKey (opn ops 0)) fun c => c.ctx == s.cur.ctx
      && ((opn ops 1).v == 0 || (opn ops 1).v == Word.ofN c.num))

/-- The status word of R213. -/
def State.sstWord (s : State) (k ctx : Nat) : Word :=
  let l := (s.sisl k).cmds.filter fun c => c.ctx == ctx && !c.done
  Word.ofN ((s.counter (s.engKey ctx (k / 8) (k % 8))).v % 2 ^ 32 * 2 ^ 32 + (s.sctx k ctx).lastf * 2 ^ 24
    + (l.filter fun c => !c.started).length * 2 ^ 16 + (l.filter fun c => c.started).length * 2 ^ 8 + (s.sctx k ctx).sflag.toNat)

def execSst (h : Hd) (d : Dst) (a : Src) (s : State) : Out :=
  .next (s.query h [a] 1 (fun _ ops => firstCode (islBad (opn ops 0).v [] false) false (anyP ops)) (fun _ _ => false)
    (fun s ops pp => s.queryResult h.place.form d { v := s.sstWord (s.islKey (opn ops 0)) s.cur.ctx, p := pp }) 8)

def execSstFlags (h : Hd) (d : Dst) (a : Src) (s : State) : Out :=
  .next (s.query h [a] 1 (fun _ ops => firstCode (islBad (opn ops 0).v [] false) false (anyP ops)) (fun _ _ => false)
    (fun s ops pp =>
      let k := s.islKey (opn ops 0)
      let c := s.sctx k s.cur.ctx
      (s.setSctx k s.cur.ctx { c with sflag := 0 }).queryResult h.place.form d { v := Word.ofN c.sflag.toNat, p := pp }) 8)

/-! ### Checks before the first write (R204, R206 to R211) -/

/-- The lowest of several codes. -/
def lowest : List (Option Nat) → Option Nat
  | [] => none
  | o :: r => match o, lowest r with
    | some a, some b => some (if a < b then a else b)
    | some a, none => some a
    | none, x => x

def checkIf (bad : Bool) (code : Nat) : Option Nat := if bad then some code else none

/-- Bytes of a `sred` element. -/
def sredLg : SredTy → Nat
  | .s64 => 3
  | _ => 2

def SCmd.port (c : SCmd) (n : Nat) : Bound := c.ports.getD n Bound.none_

/-- A memory port whose elements have 2^lg bytes. -/
def Bound.lgIs (b : Bound) (lg : Nat) : Bool :=
  match b.memory with
  | some p => p.1.lg == lg
  | none => true

/-- Two lengths that must agree where both are given. -/
def agree (a b : Option Nat) : Bool :=
  match a, b with
  | some x, some y => x == y
  | _, _ => true

def isIngress (b : Bound) : Bool :=
  match b.e with
  | .ingress _ _ => true
  | _ => false

def notMemory (b : Bound) : Option Nat :=
  match b.e with
  | .mem _ _ => none
  | _ => some ftAddr

/-- Length of the index stream of `sgat` and `ssct`, and bytes of one index; a fabric port's indices are s64, one to a beat. -/
def idxWidth (b : Bound) : Nat :=
  match b.memory with
  | some p => 2 ^ p.1.lg
  | none => 8

def idxCount (b : Bound) : Option Nat := b.memory.map fun p => p.1.len

def idxBad (b : Bound) : Bool :=
  match b.memory with
  | some p => p.1.lg != 2 && p.1.lg != 3
  | none => false

/-- Values that a side's bytes hold in a format. -/
def valuesIn (len : Option Nat) (w : Nat) : Option Nat := len.map fun n => 8 * n / w

def f32Positive (bits : Nat) : Bool :=
  match decodeF .f32 bits with
  | .fin false m _ => m != 0
  | _ => false

/-- The format word of R211. -/
def cvtWordBad (b : Word) : Bool :=
  decide (8 < b.bits 0 8) || decide (8 < b.bits 8 8) || b.bit 16 || b.bits 19 45 != 0

/-- The checks that do not depend on data, and the lengths of the command's streams. -/
def State.strCheck (s : State) (c : SCmd) : Except Nat SCmd :=
  let p := c.port
  let src (n : Nat) : Option Nat := s.portBad c.ctx (p n) false
  let dst (n : Nat) : Option Nat := s.portBad c.ctx (p n) true
  let noIngress (n : Nat) : Option Nat := checkIf (isIngress (p n)) ftAddr
  let done (bad : List (Option Nat)) (total units : Nat) : Except Nat SCmd :=
    match lowest bad with
    | some e => .error e
    | none => .ok { c with started := true, total := total, units := units }
  let l0 := (p 0).memLen
  let l1 := (p 1).memLen
  match sKind c.i with
  | .copy =>
    let any := l0.isSome || l1.isSome
    done [src 0, dst 1, checkIf (isIngress (p 0) && l1.isNone) ftAddr, checkIf (!agree l0 l1 || (any && c.b != 0)) ftCheck]
      ((l0.orElse fun _ => l1).getD c.b.toNat) 0
  | .chk =>
    let any := l0.isSome || l1.isSome
    let total := (l0.orElse fun _ => l1).getD c.b.toNat
    let units := (total + 1023) / 1024
    let arr := match s.partOf c.ctx false c.c with
      | .error e => some e
      | .ok (_, off) => checkIf (decide (2 ^ 21 < off + 4 * units)) ftCheck
    done [src 0, dst 1, checkIf (isIngress (p 0) && l1.isNone) ftAddr, checkIf (!agree l0 l1 || (any && c.b != 0)) ftCheck, arr]
      total units
  | .gat =>
    let sz := match (p 0).memory with
      | some q => 2 ^ q.1.lg
      | none => 1
    let n := (idxCount (p 2)).orElse fun _ => l1.map fun b => b / sz
    done [src 0, notMemory (p 0), dst 1, src 2, noIngress 2, checkIf (idxBad (p 2) || n.isNone || !agree l1 (n.map fun n => n * sz)) ftCheck]
      (n.getD 0 * idxWidth (p 2)) (n.getD 0)
  | .sct =>
    let sz := match (p 1).memory with
      | some q => 2 ^ q.1.lg
      | none => 1
    let n := (idxCount (p 2)).orElse fun _ => l0.map fun b => b / sz
    done [src 0, noIngress 0, dst 1, notMemory (p 1), src 2, noIngress 2,
        checkIf (idxBad (p 2) || n.isNone || !agree l0 (n.map fun n => n * sz)) ftCheck]
      (n.getD 0 * sz) (n.getD 0)
  | .red _ ty _ =>
    let w := match (p 1).memory with
      | some q => q.1.space == 3
      | none => false
    done [src 0, noIngress 0, dst 1, notMemory (p 1), checkIf w ftAddr,
        checkIf (!(p 0).lgIs (sredLg ty) || !(p 1).lgIs (sredLg ty) || !agree l0 l1) ftCheck]
      (l1.getD 0) (l1.getD 0 / 2 ^ (sredLg ty))
  | .fill =>
    let n := match (p 1).memory with
      | some q => q.1.len
      | none => 0
    done [dst 1, notMemory (p 1)] 0 n
  | .cvt _ =>
    let ws := fmtWidth (c.b.bits 0 8)
    let wd := fmtWidth (c.b.bits 8 8)
    let sbf := hasSbf c.b
    let plane (n : Nat) : Option Nat := (p n).memory.map fun q => q.1.len
    let n := (valuesIn l0 ws).orElse fun _ => (valuesIn l1 wd).orElse fun _ => if sbf then (plane 2).map fun m => 32 * m else none
    let v := n.getD 0
    let planes : List (Option Nat) := if sbf then
        [src 2, notMemory (p 2), src 3, notMemory (p 3),
         checkIf (!(p 2).lgIs 1 || !(p 3).lgIs 0 || v % 256 != 0 || !agree (plane 2) (some (v / 32)) || !agree (plane 3) (some (v / 256))
           || !f32Positive (c.c.bits 0 32)) ftCheck]
      else []
    done ([src 0, noIngress 0, dst 1, checkIf (cvtWordBad c.b || n.isNone || !agree l0 (some (v * ws / 8))
        || !agree l1 (some (v * wd / 8))) ftCheck] ++ planes)
      (v * ws / 8) (if sbf then v / 256 else v)

/-! ### Steps of a stream -/

/-- What a step of a command gives: nothing yet, progress, or a failure. -/
inductive Prog where
  | stay
  | go (c : SCmd) (s : State)
  | fail (f : ElemFail) (s : State)

/-- The size of what the destination takes at once. -/
def Bound.chunk (b : Bound) : Nat :=
  match b.memory with
  | some p => 2 ^ p.1.lg
  | none => 8

/-- Everything of the source has been fetched and converted. -/
def SCmd.drained (c : SCmd) : Bool := c.got == c.total && c.raw.isEmpty && c.conv == c.units && c.put.isEmpty

/-- A beat for the port network of a region: while the region is on no pages it waits (R219, R224). -/
def State.portReady (s : State) (c : SCmd) (b : Bound) (dst : Bool) (h : Nat) : Option Prog :=
  match s.portBad c.ctx b dst with
  | some e => some (.fail (.code e) s)
  | none => if (s.region c.ctx h).onPagesNow then none else some .stay

/-- One element or beat delivered to the destination. The last beat to a port is filled with zeros. -/
def State.strDeliver (s : State) (k : Nat) (c : SCmd) : Prog :=
  let b := c.port 1
  let last := c.fault.isNone && c.drained && !c.buf.isEmpty
  match b.e with
  | .mem _ base =>
    match b.memory with
    | none => .stay
    | some (p, _) =>
      let n := 2 ^ p.lg
      if c.buf.length < n then .stay
      else match s.elemAt (k / 8) c.ctx c.lane p.space p.lg (p.addr base (c.sent / n)) true with
        | (.error f, s1) => .fail f s1
        | (.ok e, s1) => .go { c with buf := c.buf.drop n, sent := c.sent + n } (s1.elemWrite e p.lg (bytesVal (c.buf.take n)))
  | .fabric h idx =>
    let die := s.dieOf c.ctx h
    let r := s.regionOn c.ctx h die
    match s.portReady c b true h with
    | some p => p
    | none =>
      let q := tabGet [] r.inq idx
      if (c.buf.length < 8 ∧ !last) ∨ Config.portDepth + 1 ≤ q.length then .stay
      else
        let beat : Beat := { v := bytesVal (c.buf.take 8), sb := 0 }
        .go { c with buf := c.buf.drop 8, sent := c.sent + (c.buf.take 8).length }
          (s.setRegion c.ctx h die { r with inq := tabPut r.inq idx (q ++ [beat]) })
  | .vector h x y q =>
    match s.portReady c b true h with
    | some p => p
    | none =>
      let key := s.vectorQueue c.ctx h x y q
      let d := s.dq key
      if (c.buf.length < 8 ∧ !last) ∨ 64 ≤ d.slots.length then .stay
      else
        let sq := s.nextD (key / 4) 1
        .go { c with buf := c.buf.drop 8, sent := c.sent + (c.buf.take 8).length }
          (sq.2.setDq key { d with slots := d.slots ++ [(8 * sq.1, some (bytesVal (c.buf.take 8)))] })
  | _ => .stay

/-- One element, beat or record of a source fetched: its bytes. -/
def State.strFetch (s : State) (k : Nat) (c : SCmd) (b : Bound) : Prog :=
  match b.e with
  | .mem _ base =>
    match b.memory with
    | none => .stay
    | some (p, _) =>
      let n := 2 ^ p.lg
      match s.elemAt (k / 8) c.ctx c.lane p.space p.lg (p.addr base (c.got / n)) false with
      | (.error f, s1) => .fail f s1
      | (.ok e, s1) => .go { c with raw := c.raw ++ valBytes (s1.elemRead e p.lg) n, got := c.got + n } s1
  | .fabric h idx =>
    let die := s.dieOf c.ctx h
    let r := s.regionOn c.ctx h die
    match s.portReady c b false h with
    | some p => p
    | none => match tabGet [] r.outq idx with
      | [] => .stay
      | bt :: q =>
        let n := if c.total - c.got < 8 then c.total - c.got else 8
        .go { c with raw := c.raw ++ valBytes bt.v n, got := c.got + n } (s.setRegion c.ctx h die { r with outq := tabPut r.outq idx q })
  | .ingress e n =>
    match tabGet [] s.frames (8 * e + n) with
    | [] => .stay
    | f :: rest =>
      if c.total < c.got + f.length then
        (if c.got = 0 then .fail (.code ftCheck) s
         else .go { c with total := c.got, units := if c.units = 0 then 0 else (c.got + 1023) / 1024 } s)
      else .go { c with raw := c.raw ++ f.map fun b => (b, false), got := c.got + f.length }
        { s with frames := tabPut s.frames (8 * e + n) rest }
  | _ => .stay

/-- Element `j` of a memory port. -/
def State.elemPort (s : State) (k : Nat) (c : SCmd) (b : Bound) (j : Nat) (write : Bool) (atomic : Bool := false) :
    Except ElemFail ElemAt × State :=
  match b.memory with
  | none => (.error (.code ftAddr), s)
  | some (p, base) => s.elemAt (k / 8) c.ctx c.lane p.space p.lg (p.addr base j) write atomic

/-- The check unit of R208: written to its entry for data that enters, verified for data from memory. -/
def State.checkUnit (s : State) (c : SCmd) (unit : List (Byte × Bool)) : Bool × State :=
  match s.partOf c.ctx false c.c with
  | .error _ => (false, s)
  | .ok (p, off) =>
    let crc := crc32c (unit.map Prod.fst)
    let key := partKey p (off + 4 * c.conv)
    match (c.port 0).e with
    | .mem _ _ => ((s.pdb.load 8 key 4).v == Word.ofN crc, s.correct spP key 4)
    | _ => (true, s.pPut key (bytesOfNat 4 crc) false)

/-- An index as a signed number. -/
def idxValue (v : Val) (w : Nat) : Int := signedBits (8 * w) (v.v.toNat % 2 ^ (8 * w))

/-- t + idx × s, modulo 2^64. -/
def tableAddr (base : Word) (lg : Nat) (idx : Int) : Word := BitVec.ofInt 64 ((base.toNat : Int) + idx * (2 ^ lg : Nat))

/-- The element update of `sred` (R210). -/
def sredOp (op : SredOp) (ty : SredTy) (x : Bool) (old new : Word) : Word × Flags :=
  let w := 8 * 2 ^ (sredLg ty)
  match ty with
  | .f32 =>
    let a := old.bits 0 32
    let b := new.bits 0 32
    let r : Nat × Flags := match op with
      | .add => sumFp .f32 .rne x [decodeF .f32 a, decodeF .f32 b]
      | .min => minmaxFp .f32 false a b
      | .max => minmaxFp .f32 true a b
    (Word.ofN r.1, r.2)
  | _ =>
    let a := signedBits w (old.toNat % 2 ^ w)
    let b := signedBits w (new.toNat % 2 ^ w)
    let r : Int := match op with
      | .add => a + b
      | .min => if b < a then b else a
      | .max => if a < b then b else a
    (Word.ofN (wrapInt w r), 0)

/-! ### Conversion (R211) -/

/-- The exact value of a plain element. -/
def plainVal (fmt bits : Nat) : Fp :=
  match fmtFloat fmt with
  | some t => decodeF t (bits % 2 ^ t.width)
  | none => let i := signedBits 8 (bits % 256); .fin (decide (i < 0)) i.natAbs 0

/-- A value written to a plain format. -/
def plainOut (fmt : Nat) (rm : Rm) (x : Bool) (v : Fp) : Nat × Flags :=
  match fmtFloat fmt with
  | some t => convF t rm x v
  | none => toIntF true 8 rm v

/-- A value times a positive dyadic. -/
def fpScale (v : Fp) (d : Dy) : Fp :=
  match v with
  | .fin n m e => .fin n (m * d.m.natAbs) (e + d.e)
  | o => o

/-- A value over a positive dyadic, with a sticky bit below the quotient. -/
def fpOver (v : Fp) (d : Dy) : Fp :=
  match v with
  | .fin n m e =>
    let q := m <<< 90
    let r := withSticky (q / d.m.natAbs) (e - d.e - 90) (q % d.m.natAbs != 0)
    if m = 0 then .fin n 0 0 else .fin n r.1 r.2
  | o => o

def rmCode (n : Nat) : Rm :=
  match n with
  | 0 => .rne
  | 1 => .rtz
  | 2 => .rdn
  | _ => .rup

/-- The little-endian number of bytes. -/
def bytesNum (bs : List (Byte × Bool)) : Nat := bs.foldr (fun b n => b.1.toNat + 256 * n) 0

/-- Element `i` of `w` bits of a packed plane, and its poison. -/
def packed (bs : List (Byte × Bool)) (num w i : Nat) : Nat × Bool :=
  let lo := i * w / 8
  let hi := (i * w + w - 1) / 8
  (num / 2 ^ (w * i) % 2 ^ w, ((bs.drop lo).take (hi - lo + 1)).any fun b => b.2)

/-- The values of a group of 256 SBF elements, with their poison. -/
def sbfGroup (f : Sbf) (bs : List (Byte × Bool)) (exps : List Val) (scale : Val) (c : Dy) : List (Fp × Bool) :=
  let w := sbfWidth f
  let num := bytesNum bs
  (List.range 256).map fun i =>
    let e := packed bs num w i
    let x := exps.getD (i / 32) Val.zero
    let v := sbfVal f (x.v.bits 0 8) (x.v.bits 8 8) e.1
    let y := match gs8Val (scale.v.bits 0 8) with
      | some g => fpScale (fpScale v g) c
      | none => .nan false
    (y, e.2 || x.p || scale.p)

/-- The values of `n` plain elements of a format. -/
def plainGroup (fmt n : Nat) (bs : List (Byte × Bool)) : List (Fp × Bool) :=
  let w := fmtWidth fmt
  let num := bytesNum bs
  (List.range n).map fun i => (plainVal fmt (packed bs num w i).1, (packed bs num w i).2)

/-- Plain elements as bytes. -/
def plainBytes (fmt : Nat) (rm : Rm) (x : Bool) (vs : List (Fp × Bool)) : List (Byte × Bool) × Flags :=
  let out := vs.map fun v => (plainOut fmt rm x v.1, v.2)
  ((out.map fun o => valBytes { v := Word.ofN o.1.1, p := o.2 } (fmtWidth fmt / 8)).flatten, out.foldl (fun f o => f ||| o.1.2) 0)

/-- A group of 256 values quantised: the bytes of the elements, the eight exponent words and the flags (R27, R28). -/
def sbfBytes (f : Sbf) (x : Bool) (c : Dy) (vs : List (Fp × Bool)) : List (Byte × Bool) × List Val × Flags :=
  let w := sbfWidth f
  let blocks := (List.range 8).map fun b =>
    let part := (vs.drop (32 * b)).take 32
    let q := quantBlock f x (part.map fun v => fpOver v.1 c)
    let p := part.any fun v => v.2
    (((bytesOfNat (4 * w) (ofLanes w q.2.2.1)).map fun y => (y, p)), ({ v := Word.ofN (q.1 + 256 * q.2.1), p := p } : Val), q.2.2.2)
  ((blocks.map fun b => b.1).flatten, blocks.map fun b => b.2.1, blocks.foldl (fun f b => f ||| b.2.2) 0)

def State.addSflag (s : State) (k ctx : Nat) (f : Flags) : State :=
  let c := s.sctx k ctx
  s.setSctx k ctx { c with sflag := c.sflag ||| f }

/-- The port and the element of plane word `j` of group `n`: eight exponents, then the scale. -/
def planeWord (n j : Nat) : Nat × Nat := if j < 8 then (2, 8 * n + j) else (3, n)

/-- A plane word of the next group read: the group's source side is SBF. -/
def State.cvtRead (s : State) (k : Nat) (c : SCmd) : Prog :=
  let w := planeWord c.conv c.side.length
  match s.elemPort k c (c.port w.1) w.2 false with
  | (.error f, s1) => .fail f s1
  | (.ok e, s1) => .go { c with side := c.side ++ [s1.elemRead e (3 - w.1)] } s1

/-- A plane word of the last group written. -/
def State.cvtWrite (s : State) (k : Nat) (c : SCmd) (w : Nat × Nat × Val) : Prog :=
  match s.elemPort k c (c.port w.1) w.2.1 true with
  | (.error f, s1) => .fail f s1
  | (.ok e, s1) => .go { c with put := c.put.tail } (s1.elemWrite e (3 - w.1) w.2.2)

/-- One unit of `scvt`: a value, or a group of 256 with its planes, whose words are read and written one at a time. -/
def State.cvtUnit (s : State) (k : Nat) (c : SCmd) (x : Bool) : Prog :=
  let fs := c.b.bits 0 8
  let fd := c.b.bits 8 8
  let rm := rmCode (c.b.bits 17 2)
  let n := if hasSbf c.b then 256 else 1
  let need := n * fmtWidth fs / 8
  let cd := (decodeF .f32 (c.c.bits 0 32)).dy
  if c.raw.length < need ∨ ((fmtSbf fd).isSome ∧ !c.buf.isEmpty) then .stay
  else if (fmtSbf fs).isSome ∧ c.side.length < 9 then s.cvtRead k c
  else
    let bs := c.raw.take need
    let vs := match fmtSbf fs with
      | none => plainGroup fs n bs
      | some f => sbfGroup f bs (c.side.take 8) (c.side.getD 8 Val.zero) cd
    let next (buf : List (Byte × Bool)) : SCmd :=
      { c with raw := c.raw.drop need, conv := c.conv + 1, buf := c.buf ++ buf, side := [] }
    match fmtSbf fd with
    | none =>
      let o := plainBytes fd rm x vs
      .go (next o.1) (s.addSflag k c.ctx o.2)
    | some f =>
      let o := sbfBytes f x cd vs
      .go { next o.1 with put := (List.range 9).zipWith (fun j v => ((planeWord c.conv j).1, (planeWord c.conv j).2, v))
                                   (o.2.1 ++ [Val.clean 0x78]) } (s.addSflag k c.ctx o.2.2)

/-- The index of element `conv` of `ssct` read, from memory or from its port; it is kept until its element is written. -/
def State.sctIndex (s : State) (k : Nat) (c : SCmd) : Prog :=
  let b := c.port 2
  match b.memory with
  | some (p, _) => match s.elemPort k c b c.conv false with
    | (.error f, s1) => .fail f s1
    | (.ok e, s1) => .go { c with side := [s1.elemRead e p.lg] } s1
  | none => match s.strFetch k { c with raw := [], got := 0, total := 8 } b with
    | .go c1 s1 => .go { c with side := [bytesVal c1.raw] } s1
    | p => p

/-- One unit converted: what stands between the fetched bytes and the destination. -/
def State.strConvert (s : State) (k : Nat) (c : SCmd) : Prog :=
  let take (n : Nat) : SCmd := { c with raw := c.raw.drop n, conv := c.conv + 1 }
  match sKind c.i with
  | .copy => if c.raw.isEmpty then .stay else .go { c with raw := [], buf := c.buf ++ c.raw } s
  | .chk =>
    if c.raw.length < 1024 ∧ (c.got ≠ c.total ∨ c.raw.isEmpty) then .stay
    else
      let unit := c.raw.take 1024
      let r := s.checkUnit c unit
      if r.1 then .go { take 1024 with buf := c.buf ++ unit } r.2 else .fail (.code ftCheck) r.2
  | .gat =>
    let w := idxWidth (c.port 2)
    if c.raw.length < w then .stay
    else
      let v := bytesVal (c.raw.take w)
      match (c.port 0).memory with
      | none => .stay
      | some (p, base) =>
        if v.p then .fail (.code ftPoison) s
        else match s.elemAt (k / 8) c.ctx c.lane p.space p.lg (tableAddr base p.lg (idxValue v w)) false with
          | (.error f, s1) => .fail f s1
          | (.ok e, s1) => .go { take w with buf := c.buf ++ valBytes (s1.elemRead e p.lg) (2 ^ p.lg) } s1
  | .sct =>
    match (c.port 1).memory with
    | none => .stay
    | some (p, base) =>
      if c.raw.length < 2 ^ p.lg ∨ c.units ≤ c.conv then .stay
      else match c.side with
        | [] => s.sctIndex k c
        | v :: _ =>
          if v.p then .fail (.code ftPoison) s
          else match s.elemAt (k / 8) c.ctx c.lane p.space p.lg (tableAddr base p.lg (idxValue v (idxWidth (c.port 2)))) true with
            | (.error f, s1) => .fail f s1
            | (.ok e, s1) => .go { take (2 ^ p.lg) with sent := c.sent + 2 ^ p.lg, side := [] }
                (s1.elemWrite e p.lg (bytesVal (c.raw.take (2 ^ p.lg))))
  | .red op ty x =>
    if c.raw.length < 2 ^ (sredLg ty) then .stay
    else match s.elemPort k c (c.port 1) c.conv true true with
      | (.ok e, s1) =>
        let old := s1.elemRead e (sredLg ty)
        let new := bytesVal (c.raw.take (2 ^ (sredLg ty)))
        let r := sredOp op ty x old.v new.v
        let p := old.p || new.p
        .go { take (2 ^ (sredLg ty)) with sent := c.sent + 2 ^ (sredLg ty) }
          ((s1.elemWrite e (sredLg ty) { v := r.1, p := p }).addSflag k c.ctx r.2)
      | (.error f, s1) => .fail f s1
  | .fill =>
    if c.units ≤ c.conv then .stay
    else match s.elemPort k c (c.port 1) c.conv true, (c.port 1).memory with
      | (.ok e, s1), some (p, _) => .go { take 0 with sent := c.sent + 2 ^ p.lg } (s1.elemWrite e p.lg (Val.clean c.b))
      | (.error f, s1), _ => .fail f s1
      | (_, s1), _ => .go (take 0) s1
  | .cvt x => s.cvtUnit k c x

/-- How many fetched bytes a unit takes: a source is read no further ahead. -/
def SCmd.ahead (c : SCmd) : Nat :=
  match sKind c.i with
  | .copy => 1
  | .chk => 1024
  | .cvt _ => (if hasSbf c.b then 256 else 1) * fmtWidth (c.b.bits 0 8) / 8
  | _ => 8

/-- The source whose bytes a command fetches. -/
def SCmd.source (c : SCmd) : Bound :=
  match sKind c.i with
  | .gat => c.port 2
  | _ => c.port 0

def State.putCmd (s : State) (k : Nat) (c : SCmd) : State :=
  let v := s.sisl k
  s.setSisl k { v with cmds := v.cmds.map fun e => if e.ctx = c.ctx ∧ e.num = c.num then c else e }

/-- A failure: a code ends the command at this element; a translation fault stalls it until the pager answers, or ends it with
`FT_PAGE` when it comes from a timed lane or no records are enabled (R209, R307, R308). A timed lane's access outside its pinned
ranges ends its launch too (R275). -/
def State.strFail (s : State) (k : Nat) (c : SCmd) (f : ElemFail) (atDest : Bool) : State :=
  let stop (code : Nat) : SCmd := { c with fault := some code, raw := [], put := [], buf := if atDest then [] else c.buf }
  match f with
  | .wait => s
  | .code e =>
    let s1 := s.putCmd k (stop e)
    if e = ftPage then
      let r := s1.regionOn c.who.ctx c.who.handle c.who.die
      s1.setRegion c.who.ctx c.who.handle c.who.die { r with faults := r.faults ++
        [{ rank := faultRank c.who.x c.who.y c.who.pe ftPage, code := ftPage, data1 := 0 }] }
    else s1
  | .miss va w why =>
    if c.lane.isSome ∨ !(s.dcsrAt (k / 8) 0x8860).bit 0 then s.putCmd k (stop ftPage)
    else (s.putCmd k { c with stall := true }).miss
      { who := .cmd k c.num, ctx := c.ctx, va := va, kind := if w then 1 else 0, reason := why.code, src := k / 8 + 16 * (k % 8) }

/-- One step of a command in flight; none when it can do nothing now. -/
def State.strStep (s : State) (k : Nat) (c : SCmd) : Option State :=
  let use (p : Prog) (atDest : Bool) (other : Option State) : Option State :=
    match p with
    | .stay => other
    | .go c1 s1 => some (s1.putCmd k c1)
    | .fail .wait _ => other
    | .fail f s1 => some (s1.strFail k c f atDest)
  let fetch : Option State :=
    if c.got < c.total ∧ c.raw.length < c.ahead ∧ c.buf.length < 64 then use (s.strFetch k c c.source) false none else none
  let convert : Option State := if c.buf.length < 2048 then use (s.strConvert k c) false fetch else none
  match c.put with
  | w :: _ => use (s.cvtWrite k c w) true none
  | [] => use (s.strDeliver k c) true (if c.fault.isSome then none else convert)

def State.cmdOf (s : State) (k ctx num : Nat) : Option SCmd := (s.sisl k).cmds.find? fun c => c.ctx == ctx && c.num == num

/-- Steps of one command until 64 bytes are delivered or it can go no further. -/
def State.strRun (s : State) (k ctx num goal : Nat) : Nat → State
  | 0 => s
  | fuel + 1 => match s.cmdOf k ctx num with
    | none => s
    | some c =>
      if goal ≤ c.sent ∨ c.stall then s
      else match s.strStep k c with
        | none => s
        | some s1 => s1.strRun k ctx num goal fuel

/-- Whether a command in flight has done all it will do. -/
def SCmd.finished (c : SCmd) : Bool :=
  c.started && !c.done && (match c.fault with
    | some _ => decide (c.buf.length < (c.port 1).chunk)
    | none => c.drained && c.buf.isEmpty)

/-- A command whose context runs; a context that stops lets it go on to its next 1 KiB boundary (R214). -/
def State.mayMove (s : State) (c : SCmd) : Bool :=
  s.ctxWorks c.ctx || (s.ctxState c.ctx == ctxSaving && c.sent % 1024 != 0)

/-- A command put in its place by its last turn. -/
def insTurn : List SCmd → SCmd → List SCmd
  | [], c => [c]
  | e :: r, c => if c.turn < e.turn then c :: e :: r else e :: insTurn r c

/-- The commands that may take a turn: by priority, then round robin: the one served longest ago comes first (R202). -/
def State.turns (s : State) (k : Nat) : List SCmd :=
  let ok := (s.sisl k).cmds.filter fun c => c.started && !c.done && !c.stall && !c.finished && s.mayMove c
  let rot := ok.foldl insTurn []
  ((List.range 6).map fun p => rot.filter fun c => c.prio == p).flatten

/-- How far a burst takes a command: 64 bytes; one whose context stops no further than its next 1 KiB boundary (R214). -/
def State.burstGoal (s : State) (c : SCmd) : Nat :=
  let edge := (c.sent / 1024 + 1) * 1024
  if s.ctxState c.ctx = ctxSaving ∧ edge < c.sent + 64 then edge else c.sent + 64

/-- STREAM_BURST: one command in its turn moves up to 64 bytes. -/
def execStreamBurst (isl : Nat) (s : State) : Out :=
  .next (match (s.turns isl).find? fun c => (s.strStep isl c).isSome with
    | none => s
    | some c =>
      let v := s.sisl isl
      ((s.setSisl isl { v with last := v.last + 1 }).putCmd isl { c with turn := v.last + 1 }).strRun isl c.ctx c.num (s.burstGoal c) 4096)

/-! ### Start and completion (R202) -/

def SCmd.singles (c : SCmd) : List Nat := (c.ports.filter Bound.single).map Bound.port

/-- Whether a waiting command may start. -/
def State.mayStart (s : State) (k : Nat) (c : SCmd) : Bool :=
  let l := (s.sisl k).cmds.filter fun e => e.ctx == c.ctx && !e.done && e.singles.any fun p => c.singles.contains p
  s.ctxWorks c.ctx && !c.started && !c.done && !(l.any fun e => e.started) && !(l.any fun e => decide (e.num < c.num))

/-- STREAM_COMMAND_START: the highest priority first, then the earliest accepted. -/
def execStreamCommandStart (isl : Nat) (s : State) : Out :=
  let v := s.sisl isl
  let ok := v.cmds.filter (s.mayStart isl)
  let pick := ok.foldl (fun (acc : Option SCmd) c => match acc with
    | none => some c
    | some a => if c.prio < a.prio then some c else acc) none
  .next (if 96 ≤ (v.cmds.filter fun c => c.started && !c.done).length then s
    else match pick with
      | none => s
      | some c => match s.strCheck c with
        | .error e => s.putCmd isl { c with started := true, ports := c.ports.map fun _ => Bound.none_, fault := some e }
        | .ok c1 =>
          let s1 := (s.putCmd isl c1).cardRuns c1.card
          match (c1.port 1).e with
          | .vector h x y q =>
            let key := s1.vectorQueue c.ctx h x y q
            s1.setDq key { s1.dq key with live := (s1.dq key).live + 1 }
          | _ => s1)

/-- STREAM_COMMAND_COMPLETE: a command whose last burst is written completes, and the counter advances. -/
def execStreamCommandComplete (isl : Nat) (s : State) : Out :=
  .next (match (s.sisl isl).cmds.find? SCmd.finished with
    | none => s
    | some c => s.streamEndCmd isl c false)

/-! ### Ethernet ingress (R212) -/

/-- A frame's record: timestamp, length, EtherType, port, payload padded to a multiple of 8. -/
def frameRecord (time etype port : Nat) (payload : List Byte) : List Byte :=
  bytesOfNat 8 time ++ bytesOfNat 2 payload.length ++ bytesOfNat 2 etype ++ bytesOfNat 1 port ++ bytesOfNat 3 0 ++ payload
    ++ List.replicate ((8 - payload.length % 8) % 8) 0

/-- A frame received: to the lowest-numbered enabled channel of its EtherType, else to the host. A bad FCS or a frame of more
than 9,216 bytes, with its header of 14 bytes and its FCS, is never delivered. -/
def execIngressFrameReceived (port etype : Nat) (payload : List Byte) (fcsOk : Bool) (s : State) : Out :=
  .next (if !fcsOk ∨ 9216 < payload.length + 18 ∨ s.ethDown.contains port then s
    else
      let hit := ([0, 1, 2, 3, 4, 5, 6, 7] : List Nat).find? fun n =>
        let w := s.pkgCsr (0x8400 + 8 * port + n)
        w.bit 32 && w.bits 0 16 == etype
      match hit with
      | none => { s with hostFrames := s.hostFrames ++ [(s.tb.time, payload)] }
      | some n =>
        let r := frameRecord s.tb.time etype port payload
        let q := tabGet [] s.frames (8 * port + n)
        let used := q.foldl (fun a f => a + f.length) 0
        if used + r.length ≤ 65536 then { s with frames := tabPut s.frames (8 * port + n) (q ++ [r]) }
        else
          let w := s.pkgCsr (0x8400 + 8 * port + n)
          let d := w.bits 48 16
          s.setPkgCsr (0x8400 + 8 * port + n) (Word.ofN (w.bits 0 48 + (if d < 65535 then d + 1 else d) * 2 ^ 48)))

end Sys2Proof.Machine
end

