-- ==== Sys2Proof/Machine/MatrixMath.lean ====
section
/-! DEFINITION. The arithmetic of a matrix island: records, the accumulation of R31 to R33, the drain of R34 and R180, and the
frame of R186. -/

namespace Sys2Proof.Machine

/-! ### Records (R169 to R171) -/

/-- The number of the `n` bytes at `off`. -/
def numAt (bs : List Byte) (off n : Nat) : Nat := ((bs.drop off).take n).foldr (fun b a => b.toNat + 256 * a) 0

/-- Element `i` of `w` bits of a packed element plane. -/
def elemBits (bs : List Byte) (w i : Nat) : Nat :=
  let lo := i * w / 8
  numAt bs lo 2 / 2 ^ (i * w - 8 * lo) % 2 ^ w

def MRec.fmt (r : MRec) : Nat := numAt r.bytes 0 1
def MRec.scale (r : MRec) : Nat := numAt r.bytes 4 4
def MRec.k (r : MRec) : Nat := numAt r.bytes 0x2A 2
def MRec.exps (r : MRec) (b : Nat) : Nat := numAt r.bytes (8 + 2 * b) 2
def MRec.gs (r : MRec) (g : Nat) : Nat := numAt r.bytes (0x28 + g) 1
def MRec.elems (r : MRec) : List Byte := r.bytes.drop 0x40

/-- The same of a column of a B tile. -/
def MRec.bFmt (r : MRec) : Nat := numAt r.bytes 0x3F8 1
def MRec.bScale (r : MRec) : Nat := numAt r.bytes 0x3FC 4
def MRec.bExps (r : MRec) (b : Nat) : Nat := numAt r.bytes (0x200 + 2 * b) 2
def MRec.bGs (r : MRec) (g : Nat) : Nat := numAt r.bytes (0x220 + g) 1

/-- K_tile of a B format (R170); none for what is no B format. -/
def kTile : Nat → Option Nat
  | 1 => some 128
  | 3 => some 512
  | 4 => some 512
  | 5 => some 128
  | 6 => some 512
  | 7 => some 512
  | 8 => some 256
  | _ => none

def isFp8 (f : Nat) : Bool := f == 3 || f == 4

/-- The legal pairs of R170. -/
def legalPair (a b : Nat) : Bool :=
  (isFp8 a && isFp8 b) || ((fmtSbf a).isSome && (fmtSbf b).isSome) || (a == 5 && b == 5) || (a == 1 && b == 1)

/-- Formats that a row of A may have. -/
def isAFmt (a : Nat) : Bool := isFp8 a || (fmtSbf a).isSome || a == 5 || a == 1

/-- Cycles that a row occupies the array. -/
def cprOf (a b k : Nat) : Nat := if a = 8 ∨ b = 8 ∨ a = 5 ∨ a = 1 then k / 128 else k / 512

/-- Beats of a row on the channel: the lead beat of an SBF row and the element beats. -/
def rowBeats (fmt k : Nat) : Nat :=
  if 8 < fmt then Config.packetRow fmt else (if (fmtSbf fmt).isSome then 1 else 0) + k * fmtWidth fmt / 64

/-- A row's record from its header beat and its channel beats (R171). -/
def rowRecord (hd : Beat) (k : Nat) (beats : List Beat) : MRec :=
  let fmt := hd.v.v.bits 0 8
  let sbf := (fmtSbf fmt).isSome
  let els := if sbf then beats.drop 1 else beats
  let lead := match beats with
    | b :: _ => if sbf then bytesOfNat 2 (b.v.v.toNat % 65536) else bytesOfNat 2 0
    | [] => bytesOfNat 2 0
  let sides := if sbf then els.map Beat.sb else []
  let exps := sides.take 32 ++ List.replicate (32 - (sides.take 32).length) 0
  { bytes := bytesOfWord hd.v.v ++ exps ++ lead ++ bytesOfNat 2 k ++ List.replicate 20 0
      ++ (els.map fun b => bytesOfWord b.v.v).flatten
    pois := hd.v.p || beats.any fun b => b.v.p }

/-! ### Accumulation (R31 to R33) -/

/-- An f32 sum rounded to nearest even. -/
def add32 (terms : List Fp) : Nat := (sumFp .f32 .rne false terms).1

/-- One K-group of SBF elements (R31): the new value of the cell. `g` is the group. -/
def sbfGroupAcc (fa fb : Sbf) (a b : MRec) (c g : Nat) : Nat :=
  let blocks := (List.range 8).map fun j => (a.exps (8 * g + j), b.bExps (8 * g + j))
  let top (e : Nat) : Nat :=
    let x := e % 256
    let y := e / 256
    if x = 0xFF then (if y = 0xFF then 0 else y) else if y = 0xFF then x else if x < y then y else x
  let t : Int := ((blocks.map fun p => top p.1 + top p.2).foldl (fun m v => if m < v then v else m) 0 : Nat) - 254
  let ael := a.elems
  let val (j i : Nat) : Fp × Fp :=
    let p := blocks.getD j (0, 0)
    let n := 256 * g + 32 * j + i
    (sbfVal fa (p.1 % 256) (p.1 / 256) (elemBits ael (sbfWidth fa) n), sbfVal fb (p.2 % 256) (p.2 / 256) (elemBits b.bytes (sbfWidth fb) n))
  let prods (j : Nat) : List Fp := (List.range 32).map fun i => (mulFp (val j i).1 (val j i).2).1
  let all := (List.range 8).map prods
  if all.any (fun l => l.any Fp.isNaN) ∨ a.gs g = 0xFF ∨ b.bGs g = 0xFF then canonNaN .f32
  else
    let floorAt (d : Dy) (k : Int) : Int := if k ≤ d.e then d.m * (2 ^ (d.e - k).toNat : Nat) else d.m / (2 ^ (k - d.e).toNat : Nat)
    let acc := all.foldl (fun (n : Int) l => n + floorAt (l.foldl (fun s v => s.add v.dy) Dy.zero) (t - 39)) 0
    let sc := ((gs8Val (a.gs g)).getD Dy.zero).mul ((gs8Val (b.bGs g)).getD Dy.zero)
    let gv := (roundNE32 (Dy.mul { m := acc, e := t - 39 } sc) false).1
    add32 [decodeF .f32 c, decodeF .f32 gv]

/-- One chunk of 32 FP8 elements (R32): of the flags, NV for infinities of both signs and for a signalling NaN (log entry 85). -/
def fp8Chunk (ta tb : FTy) (a b : MRec) (c : Nat × Flags) (g : Nat) : Nat × Flags :=
  let ael := a.elems
  let prods := (List.range 32).map fun i =>
    (mulFp (decodeF ta (elemBits ael 8 (32 * g + i))) (decodeF tb (elemBits b.bytes 8 (32 * g + i)))).1
  let sum := sumFp .f32 .rne false prods
  (add32 [decodeF .f32 c.1, decodeF .f32 sum.1], c.2 ||| (sum.2 &&& flagNV))

/-- One bf16 product (R33); a signalling NaN raises NV (R20). -/
def bf16Step (a b : MRec) (c : Nat × Flags) (i : Nat) : Nat × Flags :=
  let x := decodeF .bf16 (elemBits a.elems 16 i)
  let y := decodeF .bf16 (elemBits b.bytes 16 i)
  (add32 [decodeF .f32 c.1, (mulFp x y).1], c.2 ||| flagIf (x.isSig || y.isSig) flagNV)

/-- One s8 product into an s32 cell that clamps, with SAT (R33). -/
def s8Step (a b : MRec) (c : Nat × Flags) (i : Nat) : Nat × Flags :=
  let x := toSigned 8 (elemBits a.elems 8 i) * toSigned 8 (elemBits b.bytes 8 i)
  let r := satInt true 32 (toSigned 32 c.1 + x)
  (r.1, c.2 ||| r.2)

/-- A row of A against a column of B: the new value of the cell. -/
def cellUpdate (a b : MRec) (k c : Nat) : Nat × Flags :=
  match fmtSbf a.fmt, fmtSbf b.bFmt with
  | some fa, some fb => ((List.range (k / 256)).foldl (fun c g => sbfGroupAcc fa fb a b c g) c, 0)
  | _, _ =>
    if a.fmt = 5 then (List.range k).foldl (fun c i => s8Step a b c i) (c, 0)
    else if a.fmt = 1 then (List.range k).foldl (fun c i => bf16Step a b c i) (c, 0)
    else match fmtFloat a.fmt, fmtFloat b.bFmt with
      | some ta, some tb => (List.range (k / 32)).foldl (fun c g => fp8Chunk ta tb a b c g) (c, 0)
      | _, _ => (c, 0)

/-! ### Cells, kinds, scales -/

def MIsl.cell (m : MIsl) (row col : Nat) : Nat := tabGet 0 m.c (128 * row + col)

def MIsl.setCell (m : MIsl) (row col v : Nat) : MIsl :=
  { m with c := if v = 0 then tabDel m.c (128 * row + col) else tabPut m.c (128 * row + col) v }

/-- Whenever rows are cleared and none is left that has a kind, every tB and every column poison is cleared (R180, log entry 86). -/
def MIsl.settleB (m : MIsl) : MIsl := if m.kind.isEmpty then { m with tb := [], colP := [] } else m

/-- Rows cleared: C +0, kind and tA unset, poison cleared. -/
def MIsl.clearRows (m : MIsl) (first count : Nat) : MIsl :=
  let mine (r : Nat) : Bool := decide (first ≤ r) && decide (r < first + count)
  MIsl.settleB { m with
    c := m.c.filter fun e => !mine (e.1 / 128)
    kind := m.kind.filter fun e => !mine e.1
    ta := m.ta.filter fun e => !mine e.1
    rowP := m.rowP.filter fun r => !mine r }

/-- The island zeroed (R178): its map, its spares and the commands in its queue stay. -/
def MIsl.zero (m : MIsl) : MIsl :=
  { MIsl.init with st := m.st, owner := m.owner, lane := m.lane, colmap := m.colmap, spares := m.spares, lastf := m.lastf,
                   queue := m.queue }

/-- A row's update: every cell of accumulator row `row`, SAT of integer rows and NV kept in `IFLAG`, poison carried (R179, R181). -/
def MIsl.admitRow (m : MIsl) (rec : MRec) (tile : BTile) (row : Nat) : MIsl :=
  let upd (m : MIsl) (n : Nat) : MIsl :=
    let b := tile.cols.getD n { bytes := [], pois := false }
    let r := cellUpdate rec b rec.k (m.cell row n)
    let m1 := { m.setCell row n r.1 with iflag := m.iflag ||| r.2 }
    if b.pois then { m1 with colP := setIns m1.colP n } else m1
  let m1 := (List.range 128).foldl upd m
  if rec.pois then { m1 with rowP := setIns m1.rowP row } else m1

/-- The rows whose time has come update their accumulators (R182). -/
def MIsl.land (m : MIsl) (cycle : Nat) : MIsl :=
  let due := m.queue.flatMap fun c => c.flight.filter fun r => decide (r.due ≤ cycle)
  let m1 := due.foldl (fun m r => m.admitRow r.record r.tile r.row) m
  { m1 with queue := m1.queue.map fun c => { c with flight := c.flight.filter fun r => !decide (r.due ≤ cycle) } }

/-- Every row in flight lands (R187). -/
def MIsl.landAll (m : MIsl) : MIsl :=
  m.land (m.queue.foldl (fun n c => c.flight.foldl (fun n r => n + r.due) n) 0)

/-- The format of a valid tile: its columns agree (R176). -/
def BTile.fmt (t : BTile) : Nat := (t.cols.headD { bytes := [], pois := false }).bFmt

def BTile.ok (t : BTile) : Bool := (kTile t.fmt).isSome && t.cols.all fun c => c.bFmt == t.fmt

/-- The kind of a pair: 2 integer, 1 float. -/
def pairKind (a : Nat) : Nat := if a = 5 then 2 else 1

/-- The checks of R179 on a row with format `fmt`, K `k` and scale `sc` for accumulator row `row`. -/
def MIsl.rowOk (m : MIsl) (t : BTile) (fmt k sc row : Nat) : Bool :=
  legalPair fmt t.fmt && some k == kTile t.fmt
    && (match tabFind m.kind row with
      | some x => x == pairKind fmt
      | none => true)
    && (match tabFind m.ta row with
      | some x => x == sc
      | none => true)

def MIsl.colsOk (m : MIsl) (t : BTile) : Bool :=
  (List.range 128).all fun n => match tabFind m.tb n with
    | some x => x == (t.cols.getD n { bytes := [], pois := false }).bScale
    | none => true

/-- Kind and tA of a row, and tB of every column, set where they were unset. -/
def MIsl.setKinds (m : MIsl) (t : BTile) (rows : List (Nat × Nat × Nat)) : MIsl :=
  let m1 := rows.foldl (fun (m : MIsl) r => { m with kind := tabPut m.kind r.1 (pairKind r.2.1), ta := tabPut m.ta r.1 r.2.2 }) m
  { m1 with tb := (List.range 128).foldl (fun tb n => tabPut tb n (t.cols.getD n { bytes := [], pois := false }).bScale) m1.tb }

/-! ### Drain (R34, R180) -/

/-- The value of a cell as a datum: an s32 of an integer row is exact. -/
def MIsl.cellVal (m : MIsl) (row col : Nat) : Fp :=
  if tabGet 0 m.kind row = 2 then
    let i := toSigned 32 (m.cell row col)
    .fin (decide (i < 0)) i.natAbs 0
  else decodeF .f32 (m.cell row col)

/-- One cell drained: the output's bits and the flags. -/
def MIsl.drainCell (m : MIsl) (x : Bool) (row col : Nat) : Nat × Flags :=
  let one := 0x3F800000
  let p := mulFp (m.cellVal row col) (decodeF .f32 (tabGet one m.ta row))
  let q := mulFp p.1 (decodeF .f32 (tabGet one m.tb col))
  let v := convF .f32 .rne false q.1
  let relu := m.mode.bits 16 2 == 1 && decide (2 ^ 31 ≤ v.1) && !(decodeF .f32 v.1).isNaN
  let w := if relu then 0 else v.1
  let fmt := m.mode.bits 0 8
  let r : Nat × Flags := if fmt = 0 then (w, 0) else plainOut fmt .rne x (decodeF .f32 w)
  (r.1, p.2 ||| q.2 ||| v.2 ||| r.2)

/-- Bytes of a drained row. -/
def MIsl.rowLen (m : MIsl) : Nat := 128 * fmtWidth (m.mode.bits 0 8) / 8

/-- The beats of a drained row with their poison, and the island with its flags. -/
def MIsl.drainRow (m : MIsl) (x : Bool) (row : Nat) : List Val × MIsl :=
  let w := fmtWidth (m.mode.bits 0 8)
  let cells := (List.range 128).map fun n => (m.drainCell x row n, m.rowP.contains row || m.colP.contains n)
  let per := 64 / w
  let beats := (List.range (128 / per)).map fun j =>
    let part := (cells.drop (per * j)).take per
    ({ v := Word.ofN (ofLanes w (part.map fun c => c.1.1)), p := part.any fun c => c.2 } : Val)
  (beats, { m with iflag := cells.foldl (fun f c => f ||| c.1.2) m.iflag })

/-! ### The frame (R186) -/

/-- `n` entries of a table from key `i` on. -/
def dense {α : Type} (d : α) : Nat → Nat → Tab α → List α
  | 0, _, _ => []
  | n + 1, i, t => match t with
    | [] => d :: dense d n (i + 1) []
    | e :: r => if e.1 = i then e.2 :: dense d n (i + 1) r
      else if e.1 < i then d :: dense d n (i + 1) r
      else d :: dense d n (i + 1) (e :: r)

/-- The entries of a list that `keep` keeps, as a table. -/
def sparse {α : Type} (keep : α → Bool) : Nat → List α → Tab α
  | _, [] => []
  | i, a :: r => if keep a then (i, a) :: sparse keep (i + 1) r else sparse keep (i + 1) r

/-- A set of bit numbers as a number. -/
def maskOf (l : List Nat) : Nat := l.foldl (fun n i => n + 2 ^ i) 0

/-- The bits of a number below `n` as a rising set. -/
def bitsOf (n v : Nat) : List Nat := (List.range n).filter fun i => v.testBit i

/-- Beats that have passed on lane `l` among the first `n` of a stream. -/
def lanePassed (n l : Nat) : Nat := (n + 7 - l) / 8

/-- Lane state, slot poison, slots and side bands of eight lanes whose oldest slots are `old`. -/
def laneSlots (lanes : List (List Beat)) (old : Nat → Nat) (l s : Nat) : Beat :=
  let q := lanes.getD l []
  let j := (s + 16 - old l) % 16
  q.getD j Beat.zero

def allSlots (lanes : List (List Beat)) (old : Nat → Nat) : List Beat :=
  ((List.range 8).map fun l => (List.range 16).map fun s => laneSlots lanes old l s).flatten

def MIsl.oldIn (m : MIsl) (l : Nat) : Nat := lanePassed m.inPos l % 16

def MIsl.oldOut (m : MIsl) (l : Nat) : Nat := (lanePassed m.outPos l - (m.outl.getD l []).length) % 16

def MIsl.hasRecs (m : MIsl) : Bool := !m.recs.isEmpty

/-- The frame without queue records, as `mxsave` writes it. -/
def MIsl.frameBytes (m : MIsl) (die isl : Nat) : List Byte :=
  let laneState (lanes : List (List Beat)) (old : Nat → Nat) : List Byte :=
    ((List.range 8).map fun l => bytesOfNat 1 (old l) ++ bytesOfNat 1 (lanes.getD l []).length).flatten
  let slotsIn := allSlots m.inl m.oldIn
  let slotsOut := allSlots m.outl m.oldOut
  let pois (bs : List Beat) : Nat := ofLanes 1 (bs.map fun b => if b.v.p then 1 else 0)
  let c := ((dense 0 16384 0 m.c).map fun v => bytesOfNat 4 v).flatten
  let head := bytesOfNat 8 (0x4D58 * 2 ^ 48 + 2 ^ 40 + isl * 2 ^ 36 + die * 2 ^ 34 + (if m.hasRecs then 1 else 0))
    ++ bytesOfWord m.mode
    ++ bytesOfNat 8 (m.backIx * 2 ^ 32 + m.frontIx * 2 ^ 16 + (if m.back.isSome then 2 else 0) + (if m.front.isSome then 1 else 0))
    ++ bytesOfNat 8 m.iflag.toNat ++ bytesOfNat 32 (ofLanes 2 (dense 0 128 0 m.kind))
  let masks := bytesOfNat 16 (maskOf m.rowP) ++ bytesOfNat 16 (maskOf m.colP) ++ bytesOfNat 16 (maskOf (m.ta.map Prod.fst))
    ++ bytesOfNat 16 (maskOf (m.tb.map Prod.fst))
  let lanes := laneState m.inl m.oldIn ++ laneState m.outl m.oldOut
  let poison := bytesOfNat 16 (pois slotsIn) ++ bytesOfNat 16 (pois slotsOut)
  let posn := bytesOfNat 8 m.inPos ++ bytesOfNat 8 m.outPos ++ List.replicate 48 0
  let scales := ((dense 0 128 0 m.ta).map fun v => bytesOfNat 4 v).flatten ++ ((dense 0 128 0 m.tb).map fun v => bytesOfNat 4 v).flatten
  let slots := (slotsIn.map fun b => bytesOfWord b.v.v).flatten ++ (slotsOut.map fun b => bytesOfWord b.v.v).flatten
  let sides := slotsIn.map Beat.sb ++ slotsOut.map Beat.sb
  let blank : MRec := { bytes := List.replicate 576 0, pois := false }
  let full : Tab MRec := m.recs.map fun e => (e.1, { e.2 with bytes := e.2.bytes.take 0x2D ++ [1] ++ e.2.bytes.drop 0x2E })
  let pad (bs : List Byte) : List Byte := bs.take 576 ++ List.replicate (576 - bs.length) 0
  let recs := if m.hasRecs then ((dense blank 128 0 full).map fun r => pad r.bytes).flatten else []
  c ++ head ++ masks ++ lanes ++ poison ++ posn ++ scales ++ slots ++ sides ++ List.replicate 512 0 ++ recs

def frameLen (rsv : Bool) : Nat := if rsv then 143360 else 69632

/-- The mode word (R190). -/
def modeBad (b : Word) : Bool := decide (5 < b.bits 0 8) || b.bits 8 8 != 0 || decide (1 < b.bits 16 2) || b.bits 18 46 != 0

/-- Where queue record `j` of a frame stands. -/
def mxQueueAt (j : Nat) : Nat := 0x10E00 + 32 * j

/-- A queue record that breaks its layout; one without a number is unused, and 0. -/
def queueBad (bs : List Byte) (j : Nat) : Bool :=
  let at_ := mxQueueAt j
  (numAt bs at_ 8 == 0 && numAt bs at_ 32 != 0) || decide (32 ≤ numAt bs (at_ + 25) 1) || decide (2 ≤ numAt bs (at_ + 28) 1)
    || numAt bs (at_ + 29) 3 != 0

/-- Whether `mxrest` refuses a frame (R193): its reserved bits, and a `MODE` that no `mxfmt` writes (log entry 87). -/
def frameBad (bs : List Byte) : Bool :=
  let w := numAt bs 0x10000 8
  let buf := numAt bs 0x10010 8
  w / 2 ^ 40 != 0x4D5801 || w / 2 % 2 ^ 33 != 0 || buf / 2 ^ 42 != 0 || buf / 2 ^ 26 % 2 ^ 6 != 0 || buf / 4 % 2 ^ 14 != 0
    || numAt bs 0x10018 8 / 64 != 0 || numAt bs 0x100D0 48 != 0 || modeBad (Word.ofN (numAt bs 0x10008 8))
    || (List.range 16).any (queueBad bs)

/-- The lanes of a frame. -/
def frameLanes (bs : List Byte) (state pois slots sides : Nat) : List (List Beat) :=
  (List.range 8).map fun l =>
    let old := numAt bs (state + 2 * l) 1
    let n := numAt bs (state + 2 * l + 1) 1
    (List.range (n % 17)).map fun j =>
      let s := (old + j) % 16
      { v := { v := Word.ofN (numAt bs (slots + 128 * l + 8 * s) 8), p := (numAt bs (pois + 2 * l) 2).testBit s },
        sb := BitVec.ofNat 8 (numAt bs (sides + 16 * l + s) 1) }

/-- The island with the state of a frame; its buffers are refilled by their tile indices afterwards. A record with a poisoned word is
poisoned (log entry 88). -/
def MIsl.ofFrame (m : MIsl) (bs : List Byte) (pois : Nat → Bool) : MIsl :=
  let nums (off n w : Nat) : List Nat := (List.range n).map fun i => numAt bs (off + w * i) w
  let kinds := numAt bs 0x10020 32
  let setA := numAt bs 0x10060 16
  let setB := numAt bs 0x10070 16
  let buf := numAt bs 0x10010 8
  let recOf (i : Nat) : MRec := { bytes := (bs.drop (0x11000 + 576 * i)).take 576, pois := pois i }
  let recs := if (numAt bs 0x10000 8) % 2 = 0 then [] else
    ((List.range 128).filter fun i => numAt (recOf i).bytes 0x2D 1 % 2 == 1).map fun i => (i, recOf i)
  { m with
    c := sparse (fun v => v != 0) 0 (nums 0 16384 4)
    mode := Word.ofN (numAt bs 0x10008 8)
    front := none, back := none
    frontIx := buf / 2 ^ 16 % 1024, backIx := buf / 2 ^ 32 % 1024
    iflag := BitVec.ofNat 6 (numAt bs 0x10018 1)
    kind := sparse (fun v => v != 0) 0 ((List.range 128).map fun i => kinds / 4 ^ i % 4)
    rowP := bitsOf 128 (numAt bs 0x10040 16), colP := bitsOf 128 (numAt bs 0x10050 16)
    ta := (bitsOf 128 setA).map fun i => (i, numAt bs (0x10100 + 4 * i) 4)
    tb := (bitsOf 128 setB).map fun i => (i, numAt bs (0x10300 + 4 * i) 4)
    inl := frameLanes bs 0x10080 0x100A0 0x10500 0x10D00
    outl := frameLanes bs 0x10090 0x100B0 0x10900 0x10D80
    inPos := numAt bs 0x100C0 8, outPos := numAt bs 0x100C8 8
    recs := recs }

end Sys2Proof.Machine
end

