-- ==== Sys2Proof/Machine/Matrix.lean ====
section
/-! DEFINITION. Matrix islands: issue, the three paths, commands, queries, residue errors (R168 to R195). A command works row by
row; what its rows may not do before earlier commands is kept by the resources of R175. -/

namespace Sys2Proof.Machine

def State.misl (s : State) (k : Nat) : MIsl := tabGet MIsl.init s.misls k

def State.setMisl (s : State) (k : Nat) (m : MIsl) : State := { s with misls := tabPut s.misls k m }

/-! ### Ownership (R174, R178) -/

/-- Whether a context owns an island, in whatever state its work there is. -/
def MIsl.ownedBy (m : MIsl) (ctx : Nat) : Bool :=
  m.owner == ctx && m.st != .free && !(m.st == .testing && m.before == .free)

/-- `STATE` of `mxpeek.st`. -/
def IslSt.code : IslSt → Nat
  | .free => 0
  | .owned => 1
  | .saving => 2
  | .testing => 3
  | .faulted => 4
  | .retired => 5

/-- The island an operand names, on the issuing die. -/
def State.mislKey (s : State) (a : Val) : Nat := 16 * s.cur.die + a.v.bits 0 4

def mxIslBad (a : Val) : Bool := a.v.bits 4 60 != 0

/-! ### Operand layouts (R188) -/

def rowFirst (b : Word) : Nat := b.bits 0 7
def rowCount (b : Word) : Nat := b.bits 8 7 + 1
def rowS0 (b : Word) : Nat := b.bits 16 7

/-- A row range that breaks its layout; only `mxmac` uses s0. -/
def rangeBad (b : Word) (s0 : Bool) : Bool :=
  b.bit 7 || b.bit 15 || b.bits 23 41 != 0 || (!s0 && b.bits 16 7 != 0) || decide (128 < rowFirst b + rowCount b)
    || (s0 && decide (128 < rowS0 b + rowCount b))

def tileBad (b : Word) : Bool := b.bits 10 54 != 0

/-- A P address: its layout, and its alignment to 64 bytes. -/
def pBad (c : Word) : Bool := c.bits 29 35 != 0
def pOdd (c : Word) : Bool := c.bits 0 6 != 0

/-! ### Issue (R174, R177) -/

/-- A command from a PE: the operands are the island, b and c; `bad` and `odd` judge b and c. -/
def State.mxCmd (s : State) (i : Instr) (h : Hd) (d : Dst) (srcs : List Src) (bad odd : Word → Word → Bool) : State :=
  let island (ops : List Val) (s : State) : MIsl := s.misl (s.mislKey (opn ops 0))
  s.command i h d srcs
    (fun s ops => firstCode (mxIslBad (opn ops 0) || bad (opn ops 1).v (opn ops 2).v || !(island ops s).ownedBy s.cur.ctx)
      (odd (opn ops 1).v (opn ops 2).v) (anyP ops))
    (fun s ops => decide (16 ≤ (island ops s).queue.length))
    fun s ops =>
      let k := s.mislKey (opn ops 0)
      let n := s.takeNo (s.engKey s.cur.ctx (k / 16) (8 + k % 16))
      let c : MCmd := { num := n.1, ctx := s.cur.ctx, i := i, b := (opn ops 1).v, c := (opn ops 2).v, started := false, header := none,
                        next := 0, beats := [], out := [], fault := none, at_ := 0, admitted := false, done := false }
      let m := n.2.misl k
      (n.1, n.2.setMisl k { m with queue := m.queue ++ [c] })

def execMxselRel (h : Hd) (d : Dst) (a : Src) (s : State) : Out :=
  .next (s.mxCmd (.mxselRel h d a) h d [a] (fun _ _ => false) fun _ _ => false)

def execMxldb (h : Hd) (d : Dst) (a b : Src) (s : State) : Out :=
  .next (s.mxCmd (.mxldb h d a b) h d [a, b] (fun b _ => tileBad b) fun _ _ => false)

def execMxswb (h : Hd) (d : Dst) (a : Src) (s : State) : Out :=
  .next (s.mxCmd (.mxswb h d a) h d [a] (fun _ _ => false) fun _ _ => false)

def execMxzero (h : Hd) (d : Dst) (a b : Src) (s : State) : Out :=
  .next (s.mxCmd (.mxzero h d a b) h d [a, b] (fun b _ => rangeBad b false) fun _ _ => false)

def execMxmacChan (h : Hd) (d : Dst) (a b : Src) (s : State) : Out :=
  .next (s.mxCmd (.mxmacChan h d a b) h d [a, b] (fun b _ => rangeBad b true) fun _ _ => false)

def execMxmacStore (h : Hd) (d : Dst) (a b : Src) (s : State) : Out :=
  .next (s.mxCmd (.mxmacStore h d a b) h d [a, b] (fun b _ => rangeBad b true) fun _ _ => false)

/-- `.fill` and `.pfill` need m0 = 0; c is K, or a P address. -/
def execMxmacFill (h : Hd) (d : Dst) (a b c : Src) (s : State) : Out :=
  .next (s.mxCmd (.mxmacFill h d a b c) h d [a, b, c]
    (fun b c => rangeBad b true || rowFirst b != 0 || !(c == 128 || c == 256 || c == 512)) fun _ _ => false)

def execMxmacPfill (h : Hd) (d : Dst) (a b c : Src) (s : State) : Out :=
  .next (s.mxCmd (.mxmacPfill h d a b c) h d [a, b, c] (fun b c => rangeBad b true || rowFirst b != 0 || pBad c) fun _ c => pOdd c)

def execMxsc (h : Hd) (d : Dst) (a b c : Src) (isB : Bool) (s : State) : Out :=
  .next (s.mxCmd (.mxsc h d a b c isB) h d [a, b, c] (fun b c => rangeBad b false || c.bits 32 32 != 0) fun _ _ => false)

def execMxdrn (h : Hd) (d : Dst) (a b : Src) (clr x : Bool) (s : State) : Out :=
  .next (s.mxCmd (.mxdrn h d a b clr x) h d [a, b] (fun b _ => rangeBad b false) fun _ _ => false)

def execMxacc (h : Hd) (d : Dst) (a b : Src) (s : State) : Out :=
  .next (s.mxCmd (.mxacc h d a b) h d [a, b] (fun b _ => rangeBad b false) fun _ _ => false)

def execMxsave (h : Hd) (d : Dst) (a b : Src) (s : State) : Out :=
  .next (s.mxCmd (.mxsave h d a b) h d [a, b] (fun b _ => pBad b) fun b _ => pOdd b)

def execMxrest (h : Hd) (d : Dst) (a b : Src) (s : State) : Out :=
  .next (s.mxCmd (.mxrest h d a b) h d [a, b] (fun b _ => pBad b) fun b _ => pOdd b)

def execMxst (h : Hd) (d : Dst) (a b c : Src) (clr x : Bool) (s : State) : Out :=
  .next (s.mxCmd (.mxst h d a b c clr x) h d [a, b, c] (fun b c => rangeBad b false || pBad c) fun _ c => pOdd c)

def execMxwst (h : Hd) (d : Dst) (a b : Src) (s : State) : Out :=
  .next (s.mxCmd (.mxwst h d a b) h d [a, b] (fun b _ => tileBad b) fun _ _ => false)

def execMxfmt (h : Hd) (d : Dst) (a b : Src) (s : State) : Out :=
  .next (s.mxCmd (.mxfmt h d a b) h d [a, b] (fun b _ => modeBad b) fun _ _ => false)

/-! ### Queries (R188, R189, R194, R195) -/

/-- `mxsel.acq`: the state and the answer. -/
def State.acquire (s : State) (k ctx : Nat) : Nat × State :=
  let m := s.misl k
  match m.st with
  | .free => (0, s.setMisl k { m.zero with st := .owned, owner := ctx })
  | .owned => (if m.owner = ctx then 0 else 1, s)
  | .saving => (2, s)
  | .testing => (2, s)
  | .faulted => (3, s)
  | .retired => (3, s)

/-- A request performed by a block's commit and in a timed region at firing, with latency 8; its answer is never poisoned (R188). -/
def State.mxAsk (s : State) (i : Instr) (h : Hd) (d : Dst) (srcs : List Src) (check : State → List Val → Option Nat)
    (f : State → Nat → List Val → Nat × State) : State :=
  s.send i h srcs 1 false check (fun _ _ => false) (fun s ops _ =>
    let r := f s (s.mislKey (opn ops 0)) ops
    r.2.sendResult h.place.form (ResW.one d (Val.clean (Word.ofN r.1)) 0)) 8

def execMxselAcq (h : Hd) (d : Dst) (a : Src) (s : State) : Out :=
  .next (s.mxAsk (.mxselAcq h d a) h d [a] (fun _ ops => firstCode (mxIslBad (opn ops 0)) false (anyP ops)) fun s k _ =>
    s.acquire k s.cur.ctx)

/-- The physical column that holds a logical one. -/
def MIsl.phys (m : MIsl) (col : Nat) : Nat := tabGet col m.colmap col

/-- A column retired: its logical column goes to the lowest-numbered free spare, and the Umber core is told (R184). -/
def State.retireCol (s : State) (k col row num : Nat) : Bool × State :=
  let m := s.misl k
  match m.spares with
  | [] => (false, s)
  | sp :: rest =>
    let s1 := s.setMisl k { m with colmap := tabPut m.colmap col sp, spares := rest }
    (true, s1.umberEvent evFault m.owner 0 (Word.ofN (k % 16 * 2 ^ 16 + m.phys col * 2 ^ 8 + row)) (Word.ofN num) (k / 16))

/-- Whether a context holds system privilege (R410). -/
def State.sysCtx (s : State) (ctx : Nat) (die : Nat := 0) : Bool := (s.dcsrAt die 0x8020).bit ctx

/-- Bits of b that name no column: `FT_ADDR` (log entry 107). -/
def colBad (b : Val) : Bool := b.v.bits 7 57 != 0

def execMxcolRet (h : Hd) (d : Dst) (a b : Src) (s : State) : Out :=
  .next (s.mxAsk (.mxcolRet h d a b) h d [a, b]
    (fun s ops => if !s.sysCtx s.cur.ctx s.cur.die then some ftPriv
      else firstCode (mxIslBad (opn ops 0) || colBad (opn ops 1)) false (anyP ops))
    fun s k ops =>
      let col := (opn ops 1).v.bits 0 7
      if 128 ≤ (s.misl k).phys col then (2, s)
      else
        let r := s.retireCol k col 0 0
        (if r.1 then 0 else 1, r.2))

/-- A query that reads: it waits until every command its context sent earlier to the island has completed, and returns with
latency 8. Those that read the accumulators or scales need ownership. -/
def State.mxPeek (s : State) (h : Hd) (d : Dst) (srcs : List Src) (own : Bool) (bad : List Val → Bool)
    (f : State → Nat → List Val → Val) : State :=
  s.query h srcs 1
    (fun s ops => firstCode (mxIslBad (opn ops 0) || bad ops || (own && !(s.misl (s.mislKey (opn ops 0))).ownedBy s.cur.ctx)) false
      (anyP ops))
    (fun s ops => (s.misl (s.mislKey (opn ops 0))).queue.any fun c => c.ctx == s.cur.ctx)
    (fun s ops _ => s.queryResult h.place.form d (f s (s.mislKey (opn ops 0)) ops)) 8

def execMxcolRd (h : Hd) (d : Dst) (a b : Src) (s : State) : Out :=
  .next (s.mxPeek h d [a, b] false (fun ops => colBad (opn ops 1)) fun s k ops =>
    let col := (opn ops 1).v.bits 0 7
    let p := (s.misl k).phys col
    Val.clean (Word.ofN ((if p = col then 0 else 256) + p)))

/-- R195: the bits of b outside the row and the column are 0 (log entry 107). -/
def execMxpeekAcc (h : Hd) (d : Dst) (a b : Src) (s : State) : Out :=
  .next (s.mxPeek h d [a, b] true (fun ops => (opn ops 1).v.bit 7 || (opn ops 1).v.bits 15 49 != 0) fun s k ops =>
    let m := s.misl k
    let row := (opn ops 1).v.bits 0 7
    let col := (opn ops 1).v.bits 8 7
    { v := Word.ofN (m.cell row col), p := m.rowP.contains row || m.colP.contains col })

/-- The status word of R195. -/
def State.mxStatus (s : State) (k ctx : Nat) : Word :=
  let m := s.misl k
  Word.ofN ((s.counter (s.engKey ctx (k / 16) (8 + k % 16))).v % 2 ^ 32 * 2 ^ 32 + m.lastf * 2 ^ 24 + m.st.code * 2 ^ 20
    + m.spares.length * 2 ^ 16 + m.queue.length * 2 ^ 8 + (if m.front.isSome then 128 else 0) + (if m.back.isSome then 64 else 0)
    + m.iflag.toNat)

def execMxpeekSt (h : Hd) (d : Dst) (a : Src) (s : State) : Out :=
  .next (s.mxPeek h d [a] false (fun _ => false) fun s k _ => Val.clean (s.mxStatus k s.cur.ctx))

def scaleWord (t : Tab Nat) (n : Nat) : Val :=
  match tabFind t n with
  | some v => Val.clean (Word.ofN (2 ^ 32 + v))
  | none => Val.zero

def execMxpeekTa (h : Hd) (d : Dst) (a b : Src) (s : State) : Out :=
  .next (s.mxPeek h d [a, b] true (fun ops => colBad (opn ops 1)) fun s k ops => scaleWord (s.misl k).ta ((opn ops 1).v.bits 0 7))

def execMxpeekTb (h : Hd) (d : Dst) (a b : Src) (s : State) : Out :=
  .next (s.mxPeek h d [a, b] true (fun ops => colBad (opn ops 1)) fun s k ops => scaleWord (s.misl k).tb ((opn ops 1).v.bits 0 7))

/-! ### Resources (R175) -/

/-- A resource of an island. -/
inductive MRes where
  | front
  | back
  | record (n : Nat)
  | acc (n : Nat)
  | tile (n : Nat)
  | inStream
  | outStream
  | mode
  | scales
  | iflag
deriving DecidableEq, Repr

def accRes (b : Word) (wr : Bool) : List (MRes × Bool) := (List.range (rowCount b)).map fun j => (.acc (rowFirst b + j), wr)

def recRes (b : Word) (wr : Bool) : List (MRes × Bool) := (List.range (rowCount b)).map fun j => (.record (rowS0 b + j), wr)

/-- The resources of a command, and whether it writes each. `mxmac` only adds to the sticky flags, so that one does not wait for
another's. None: all. -/
def MCmd.uses (c : MCmd) : Option (List (MRes × Bool)) :=
  match c.i with
  | .mxldb _ _ _ _ => some [(.back, true), (.tile (c.b.bits 0 10), false)]
  | .mxswb _ _ _ => some [(.front, true), (.back, true)]
  | .mxzero _ _ _ _ => some ((.scales, true) :: accRes c.b true)
  | .mxmacChan _ _ _ _ => some ([(.front, false), (.inStream, true), (.scales, true), (.iflag, false)] ++ recRes c.b true ++ accRes c.b true)
  | .mxmacStore _ _ _ _ => some ([(.front, false), (.scales, true), (.iflag, false)] ++ recRes c.b false ++ accRes c.b true)
  | .mxmacFill _ _ _ _ _ => some ((.inStream, true) :: recRes c.b true)
  | .mxmacPfill _ _ _ _ _ => some (recRes c.b true)
  | .mxsc _ _ _ _ _ _ => some [(.scales, true)]
  | .mxdrn _ _ _ _ clr _ => some ([(.outStream, true), (.mode, false), (.scales, clr), (.iflag, true)] ++ accRes c.b clr)
  | .mxacc _ _ _ _ => some ([(.inStream, true), (.scales, true)] ++ accRes c.b true)
  | .mxst _ _ _ _ _ clr _ => some ([(.mode, false), (.scales, clr), (.iflag, true)] ++ accRes c.b clr)
  | .mxwst _ _ _ _ => some [(.inStream, true), (.tile (c.b.bits 0 10), true)]
  | .mxfmt _ _ _ _ => some [(.mode, true), (.iflag, true)]
  | _ => none

/-- The path of a command: 0 refill, 1 input, 2 array. -/
def MCmd.path (c : MCmd) : Nat :=
  match c.i with
  | .mxldb _ _ _ _ => 0
  | .mxmacFill _ _ _ _ _ => 1
  | .mxmacPfill _ _ _ _ _ => 1
  | .mxwst _ _ _ _ => 1
  | _ => 2

def MCmd.isMac (c : MCmd) : Bool :=
  match c.i with
  | .mxmacChan _ _ _ _ => true
  | .mxmacStore _ _ _ _ => true
  | .mxmacFill _ _ _ _ _ => true
  | .mxmacPfill _ _ _ _ _ => true
  | _ => false

/-- Whether a command that has not completed is through with a resource. -/
def MCmd.through (c : MCmd) (r : MRes) : Bool :=
  c.isMac && c.admitted && (match r with
    | .acc _ => false
    | .iflag => false
    | _ => true)

/-- Whether an earlier command keeps a later one from starting. -/
def MCmd.blocks (e c : MCmd) : Bool :=
  match e.uses, c.uses with
  | some l, some l' => l.any fun r => !e.through r.1 && l'.any fun r' => r'.1 == r.1 && (r.2 || r'.2)
  | _, _ => true

/-- The first command of a path that has not started, with those before it. -/
def firstOf (path : Nat) : List MCmd → List MCmd → Option (MCmd × List MCmd)
  | _, [] => none
  | before, c :: r => if c.path = path ∧ !c.started then some (c, before) else firstOf path (before ++ [c]) r

def State.putMcmd (s : State) (k : Nat) (c : MCmd) : State :=
  let m := s.misl k
  s.setMisl k { m with queue := m.queue.map fun e => if e.num = c.num ∧ e.ctx = c.ctx then c else e }

/-- The bytes of a P range that a command names, or the fault that it meets. -/
def State.pRange (s : State) (ctx : Nat) (a : Word) (len : Nat) : Except Nat Nat :=
  match s.partOf ctx false a with
  | .error c => .error c
  | .ok (p, off) => if 2 ^ 21 < off + len then .error ftAddr else .ok (partKey p off)

/-- The B tile of an index from the island's own stack. -/
def State.stackTile (s : State) (k t : Nat) : BTile :=
  let key (n : Nat) : Nat := wKey (k / 16) (k % 16) n (1024 * t)
  { index := t, cols := (List.range 128).map fun n => { bytes := s.wst.bytes (key n) 1024, pois := s.wst.poisoned 8 (key n) 1024 } }

/-- The refill of a buffer corrects the words that it reads (R129). -/
def State.readTile (s : State) (k t : Nat) : State :=
  s.correctIn spW fun g => decide (g * 8 / 2 ^ 27 = k ∧ g * 8 % 2 ^ 20 / 1024 = t)

/-- Buffers that a frame holds as valid refilled (R187). -/
def State.readTiles (s : State) (k : Nat) (m : MIsl) (front back : Bool) : State :=
  let s1 := if front then s.readTile k m.frontIx else s
  if back then s1.readTile k m.backIx else s1

/-- The checks of a command that need no packet (R176), made before its first effect. -/
def State.mxCheck (s : State) (k : Nat) (c : MCmd) : Option Nat :=
  let m := s.misl k
  let window (t : Nat) : Option Nat := checkIf (!Config.tileWindow c.ctx (k / 16) (k % 16) t) ftAddr
  let range (a : Word) (n : Nat) : Option Nat := match s.pRange c.ctx a n with
    | .error e => some e
    | .ok _ => none
  if m.st = .free then some ftAddr
  else if m.st = .faulted ∨ m.st = .retired then some ftCheck
  else if m.owner ≠ c.ctx then some ftAddr
  else match c.i with
    | .mxldb _ _ _ _ => lowest [window (c.b.bits 0 10), checkIf (!(s.stackTile k (c.b.bits 0 10)).ok) ftCheck]
    | .mxwst _ _ _ _ => window (c.b.bits 0 10)
    | .mxswb _ _ _ => checkIf m.back.isNone ftCheck
    | .mxmacStore _ _ _ _ =>
      match m.front with
      | none => some ftCheck
      | some t => checkIf (!(m.colsOk t && (List.range (rowCount c.b)).all fun j => match tabFind m.recs (rowS0 c.b + j) with
          | some r => m.rowOk t r.fmt r.k r.scale (rowFirst c.b + j)
          | none => false)) ftCheck
    | .mxmacPfill _ _ _ _ _ => range c.c (576 * rowCount c.b)
    | .mxst _ _ _ _ _ _ _ => range c.c (m.rowLen * rowCount c.b)
    | .mxsave _ _ _ _ => range c.b (frameLen m.hasRecs)
    | .mxrest _ _ _ _ =>
      match s.pRange c.ctx c.b (frameLen false) with
      | .error e => some e
      | .ok key =>
        let bs := s.pdb.bytes key (frameLen false)
        let rsv := numAt bs 0x10000 8 % 2 = 1
        let f := m.ofFrame (bs.take (frameLen false)) fun _ => false
        lowest [if rsv then range c.b (frameLen true) else none, checkIf (frameBad bs) ftCheck,
          if numAt bs 0x10010 8 % 2 = 1 then window f.frontIx else none,
          if numAt bs 0x10010 8 / 2 % 2 = 1 then window f.backIx else none]
    | _ => none

/-- Cycles in which `n` bytes move at 256 a cycle. -/
def cycles256 (n : Nat) : Nat := (n + 255) / 256

/-- Cycles after its first in which a command takes its first step: a refill takes 32 cycles, the refills of a restore 64, the first
record or row through space P what its bytes take (R182, R187). -/
def MCmd.lead (c : MCmd) (m : MIsl) : Nat :=
  match c.i with
  | .mxldb _ _ _ _ => 31
  | .mxrest _ _ _ _ => 63
  | .mxmacPfill _ _ _ _ _ => cycles256 576 - 1
  | .mxst _ _ _ _ _ _ _ => cycles256 m.rowLen - 1
  | _ => 0

/-- Commands that consume a packet (R173). -/
def MCmd.takesPacket (c : MCmd) : Bool :=
  match c.i with
  | .mxmacChan _ _ _ _ => true
  | .mxmacFill _ _ _ _ _ => true
  | .mxacc _ _ _ _ => true
  | .mxwst _ _ _ _ => true
  | _ => false

/-! ### Packets (R172, R173) -/

/-- The next beat of the input stream. -/
def MIsl.pop (m : MIsl) : Option (Beat × MIsl) :=
  let l := m.inPos % 8
  match m.inl.getD l [] with
  | [] => none
  | b :: r => some (b, { m with inl := m.inl.set l r, inPos := m.inPos + 1 })

/-- Beats taken until `n` are held or none is there. -/
def MIsl.gather : Nat → Nat → List Beat → MIsl → List Beat × MIsl
  | 0, _, l, m => (l, m)
  | fuel + 1, n, l, m => if n ≤ l.length then (l, m) else match m.pop with
    | none => (l, m)
    | some (b, m1) => m1.gather fuel n (l ++ [b])

/-- A beat placed in the output stream; none while its lane is full. -/
def MIsl.push (m : MIsl) (b : Beat) : Option MIsl :=
  let l := m.outPos % 8
  let q := m.outl.getD l []
  if 16 ≤ q.length then none else some { m with outl := m.outl.set l (q ++ [b]), outPos := m.outPos + 1 }

/-- Up to `n` beats placed. -/
def MIsl.pushAll : Nat → List Beat → MIsl → List Beat × MIsl
  | 0, l, m => (l, m)
  | _ + 1, [], m => ([], m)
  | n + 1, b :: r, m => match m.push b with
    | none => (b :: r, m)
    | some m1 => m1.pushAll n r

/-- Units of a packet's body and beats of each. -/
def MCmd.body (c : MCmd) (m : MIsl) : Nat × Nat :=
  let fmt := match c.header with
    | some h => h.v.v.bits 0 8
    | none => 0
  match c.i with
  | .mxmacChan _ _ _ _ => (rowCount c.b, match m.front with
      | some t => rowBeats fmt ((kTile t.fmt).getD 0)
      | none => Config.packetRow (256 + fmt))
  | .mxmacFill _ _ _ _ _ => (rowCount c.b, rowBeats fmt c.c.toNat)
  | .mxacc _ _ _ _ => (rowCount c.b, 64)
  | _ => (128, 127)

/-- What a packet's header breaks (R173, R179, R190, R191). -/
def MCmd.headerBad (c : MCmd) (m : MIsl) (h : Beat) : Bool :=
  let fmt := h.v.v.bits 0 8
  let sc := h.v.v.bits 32 32
  decide (8 < fmt) || h.v.v.bits 8 24 != 0 || match c.i with
    | .mxmacChan _ _ _ _ => (match m.front with
      | none => true
      | some t => !(m.colsOk t && (List.range (rowCount c.b)).all fun j => m.rowOk t fmt ((kTile t.fmt).getD 0) sc (rowFirst c.b + j)))
    | .mxmacFill _ _ _ _ _ => !isAFmt fmt
    | .mxacc _ _ _ _ => fmt != 0 || sc != 0x3F800000 ||
      (List.range (rowCount c.b)).any fun j => tabGet 1 m.kind (rowFirst c.b + j) != 1
    | _ => (kTile fmt).isNone

/-- f32 values added to a row of accumulators (R179). -/
def MIsl.accRow (m : MIsl) (row : Nat) (beats : List Beat) : MIsl :=
  let add (m : MIsl) (n : Nat) : MIsl :=
    let b := beats.getD (n / 2) Beat.zero
    m.setCell row n (add32 [decodeF .f32 (m.cell row n), decodeF .f32 (b.v.v.bits (32 * (n % 2)) 32)])
  let m1 := (List.range 128).foldl add m
  { m1 with kind := tabPut m1.kind row 1, rowP := if beats.any (fun b => b.v.p) then setIns m1.rowP row else m1.rowP }

/-- One column of `mxwst` written: 127 beats and the header beat. -/
def State.writeColumn (s : State) (k t col : Nat) (beats : List Beat) (h : Beat) : State :=
  let base := wKey (k / 16) (k % 16) col (1024 * t)
  let put (m : Mem) (p : Nat × Beat) : Mem := m.storeVal 8 (base + 8 * p.1) 8 p.2.v
  { s with wst := ((List.range 128).zip (beats ++ [h])).foldl put s.wst }.renew spW base 1024

/-- Cycles from the admission of a row to the next, and to the update of its accumulators (R182). -/
def MCmd.times (c : MCmd) (m : MIsl) : Nat × Nat :=
  match c.i with
  | .mxmacChan _ _ _ _ => match m.front, c.header with
    | some t, some h => let n := cprOf (h.v.v.bits 0 8) t.fmt ((kTile t.fmt).getD 0); (n, n + 139)
    | _, _ => (1, 1)
  | .mxmacStore _ _ _ _ => match m.front, tabFind m.recs (rowS0 c.b) with
    | some t, some r => let n := cprOf r.fmt t.fmt r.k; (n, n + 139)
    | _, _ => (1, 1)
  | .mxmacPfill _ _ _ _ _ => (cycles256 (576 * (c.next + 2)) - cycles256 (576 * (c.next + 1)), 0)
  | .mxst _ _ _ _ _ _ _ => (cycles256 (m.rowLen * (c.next + 2)) - cycles256 (m.rowLen * (c.next + 1)), 0)
  | _ => (1, 1)

/-- Row `next` of a compute form admitted: its update is under way. -/
def MCmd.takeRow (c : MCmd) (m : MIsl) (cycle : Nat) (r : MRec) (t : BTile) : MCmd :=
  { c with flight := c.flight ++ [{ due := cycle + (c.times m).2, row := rowFirst c.b + c.next, record := r, tile := t }] }

/-- A unit of a packet's body taken by its command. -/
def State.takeUnit (s : State) (k : Nat) (c : MCmd) (h : Beat) (beats : List Beat) : State × MCmd :=
  let m := s.misl k
  let j := c.next
  match c.i with
  | .mxmacChan _ _ _ _ => match m.front with
    | none => (s, c)
    | some t =>
      let r := rowRecord h ((kTile t.fmt).getD 0) beats
      (s.setMisl k { m with recs := tabPut m.recs (rowS0 c.b + j) r }, c.takeRow m s.cycle r t)
  | .mxmacFill _ _ _ _ _ => (s.setMisl k { m with recs := tabPut m.recs (rowS0 c.b + j) (rowRecord h c.c.toNat beats) }, c)
  | .mxacc _ _ _ _ => (s.setMisl k (m.accRow (rowFirst c.b + j) beats), c)
  | _ => (s.writeColumn k (c.b.bits 0 10) j beats h, c)

/-- The command after unit `next`, of `n` units. -/
def MCmd.advance (c : MCmd) (m : MIsl) (cycle n : Nat) : MCmd :=
  let t := c.times m
  if c.next + 1 < n then { c with next := c.next + 1, beats := [], at_ := cycle + t.1 }
  else { c with next := c.next + 1, beats := [], admitted := true, done := true, at_ := cycle + t.2 }

/-- A step of a command that consumes a packet: its header, or beats of its body. -/
def State.packetStep (s : State) (k : Nat) (c : MCmd) : Option State :=
  let m := s.misl k
  match c.header with
  | none => match m.pop with
    | none => none
    | some (h, m1) =>
      let bad := c.headerBad m1 h
      let c1 := { c with header := some h, fault := lowest [c.fault, checkIf bad ftCheck] }
      let m2 := match c.i, m1.front with
        | .mxmacChan _ _ _ _, some t => if c1.fault.isSome then m1 else m1.setKinds t
            ((List.range (rowCount c.b)).map fun j => (rowFirst c.b + j, h.v.v.bits 0 8, h.v.v.bits 32 32))
        | _, _ => m1
      some ((s.setMisl k m2).putMcmd k c1)
  | some h =>
    let n := c.body m
    let g := m.gather (n.2 + 1) n.2 c.beats
    if g.1.length = c.beats.length ∧ g.1.length < n.2 then none
    else if g.1.length < n.2 then some ((s.setMisl k g.2).putMcmd k { c with beats := g.1 })
    else
      let s1 := s.setMisl k g.2
      let r := if c.fault.isSome then (s1, c) else s1.takeUnit k c h g.1
      some (r.1.putMcmd k (r.2.advance m s.cycle n.1))

/-- The instruction of a queue record: its opcode with {TY, X}. -/
def recInstr (op tyx : Nat) : Option Instr :=
  match decodeWord .timed (Word.ofN (op * 2 ^ 44 + tyx)) with
  | .ok i => some i
  | .error _ => none

/-- The header of the packet that a resumed command is in, from what its last row or column has left. -/
def State.resumedHeader (s : State) (k : Nat) (m : MIsl) (c : MCmd) : Option Beat :=
  if c.next = 0 then none
  else
    let row : Option Beat := (tabFind m.recs (rowS0 c.b + c.next - 1)).map fun r => { v := Val.clean (Word.ofN (numAt r.bytes 0 8)), sb := 0 }
    match c.i with
    | .mxmacChan _ _ _ _ => row
    | .mxmacFill _ _ _ _ _ => row
    | .mxwst _ _ _ _ =>
      some { v := s.wst.load 8 (wKey (k / 16) (k % 16) (c.next - 1) (1024 * c.b.bits 0 10 + 0x3F8)) 8, sb := 0 }
    | _ => some { v := Val.clean (Word.ofN (0x3F800000 * 2 ^ 32)), sb := 0 }

/-- Queue record `j` of a frame as a command of the island's owner: it goes on from its next row once the buffers are refilled; a
refill begins anew (R187). -/
def State.resumed (s : State) (k : Nat) (m : MIsl) (bs : List Byte) (j : Nat) : Option MCmd :=
  let at_ := mxQueueAt j
  match recInstr (numAt bs (at_ + 24) 1) (numAt bs (at_ + 25) 1) with
  | none => none
  | some i =>
    if numAt bs at_ 8 = 0 then none
    else
      let fill := match i with
        | .mxldb _ _ _ _ => true
        | _ => false
      let c : MCmd := { num := numAt bs at_ 8, ctx := m.owner, i := i, b := Word.ofN (numAt bs (at_ + 8) 8), c := Word.ofN (numAt bs (at_ + 16) 8),
                        started := numAt bs (at_ + 28) 1 == 1 && !fill, header := none, next := numAt bs (at_ + 26) 2, beats := [], out := [],
                        fault := none, at_ := s.cycle, admitted := false, done := false }
      some { c with header := if c.started then s.resumedHeader k m c else none }

/-- `mxrest` (R187): the state of the frame, its valid buffers refilled, and its recorded commands ahead of those that were issued
after the restore. -/
def State.restoreIsl (s : State) (k : Nat) (key : Nat) (c : MCmd) : State :=
  let bs := s.pdb.bytes key (frameLen true)
  let m0 := s.misl k
  let m := m0.ofFrame bs fun i => s.pdb.poisoned 8 (key + 0x11000 + 576 * i) 576
  let buf := numAt bs 0x10010 8
  let mine (e : MCmd) : Bool := e.num == c.num && e.ctx == c.ctx
  (s.readTiles k m (buf % 2 = 1) (buf / 2 % 2 = 1)).setMisl k
    { m with front := if buf % 2 = 1 then some (s.stackTile k m.frontIx) else none
             back := if buf / 2 % 2 = 1 then some (s.stackTile k m.backIx) else none
             queue := m0.queue.filter mine ++ (List.range 16).filterMap (s.resumed k m bs) ++ m0.queue.filter fun e => !mine e }

/-- `mxsave`: the frame; a poisoned record's words carry the poison (log entry 88). -/
def State.saveFrame (s : State) (k key : Nat) : State :=
  let m := s.misl k
  let p1 := s.pdb.store 8 key (m.frameBytes (k / 16) (k % 16)) false
  { s with pdb := (m.recs.filter fun e => e.2.pois).foldl (fun p e =>
      (granules 8 (key + 0x11000 + 576 * e.1) 576).foldl (fun p g => p.mark 8 0 0 true g) p) p1 }

/-- One row of a drain: to the output stream, or to space P. -/
def State.drainStep (s : State) (k : Nat) (c : MCmd) (clr x : Bool) (toP : Bool) : Option State :=
  let m := s.misl k
  let row := rowFirst c.b + c.next
  let clear (m : MIsl) : MIsl := if clr then m.clearRows row 1 else m
  if !c.out.isEmpty then
    let r := m.pushAll 8 c.out
    if r.1.length = c.out.length then none
    else
      let last := r.1.isEmpty && decide (rowCount c.b ≤ c.next)
      some ((s.setMisl k r.2).putMcmd k { c with out := r.1, done := last, admitted := last, at_ := s.cycle + 1 })
  else if !toP && c.header.isNone then
    let h : Beat := { v := Val.clean (Word.ofN (0x3F800000 * 2 ^ 32 + m.mode.bits 0 8)), sb := 0 }
    some (s.putMcmd k { c with header := some h, out := [h] })
  else
    let d := m.drainRow x row
    let m1 := clear d.2
    let last := decide (rowCount c.b ≤ c.next + 1)
    if toP then
      match s.pRange c.ctx (c.c + Word.ofN (c.next * m.rowLen)) m.rowLen with
      | .error _ => some (s.putMcmd k { c with fault := some ftAddr, done := true, admitted := true, at_ := s.cycle })
      | .ok key =>
        let put (mem : Mem) (p : Nat × Val) : Mem := mem.storeVal 8 (key + 8 * p.1) 8 p.2
        let s1 := { s with pdb := ((List.range d.1.length).zip d.1).foldl put s.pdb }
        some (((s1.renew spP key m.rowLen).setMisl k m1).putMcmd k
          { c with next := c.next + 1, done := last, admitted := last,
                   at_ := if last then s.cycle else s.cycle + (c.times m).1 })
    else some ((s.setMisl k m1).putMcmd k { c with next := c.next + 1, out := d.1.map fun v => { v := v, sb := 0 } })

/-- One step of a started command; none when it can do nothing now. -/
def State.mxStep (s : State) (k : Nat) (c : MCmd) : Option State :=
  let m := s.misl k
  let finish (s1 : State) : Option State := some (s1.putMcmd k { c with done := true, admitted := true, at_ := s.cycle })
  match c.i with
  | .mxselRel _ _ _ =>
    finish (s.setMisl k { m.zero with queue := m.queue, st := if m.lane.isSome then .owned else .free })
  | .mxldb _ _ _ _ =>
    let t := c.b.bits 0 10
    finish ((s.readTile k t).setMisl k { m with back := some (s.stackTile k t), backIx := t })
  | .mxswb _ _ _ => finish (s.setMisl k { m with front := m.back, back := m.front, frontIx := m.backIx, backIx := m.frontIx })
  | .mxzero _ _ _ _ => finish (s.setMisl k (m.clearRows (rowFirst c.b) (rowCount c.b)))
  | .mxsc _ _ _ _ _ isB =>
    let rows := (List.range (rowCount c.b)).map fun j => rowFirst c.b + j
    let v := c.c.bits 0 32
    finish (s.setMisl k (if isB then { m with tb := rows.foldl (fun t r => tabPut t r v) m.tb }
      else { m with ta := rows.foldl (fun t r => tabPut t r v) m.ta }))
  | .mxfmt _ _ _ _ => finish (s.setMisl k { m with mode := c.b, iflag := 0 })
  | .mxmacStore _ _ _ _ =>
    match m.front with
    | none => finish s
    | some t =>
      let recOf (j : Nat) : MRec := tabGet { bytes := [], pois := false } m.recs (rowS0 c.b + j)
      let m1 := if c.next = 0 then m.setKinds t ((List.range (rowCount c.b)).map fun j =>
        (rowFirst c.b + j, (recOf j).fmt, (recOf j).scale)) else m
      some ((s.setMisl k m1).putMcmd k ((c.takeRow m s.cycle (recOf c.next) t).advance m s.cycle (rowCount c.b)))
  | .mxmacPfill _ _ _ _ _ =>
    match s.pRange c.ctx (c.c + Word.ofN (576 * c.next)) 576 with
    | .error _ => some (s.putMcmd k { c with fault := some ftAddr, done := true, admitted := true, at_ := s.cycle })
    | .ok key =>
      let r : MRec := { bytes := s.pdb.bytes key 576, pois := s.pdb.poisoned 8 key 576 }
      some (((s.correct spP key 576).setMisl k { m with recs := tabPut m.recs (rowS0 c.b + c.next) r }).putMcmd k (c.advance m s.cycle (rowCount c.b)))
  | .mxdrn _ _ _ _ clr x => s.drainStep k c clr x false
  | .mxst _ _ _ _ _ clr x => s.drainStep k c clr x true
  | .mxsave _ _ _ _ => match s.pRange c.ctx c.b (frameLen m.hasRecs) with
    | .error _ => finish s
    | .ok key => finish ((s.renew spP key (frameLen m.hasRecs)).saveFrame k key)
  | .mxrest _ _ _ _ => match s.pRange c.ctx c.b (frameLen false) with
    | .error _ => finish s
    | .ok key => finish ((s.correct spP key (frameLen (numAt (s.pdb.bytes key (frameLen false)) 0x10000 8 % 2 = 1))).restoreIsl k key c)
  | _ => s.packetStep k c

/-- The P address at which a command moves data. -/
def MCmd.pAddr (c : MCmd) : Option Word :=
  match c.i with
  | .mxmacPfill _ _ _ _ _ => some c.c
  | .mxst _ _ _ _ _ _ _ => some c.c
  | .mxsave _ _ _ _ => some c.b
  | .mxrest _ _ _ _ => some c.b
  | _ => none

/-- Whether a command's partition is on a die that the island does not reach now (R9). -/
def State.pShut (s : State) (k : Nat) (c : MCmd) : Bool :=
  match c.pAddr with
  | none => false
  | some a => match s.partOf c.ctx false a with
    | .ok (p, _) => !s.engReach (k / 16) (p / 48)
    | .error _ => false

/-- Commands that may take a step now. -/
def MIsl.ready (m : MIsl) (cycle : Nat) : List MCmd :=
  if m.st = .saving ∨ m.st = .testing then [] else m.queue.filter fun c => c.started && !c.done && decide (c.at_ ≤ cycle)

/-- MATRIX_ROW_UPDATE: rows whose time has come update their accumulators, and the first command that can go on takes its next row,
column or beats. -/
def execMatrixRowUpdate (isl : Nat) (s : State) : Out :=
  let s1 := s.setMisl isl ((s.misl isl).land s.cycle)
  .next ((((s1.misl isl).ready s.cycle).findSome? fun c => if s1.pShut isl c then none else s1.mxStep isl c).getD s1)

/-! ### Completion and errors -/

/-- A command leaves the queue: the counter passes it, with a mark when it ended in a fault (R176). -/
def State.mxEnd (s : State) (k : Nat) (c : MCmd) : State :=
  let m := s.misl k
  let m1 := { m with queue := m.queue.filter fun e => !(e.num == c.num && e.ctx == c.ctx)
                     lastf := c.fault.getD m.lastf }
  (s.setMisl k m1).finishNo (s.engKey c.ctx (k / 16) (8 + k % 16)) c.num c.fault.isSome

/-- MATRIX_COMMAND_COMPLETE. -/
def execMatrixCommandComplete (isl num : Nat) (s : State) : Out :=
  .next (match (s.misl isl).queue.find? fun c => c.num == num && c.done && c.flight.isEmpty && decide (c.at_ ≤ s.cycle) with
    | none => s
    | some c => s.mxEnd isl c)

/-- The commands of a path start one after another: each once no earlier one keeps a resource from it. A swap takes no cycle of its
own (R182). A command that fails a check has no effect but to consume its packet; on an island out of use none (R176, R185). -/
def State.startPath (s : State) (isl path : Nat) : Nat → State
  | 0 => s
  | n + 1 => match firstOf path [] (s.misl isl).queue with
    | none => s
    | some (c, before) =>
      let m := s.misl isl
      if m.st = .saving ∨ m.st = .testing ∨ before.any (fun e => e.blocks c) then s
      else match s.mxCheck isl c with
        | some e => s.putMcmd isl (if c.takesPacket && m.st == .owned then { c with started := true, fault := some e, at_ := s.cycle }
            else { c with started := true, fault := some e, done := true, admitted := true, at_ := s.cycle })
        | none => match c.i with
          | .mxswb _ _ _ =>
            ((s.setMisl isl { m with front := m.back, back := m.front, frontIx := m.backIx, backIx := m.frontIx }).mxEnd isl c).startPath isl path n
          | _ => s.putMcmd isl { c with started := true, at_ := s.cycle + c.lead m }

/-- MATRIX_COMMAND_START. -/
def execMatrixCommandStart (isl path : Nat) (s : State) : Out := .next (s.startPath isl path 16)

/-- An island that is FAULTED: the commands `hit` end with `FT_CHECK` and do nothing more. -/
def MIsl.faultAll (m : MIsl) (hit : MCmd → Bool) (cycle : Nat) : MIsl :=
  { m with st := .faulted
           queue := m.queue.map fun c => if hit c then { c with started := true, fault := some ftCheck, done := true, admitted := true,
                                                                at_ := cycle, flight := [], out := [] } else c }

/-- RESIDUE_MISMATCH in a physical column, in the row next to update its accumulators: with a spare free the column is retired and the
rows run again from that one, bit for bit the same and at most 512 cycles later (R184, log entry 5); with none the island is FAULTED, and
the command and those after it end with `FT_CHECK`, earlier rows kept (R185). -/
def execResidueMismatch (isl col : Nat) (s : State) : Out :=
  let m := s.misl isl
  let run := m.queue.findSome? fun c => c.flight.head?.map fun r => (c, r)
  let logical := (List.range 128).find? fun n => m.phys n == col
  .next (match run, logical with
    | some (c, row), some n =>
      let r := s.retireCol isl n row.row c.num
      let d := Config.freeDelay r.2.free % 513
      let later (e : MCmd) : MCmd := if e.flight.isEmpty then e
        else { e with at_ := e.at_ + d, flight := e.flight.map fun x => { x with due := x.due + d } }
      if r.1 then { r.2 with free := r.2.free + 1 }.setMisl isl { r.2.misl isl with queue := (r.2.misl isl).queue.map later }
      else
        (s.setMisl isl (m.faultAll (fun e => (m.queue.dropWhile fun x => x != c).contains e) s.cycle)).umberEvent evFault m.owner ftCheck
          (Word.ofN (isl % 16 * 2 ^ 16 + col * 2 ^ 8 + row.row)) (Word.ofN c.num) (isl / 16)
    | _, _ => s)

end Sys2Proof.Machine
end

