-- ==== Sys2Proof/Machine/Jobs.lean ====
section
/-! DEFINITION. Queues' descriptors, job cards, graphs and futures: posting, finishing and waking (R251 to R258, R308 to R313,
R456). -/

namespace Sys2Proof.Machine

/-! ### Queue descriptors (R312, R313) -/

def State.tableOn (s : State) : Bool := (s.pkgCsr 0x8A00).bit 0

def State.descAt (s : State) (q : Nat) : Nat := (s.pkgCsr 0x8A00).bits 21 19 * 2 ^ 21 + 512 * q

/-- A field of `n` bytes of a queue's descriptor. -/
def State.qField (s : State) (q off n : Nat) : Word := (s.dLoad (s.descAt q + off) n).v

def State.setQField (s : State) (q off n v : Nat) : State := s.dStore (s.descAt q + off) (bytesOfNat n v) false

def State.qCtx (s : State) (q : Nat) : Nat := (s.qField q 0x11 1).toNat

def State.qDie (s : State) (q : Nat) : Nat := (s.qField q 0x12 1).bits 0 2

def State.qPrio (s : State) (q : Nat) : Nat := (s.qField q 0x13 1).toNat

/-- The die that serves a queue and the priority of its cards, where the table gives them: else the given ones (log entry 17). -/
def State.served (s : State) (q die prio : Nat) : Nat × Nat :=
  if !s.tableOn ∨ 4096 ≤ q then (die, prio) else (s.qDie q, if 2 ≤ s.qPrio q ∧ s.qPrio q ≤ 4 then s.qPrio q else prio)

/-! ### Translations of the front end and of cards (R304, R456) -/

/-- `n` bytes at a virtual address through the front end's cache. -/
def State.feLoad (s : State) (die ctx va n : Nat) : Except XFail Val × State := s.vLoad die 2 ctx va n

/-- The words of a 64-byte record, when it can be read. -/
def State.rec64 (s : State) (die ctx va : Nat) : Option (List Word) × State :=
  match s.xlate die 2 ctx va false with
  | (.error _, s1) => (none, s1)
  | (.ok pa, s1) => (some ((List.range 8).map fun k => (s1.dLoad (pa + 8 * k) 8).v), s1.correct spD pa 64)

/-- Bytes `off` to `off + n - 1` of a record's words as a number. -/
def recField (ws : List Word) (off n : Nat) : Nat :=
  ((ws.map bytesOfWord).flatten.drop off |>.take n).foldr (fun b acc => b.toNat + 256 * acc) 0

/-! ### Cancelling a task (R250) -/

/-- A cancelled task: a running block is discarded unless its commit has begun. -/
def State.cancelTask (s : State) (k : Nat) : State :=
  let t := s.task k
  if t.committing then s.setTask k { t with cancelReq := true }
  else (s.dropBlock k).endTask k .cancelled 0 t.addr none

/-- What happens to a task whose code is a fault's outside a block. -/
def State.abortTask (s : State) (k code : Nat) : State := s.faultTask k code (Word.ofN (s.task k).addr)

/-! ### Posting a card (R252) -/

/-- The instruction of a copy card or packet: OP, then {TY, X}; `sred` has its operation in c. -/
def copyInstr (op tyx : Nat) (c : Word) : Option Instr :=
  let w := Word.ofN (op * 2 ^ 44 + tyx + (if op = 0xD4 then c.bits 0 8 * 2 ^ 12 else 0))
  match decodeWord .timed w with
  | .ok i => some i
  | .error _ => none

/-- The issuer of a command that the front end issues for a context. -/
def feIssuer (die ctx : Nat) : Issuer := { Issuer.init with die := die, ctx := ctx, handle := 256 }

/-- Whether the operands of a stream instruction of the front end break their layout (R205). -/
def copyBad (i : Instr) (a b c : Word) : Bool :=
  match i with
  | .scpy _ _ _ _ => islBad a [0, 1] false || c != 0
  | .scpyChk _ _ _ _ _ => islBad a [0, 1] false || c.bits 0 2 != 0
  | .sgat _ _ _ => islBad a [0, 1, 2] false || b != 0 || c != 0
  | .ssct _ _ _ => islBad a [0, 1, 2] false || b != 0 || c != 0
  | .sred _ _ _ _ _ _ => islBad a [0, 1] false || b != 0 || c.bits 8 56 != 0
  | .sfill _ _ _ _ => islBad a [1] false || c != 0
  | .scvt _ _ _ _ _ _ => islBad a [0, 1, 2, 3] false
  | .scan _ _ _ _ => islBad a [] false || c != 0
  | .sbind _ _ _ _ => sbindBad a b c
  | .spat _ _ _ => islBad a [] true || b.bits 0 3 != 0 || c != 0
  | _ => true

/-- Whether the operands of `launch` break their layout (R233). -/
def launchBad (a b c : Word) (seq : Bool) : Bool :=
  a.bits 10 6 != 0 || a.bits 27 37 != 0 || (seq && a.bits 0 10 != 0)
    || (if seq then b != 0 else decide (b.toNat = 0 ∨ 2 ^ 28 ≤ b.toNat)) || c.bits 48 16 != 0 || c.bits 0 3 != 0

/-- The new task of a posted card. -/
def State.newTask (s : State) (t : Task) : Nat × State :=
  let k := s.nextTask
  (k, { s with nextTask := k + 1, tasks := tabPut s.tasks k { t with st := .posted, seqNo := s.postNo false } })

/-- The action of a posted card by its KIND (R252). A copy whose island holds 64 waiting commands waits at the front end (R201). A card
whose address fails translation ends with `FT_ADDR` (log entry 91). -/
def State.postCard (s : State) (n : Nat) : State :=
  match tabFind s.cards n with
  | none => s
  | some c =>
    let bad (s : State) : State := s.cardEnd (some n) stAborted ftAddr
    match s.rec64 c.die c.ctx c.va with
    | (none, s1) => bad s1
    | (some ws, s1) =>
      let arg := (ws.getD 1 0)
      let kind := recField ws 0 1
      let succs := (List.range 6).map fun j => recField ws (0x10 + 6 * j) 6
      let s2 := { s1 with cards := tabPut s1.cards n { c with kind := kind } }
      if 3 < kind ∨ 2 ≤ recField ws 1 1 ∨ recField ws 3 1 ≠ 0 ∨ succs.any (fun a => a % 64 != 0) then bad s2
      else if kind = 0 then
        if arg.bits 48 16 ≠ 0 ∨ arg.bits 0 7 ≠ 0 then bad s2
        else (s2.newTask { Task.init with ctx := c.ctx, frame := arg.toNat, card := n, queue := c.queue, prio := c.prio, die := c.die,
                                          graph := c.graph, job := c.job }).2
      else if kind = 3 then
        let ctr := Word.ofN (arg.bits 0 16)
        match counterIdx ctr with
        | some k => if ctr.bits 11 3 ≠ 3 then bad s2
          else (s2.signal (counterKey c.ctx k) (arg.bits 16 48)).cardEnd (some n) stDone 0
        | none => bad s2
      else if arg.bits 48 16 ≠ 0 ∨ arg.bits 0 3 ≠ 0 then bad s2
      else match s2.readWords c.die c.ctx arg.toNat 4 with
        | (.error _, s3) => bad s3
        | (.ok ds, s3) =>
          let w (k : Nat) : Word := ds.getD k 0
          if kind = 1 then
            if launchBad (w 0) (w 1) (w 2) false ∨ w 3 ≠ 0 then bad s3
            else
              let r := s3.accept { ctx := c.ctx, op := w 0, n := (w 1).toNat, recAddr := (w 2).toNat, isSeq := false,
                                   die := s3.physDie c.ctx ((w 0).bits 25 2), prio := c.prio, queue := c.queue, job := c.job,
                                   graph := c.graph, card := some n, inl := none }
              if r.1 ≠ 0 then bad r.2.2
              else { r.2.2 with cards := tabPut r.2.2.cards n { c with kind := kind, launch := some r.2.1.toNat } }
          else
            let op := (w 0).bits 0 8
            match copyInstr op ((w 0).bits 8 5) (w 3) with
            | none => bad s3
            | some i =>
              if op < 0xD1 ∨ 0xD6 < op ∨ (w 0).bits 13 51 ≠ 0 ∨ copyBad i (w 1) (w 2) (w 3) then bad s3
              else
                let k := 8 * c.die + (w 1).bits 0 4
                if s3.streamFull k then s3
                else
                let r := s3.streamAccept k i c.ctx (w 1) (w 2) (w 3) c.prio none (some n) (feIssuer c.die c.ctx) none
                { r.2 with cards := tabPut r.2.cards n { c with kind := kind, copy := some (k, r.1) } }

/-! ### Decrements (R253 to R255) -/

/-- The lowest free graph slot of a context, with the next serial. -/
def State.newGraph (s : State) (ctx die : Nat) (job : Option Nat) : Option (Nat × State) :=
  (freeSlot s.graphs ctx fun g => g.final.isSome && g.live == 0).map fun k =>
    let n := s.nextSerial ctx lvGraph
    (k, (n.2.setGraph ctx k { Graph.init with serial := n.1, die := die, job := job }).jobBegin ctx job)

/-- Who makes a decrement: the poster's graph and job, its queue, and whether a finishing card makes it. -/
structure Poster where
  graph : Option Nat
  job : Option Nat
  queue : Nat
  die : Nat
  prio : Nat
  finishing : Bool
deriving DecidableEq, Repr

/-- A decrement of the card at `va`, which is translated to `pa`: the result of R264. -/
def State.decrement (s : State) (ctx va pa : Nat) (by_ : Poster) : Nat × State :=
  let cst := (s.dLoad (pa + 2) 1).v.toNat
  let pred := (s.dLoad (pa + 4) 4).v.toNat
  let newg := (s.dLoad (pa + 1) 1).v.bit 0
  let s := s.correct spD pa 8
  let own : Option Nat := if by_.finishing ∨ !newg then by_.graph else none
  let dead := match own with
    | some g => (s.graph ctx g).cancelled
    | none => false
  if dead then (3, s)
  else if cst ≠ 0 ∨ pred = 0 then (2, s)
  else if 1 < pred then (1, s.dStore (pa + 4) (bytesOfNat 4 (pred - 1)) false)
  else
    let sv := s.served by_.queue by_.die by_.prio
    let g : Option (Nat × State) := match own with
      | some k => some (k, s)
      | none => s.newGraph ctx sv.1 by_.job
    match g with
    | none => (4, s)
    | some (k, s1) =>
      let s2 := (s1.dStore (pa + 4) (bytesOfNat 4 0) false).dStore (pa + 2) (bytesOfNat 1 1) false
      let gr := s2.graph ctx k
      let n := s2.nextCard
      let card : Card := { ctx := ctx, va := va, graph := some k, job := gr.job, queue := by_.queue, kind := 0, die := sv.1,
                           prio := sv.2, pa := pa, launch := none, copy := none, sib := none, ended := none, task := none, link := none }
      let s3 := { s2.setGraph ctx k { gr with live := gr.live + 1 } with cards := tabPut s2.cards n card, nextCard := n + 1 }
      (0, s3.postCard n)

/-! ### The end of a card (R254) -/

/-- A decrement that a finishing card could not make. -/
def State.drop (s : State) (c : Card) (code : Nat) : State :=
  match c.graph with
  | none => s
  | some k =>
    let g := s.graph c.ctx k
    s.setGraph c.ctx k { g with dropped := some (g.dropped.getD code) }

/-- The successors of a finished card decremented in order; 0 names none. -/
def State.decAll (s : State) (c : Card) : List Nat → State
  | [] => s
  | va :: r =>
    if va = 0 then s.decAll c r
    else match s.xlate c.die 2 c.ctx va true with
      | (.error _, s1) => (s1.drop c ftPage).decAll c r
      | (.ok pa, s1) =>
        let d := s1.decrement c.ctx va pa
          { graph := c.graph, job := c.job, queue := c.queue, die := c.die, prio := c.prio, finishing := true }
        (if d.1 = 2 then d.2.drop c ftAddr else d.2).decAll c r

/-- The overflow records in chain order; `fuel` bounds a chain that returns to itself (log entry 18). -/
def State.decChain (s : State) (c : Card) : Nat → Nat → State
  | 0, _ => s
  | fuel + 1, va =>
    if va = 0 then s
    else match s.rec64 c.die c.ctx va with
      | (none, s1) => s1.drop c ftPage
      | (some ws, s1) =>
        (s1.decAll c ((List.range 9).map fun j => recField ws (6 * j) 6)).decChain c fuel (recField ws 0x36 6)

/-- Tasks that wait on a card posted again (R265). -/
def State.wakeCard (s : State) (pa : Nat) : State :=
  s.tasks.foldl (fun s p => if p.2.st = .waiting ∧ p.2.waitCard = some pa then s.post p.1 false else s) s

/-- Whether what a task has issued is not yet performed: its finishing is a release at package scope (R253). -/
def State.taskOut (s : State) (k : Nat) : Bool := s.reqs.any (fun r => r.who.task == k) || s.cinvs.any fun c => c.who.task == k

/-- CARD_FINISH: the successors of a card that ended DONE are decremented, then CST is written, and the graph counts the node.
A sibling of a group has no card: its group counts it settled (R372, R373). -/
def execCardFinish (ctx : Nat) (card : Word) (s : State) : Out :=
  .next (match s.cards.find? fun p => p.2.ctx == ctx && p.2.va == card.toNat && p.2.ended.isSome with
    | none => s
    | some (n, c) =>
      if c.task.any s.taskOut then s
      else
      let e := c.ended.getD (3, 0)
      let s0 := { s with cards := tabDel s.cards n }
      match c.sib with
      | some (desc, j) =>
        let g := tabFind s0.groups desc
        let s1 := match g with
          | some g => { s0 with groups := tabPut s0.groups desc { g with settled := setIns g.settled j } }
          | none => s0
        (s1.graphEnd ctx c.graph (ofCst e.1) e.2).soon (.event (.groupCollection desc))
      | none =>
        let s1 := if e.1 ≠ 3 then s0 else match s0.rec64 c.die ctx c.va with
          | (none, s1) => s1.drop c ftPage
          | (some ws, s1) =>
            (s1.decAll c ((List.range 6).map fun j => recField ws (0x10 + 6 * j) 6)).decChain c (2 ^ 42) (recField ws 0x34 6)
        let w := match s1.vStore c.die 2 ctx (c.va + 2) (bytesOfNat 1 e.1) false with
          | .ok s2 => (s2, ofCst e.1, e.2)
          | .error _ => (s1, stAborted, ftPage)
        (w.1.wakeCard c.pa).graphEnd ctx c.graph w.2.1 w.2.2)

/-! ### What the front end does with posted cards in each cycle -/

/-- Copy cards that wait for room at their island tried again (R201). -/
def State.retryCopies (s : State) : State :=
  (s.cards.filter fun p => p.2.kind == 2 && p.2.copy.isNone && p.2.ended.isNone).foldl (fun s p => s.postCard p.1) s

/-- The card that follows a posted task's in its queue's list: its address, or 0 at the tail. -/
def State.nextInList (s : State) (t : Task) : Nat :=
  let after := s.tasks.foldl (fun (acc : Option Task) p =>
    let u := p.2
    if u.st ≠ .posted ∨ u.postAt.isSome ∨ u.queue ≠ t.queue ∨ u.ctx ≠ t.ctx ∨ u.die ≠ t.die ∨ u.seqNo ≤ t.seqNo
        ∨ (tabFind s.cards u.card).all (fun c => c.sib.isSome) then acc
    else match acc with
      | none => some u
      | some a => if u.seqNo < a.seqNo then some u else acc) none
  match after with
  | none => 0
  | some u => ((tabFind s.cards u.card).map Card.va).getD 0

/-- LINK of each posted task card names the next card of its queue's list (R256). A write that fails ends the card ABORTED with
`FT_PAGE` (R456). -/
def State.linkPosted (s : State) : State :=
  (s.tasks.filter fun p => p.2.st == .posted && p.2.postAt.isNone).foldl (fun s p =>
    match tabFind s.cards p.2.card with
    | none => s
    | some c =>
      let next := s.nextInList p.2
      if c.sib.isSome ∨ c.ended.isSome ∨ c.link = some next then s
      else match s.vStore c.die 2 c.ctx (c.va + 0x3A) (bytesOfNat 6 next) false with
        | .ok s1 => { s1 with cards := tabPut s1.cards p.2.card { c with link := some next } }
        | .error _ => { s with tasks := tabDel s.tasks p.1 }.cardEnd (some p.2.card) stAborted ftPage) s

/-! ### Futures and fault records (R308, R309, R311) -/

/-- Places left in a die's waiter table (R265, R310). -/
def State.waitRoom (s : State) (die : Nat) : Bool :=
  decide ((s.tasks.filter fun p => p.2.die == die && (p.2.waitCard.isSome || p.2.waitFut.isSome)).length < 1024)

/-- A fault record set: its waiters go on, or end with `FT_PAGE`; then the faults that waited for a record are taken up. -/
def State.setRecord (s : State) (k : Nat) (r : FaultRec) (value : Nat) : State :=
  let s1 := { s with frecs := tabDel s.frecs k }
  let one (s : State) (w : Waiter) : State :=
    match w with
    | .task j => if (tabFind s.tasks j).isNone then s
      else if value = 0 then s.post j false else s.abortTask j ftPage
    | .cmd isl num =>
      let v := s.sisl isl
      s.setSisl isl { v with cmds := v.cmds.map fun (c : SCmd) => if c.ctx = r.ctx ∧ c.num = num then
        { c with stall := false, fault := if value = 0 then c.fault else some ftPage } else c }
  let s2 := r.waiters.foldl one s1
  s2.fwait.foldl (fun s m => s.miss m) { s2 with fwait := [] }

/-- A future set to `v`, or cleared: the result of R311. The word is at physical address `pa`. -/
def State.futureOp (s : State) (pa : Nat) (v : Option Nat) : Nat × State :=
  let w := (s.dLoad pa 8).v
  let rec_ := s.frecs.find? fun p => s.recAt (p.1 / 1024) (p.1 % 1024) == pa
  let mine (t : Task) : Bool := t.st == .waiting && t.waitFut == some pa
  match v with
  | none =>
    if s.tasks.any (fun p => mine p.2) ∨ rec_.isSome then (2, s) else (3, s.dStore pa (bytesOfNat 8 0) false)
  | some v =>
    let s := s.correct spD pa 8
    if w.bit 63 then (1, s)
    else
      let s1 := s.dStore pa (bytesOfNat 8 (2 ^ 63 + v)) false
      let s2 := s1.tasks.foldl (fun s p => if mine p.2 then
        (s.setTask p.1 { p.2 with pendH := p.2.waitDst.map fun d => (d, Val.clean (Word.ofN v)) }).post p.1 false else s) s1
      (0, match rec_ with
        | some (k, r) => s2.setRecord k r v
        | none => s2)

end Sys2Proof.Machine
end

