-- ==== Sys2Proof/Machine/Tasks.lean ====
section
/-! DEFINITION. Tasks: fetching, mapping and committing blocks, dispatch, the branch class, `nul`, `jpost` and futures (R239 to
R265, R310, R311, R47). -/

namespace Sys2Proof.Machine

/-! ### The checks at mapping (R45 to R47, R241, R263) -/

/-- The LSID of an instruction in block form; 31 where it has none. -/
def lsidAt (i : Instr) : Nat :=
  match i.hd with
  | some h => lsidOf h
  | none => 31

def opOf (i : Instr) : Nat := (i.opcode.map BitVec.toNat).getD 0

/-- The store class (R45). -/
def storeClass (i : Instr) : Bool :=
  match i with
  | .st _ _ _ _ _ => true
  | .stl _ _ _ _ => true
  | .stx _ _ _ _ _ _ => true
  | .stp _ _ _ _ => true
  | .pstx _ _ _ _ _ => true
  | .dqst _ _ _ _ _ => true
  | .vst _ _ _ _ _ => true
  | .vrcl _ _ _ _ => true
  | .qpush _ _ _ _ _ => true
  | .agcfg _ _ _ => true
  | .agstart _ _ _ => true
  | .ageos _ _ => true
  | i => decide (0xA0 ≤ opOf i ∧ opOf i ≤ 0xAF)

def usesQueues (i : Instr) : Bool :=
  match i with
  | .dqld _ _ _ _ _ => true
  | .dqst _ _ _ _ _ => true
  | .dqpop _ _ _ => true
  | .dqwt _ _ => true
  | _ => false

/-- Every word of a block decoded in block form. -/
def decodeBlock : List Word → Option (List Instr)
  | [] => some []
  | w :: r => match decodeWord .block w with
    | .error _ => none
    | .ok i => (decodeBlock r).map fun is => i :: is

/-- The masks and flags of a header against the instructions. -/
def masksOk (h : Bhdr) (is : List Instr) : Bool :=
  let ls := (is.map lsidAt).filter fun l => l != 31
  let st := (is.filter storeClass).map lsidAt
  let hs := (is.map destsOf).flatten
  !hasDup (ls.map fun l => (l, 0))
    && (List.range 32).all (fun k => h.smask.getLsbD k == st.contains k)
    && (List.range 8).all (fun k => h.wmask.getLsbD k == hs.contains (.h (BitVec.ofNat 3 k)))
    && h.atom == is.any (fun i => decide (0xA0 ≤ opOf i ∧ opOf i ≤ 0xBF)) && h.memd == is.any usesQueues

/-- The nearest writer of `d` among the first `lim` instructions gives it only at the commit. -/
def lateWriter (is : List Instr) (lim : Nat) (d : Dst) : Bool :=
  ((is.take lim).reverse.find? fun i => (destsOf i).contains d).elim false commitDelivers

/-- Whether an instruction at index `idx` reads nothing that its block delivers at commit (R241). -/
def readsOk (is : List Instr) (idx : Nat) (i : Instr) : Bool :=
  (sourcesOf i).all fun a => match a with
    | .row n => !lateWriter is (idx - 1) (.row n)
    | .h k => !lateWriter is (idx - 1) (.h k)
    | a => latchBack a == 0 || decide (idx ≤ latchBack a) || !((is[idx - latchBack a - 1]?).elim false commitDelivers)

/-- The indices above `idx` that a `nul` names; none where a name does not hold (R263). -/
def nulNames (is : List Instr) (idx : Nat) (i : Instr) : Option (List Nat) :=
  let above := (List.range is.length).filter fun j => decide (idx ≤ j)
  let at_ (j : Nat) : Instr := is.getD j (.nop { place := .block 31, ps := 0, pn := false })
  match i with
  | .nulSt _ m =>
    let bits := (List.range 31).filter fun k => m.getLsbD k
    if bits.all fun k => above.any fun j => lsidAt (at_ j) == k then
      some ((above.filter fun j => bits.contains (lsidAt (at_ j))).map (· + 1)) else none
  | .nulH _ m =>
    let bits := (List.range 8).filter fun k => m.getLsbD k
    let names (j k : Nat) : Bool := (destsOf (at_ j)).contains (.h (BitVec.ofNat 3 k))
    if bits.all fun k => above.any fun j => names j k then
      some ((above.filter fun j => bits.any fun k => names j k).map (· + 1)) else none
  | _ => some []

/-- A block that passes the checks of R47. -/
def blockOk (h : Bhdr) (ws : List Word) : Bool :=
  match decodeBlock ws with
  | none => false
  | some is => masksOk h is && (List.range is.length).all fun j => match is[j]? with
    | none => true
    | some i => readsOk is (j + 1) i && (nulNames is (j + 1) i).isSome

/-! ### Fetch and mapping (R240, R47, R48) -/

/-- `n` words of a block from `va`: a fault code, a translation fault, or the words. A word at or above 2^48 is `FT_ADDR` (log entry 106). -/
def State.fetchWords (s : State) (die ctx : Nat) : Nat → Nat → Except ElemFail (List Word) × State
  | _, 0 => (.ok [], s)
  | va, n + 1 =>
    if 2 ^ 48 ≤ va then (.error (.code ftAddr), s)
    else match s.vLoad die 1 ctx va 8 with
      | (.error r, s1) => (.error (.miss va false r), s1)
      | (.ok v, s1) => match s1.fetchWords die ctx (va + 8) n with
        | (.error f, s2) => (.error f, s2)
        | (.ok ws, s2) => (.ok (v.v :: ws), s2)

/-- A fetch that fails: the task ends, or waits for the pager. -/
def State.fetchFail (s : State) (k : Nat) (f : ElemFail) : State :=
  match f with
  | .code c => s.abortTask k c
  | .wait => s
  | .miss va _ r => s.pageWait k va 2 r

/-- BLOCK_FETCH_MAP: the block at the task's address is fetched, checked and mapped. A poisoned word counts with its stored bits
(log entry 19); a malformed header ends the task before the other words are fetched (log entry 105). -/
def execBlockFetchMap (task : Nat) (s : State) : Out :=
  let t := s.task task
  .next (match t.tile with
    | none => s
    | some tile =>
      if t.st ≠ .running ∨ t.blk.isSome then s
      else if 2 ^ 48 ≤ t.addr then s.abortTask task ftAddr
      else if t.addr % 8 ≠ 0 then s.abortTask task ftAlign
      else match s.fetchWords (tileDie tile) t.ctx t.addr 1 with
        | (.error f, s1) => s1.fetchFail task f
        | (.ok hw, s1) => match decodeBhdr (hw.getD 0 0) with
          | none => s1.abortTask task ftOpc
          | some h => match s1.fetchWords (tileDie tile) t.ctx (t.addr + 8) (h.count.toNat + 1) with
            | (.error f, s2) => s2.fetchFail task f
            | (.ok ws, s2) =>
              if !blockOk h ws then s2.abortTask task ftOpc
              else
                let d := s2.delay
                let q := if h.memd then d.2.nextD tile 31 else (0, d.2)
                let ks := (List.range 4).map fun j => Val.clean (q.2.ccsrAt t.ctx (0x1020 + j))
                q.2.setTask task { q.2.task task with blk := some { Blk.init with
                  addr := t.addr, hdr := h, words := ws, k := ks, start := s.cycle + d.1 + 4, dbase := q.1 } })

/-! ### The commit (R245 to R247) -/

/-- Where a block goes when no branch fired: the address after it. -/
def Blk.fall (b : Blk) : Nat := b.addr + 8 * (b.hdr.count.toNat + 2)

/-- Whether every instruction has fired and every result has been produced. -/
def State.blockDone (s : State) (b : Blk) : Bool :=
  (List.range b.words.length).all (fun j => b.fired.contains (j + 1)) && b.out.isEmpty
    && b.res.all (fun r => decide (r.2.from_ ≤ s.cycle)) && b.preds.all (fun p => decide (p.2.2.2 ≤ s.cycle))

/-- BLOCK_COMMIT: the commit of a finished block begins; ring slots it holds are popped. -/
def execBlockCommit (task : Nat) (s : State) : Out :=
  .next (match (s.task task).blk with
    | none => s
    | some b =>
      if !s.blockDone b ∨ (s.task task).committing then s
      else if b.exit.isNone ∧ 2 ^ 48 ≤ b.fall then s.abortTask task ftAddr
      else
        let s1 := s.setTask task { s.task task with commit := b.stores, sending := false, hdone := false, cfault := none,
                                                     committing := true }
        (s1.ringsCommit task).soon (.commitStep task))

/-- The address of the block that an exit runs next; after `exit` the block's own. -/
def Exit.next (e : Exit) (own : Nat) : Nat :=
  match e with
  | .to a => a
  | .yield a => a
  | .exit _ => own
  | .jwait _ a => a
  | .futwt _ _ a => a

/-- A task leaves its executor for the posted list or a wait: its frame is written. A frame that cannot be written ends it. -/
def State.leave (s : State) (k addr : Nat) (go : State → State) : State :=
  match s.writeFrame k addr true none with
  | .error _ => s.endTask k .aborted ftPage addr none
  | .ok s1 => go (s1.setTask k { s1.task k with addr := addr, tile := none, die := (s.task k).dieNow })

/-- A task goes on at `addr`: on its executor, or from the posted list when it is to be requeued (R256). -/
def State.goOn (s : State) (k addr : Nat) : State :=
  match (s.task k).requeue with
  | none => s.setTask k { s.task k with addr := addr }
  | some head => s.leave k addr fun s => s.post k head

/-- A task that waits; with no room in the waiter table it yields to its own block. -/
def State.waitOn (s : State) (k own addr : Nat) (f : Task → Task) : State :=
  if s.waitRoom (s.task k).dieNow then s.leave k addr fun s => s.setTask k { f (s.task k) with st := .waiting }
  else s.leave k own fun s => s.post k false

/-- A FAULT or HALT record for the context's debug session (R418): its buffer, where there is room, else it waits. -/
def State.debugEvent (s : State) (ctx : Nat) (e : EventRec) : State :=
  let d := tabGet Dbg.init s.dbgs ctx
  match d.queue with
  | none => s.sendEvent e
  | some _ =>
    let all := d.held ++ [e]
    let put (acc : List EventRec × State) (e : EventRec) : List EventRec × State :=
      let d := tabGet Dbg.init acc.2.dbgs ctx
      let ridx := match (acc.2.vLoad 0 2 ctx (d.va + 4) 4).1 with
        | .ok v => v.v.toNat
        | .error _ => 0
      let room := 2 ^ d.log - 1
      if acc.1 ≠ [] ∨ room ≤ (d.widx + 2 ^ 32 - ridx) % 2 ^ 32 then (acc.1 ++ [e], acc.2)
      else
        let w := (d.widx + 1) % 2 ^ 32
        match acc.2.vPutAll 0 2 ctx (d.va + 32 * (1 + d.widx % room)) (cleanBytes e.bytes) with
        | .error _ => (acc.1, acc.2)
        | .ok s1 => match s1.vPutAll 0 2 ctx d.va (cleanBytes (bytesOfNat 4 w)) with
          | .error _ => (acc.1, s1)
          | .ok s2 => (acc.1, { s2 with dbgs := tabPut s2.dbgs ctx { tabGet Dbg.init s2.dbgs ctx with widx := w } })
    let r := all.foldl put ([], s)
    { r.2 with dbgs := tabPut r.2.dbgs ctx { tabGet Dbg.init r.2.dbgs ctx with held := r.1 } }

/-- KIND of a HALT record. -/
def evHalt : Nat := 7

/-- The exit of a committed block (R246, R250). A `jwait` whose card has not ended is decided at the end of the cycle, in which the card
may end (R258). -/
def State.takeExit (s : State) (k : Nat) : State :=
  let t := s.task k
  match t.blk with
  | none => s
  | some b =>
    let e := b.exit.getD (.to b.fall)
    let nxt := e.next b.addr
    let stop := t.haltTag.isSome || t.debugStop
    let s1 := (s.setTask k { t with committed := t.committed + 1, committing := false, sending := false, hdone := false, haltTag := none,
                                    debugStop := false }).dropBlock k
    let s2 := match t.haltTag with
      | none => s1
      | some tag => s1.debugEvent t.ctx { kind := evHalt, code := 0, queue := t.queue, ctx := t.ctx, die := t.dieNow, tag := tag,
                                          data0 := Word.ofN t.frame, data1 := Word.ofN b.addr }
    match e, t.cfault with
    | .exit v, some c => (s2.hostEvent evFault t.ctx c (Word.ofN t.frame) (Word.ofN b.addr) t.dieNow).endTask k .aborted c b.addr (some v)
    | _, some c => (s2.hostEvent evFault t.ctx c (Word.ofN t.frame) (Word.ofN b.addr) t.dieNow).endTask k .aborted c nxt none
    | .exit v, none => s2.endTask k .done 0 b.addr (some v)
    | e, none =>
      if t.cancelReq then s2.endTask k .cancelled 0 nxt none
      else if stop then s2.leave k nxt fun s => s.setTask k { s.task k with st := .halted }
      else match e with
        | .yield a => s2.leave k a fun s => s.post k false
        | .jwait pa a =>
          let cst := (s2.dLoad (pa + 2) 1).v.toNat
          let s2 := s2.correct spD (pa + 2) 1
          if 3 ≤ cst ∧ cst ≤ 5 then s2.goOn k a
          else if s.agenda.any fun x => x.isStage || x.isFinish then s.later (.commitStep k)
          else s2.waitOn k b.addr a fun t => { t with waitCard := some pa }
        | .futwt pa d a =>
          let v := s2.dLoad pa 8
          let s2 := s2.correct spD pa 8
          let h : Option Nat := match d with
            | .h j => some j.toNat
            | _ => none
          if v.p then
            (s2.hostEvent evFault t.ctx ftPoison (Word.ofN t.frame) (Word.ofN b.addr) t.dieNow).endTask k .aborted ftPoison b.addr none
          else if v.v.bit 63 then
            let s3 := match h with
              | none => s2
              | some j => s2.setTask k { s2.task k with h := (s2.task k).h.set j (Val.clean (Word.ofN (v.v.bits 0 63))) }
            s3.goOn k a
          else s2.waitOn k b.addr a fun t => { t with waitFut := some pa, waitDst := h }
        | e => s2.goOn k (e.next b.addr)

/-! ### Dispatch (R256) -/

/-- Whether a task stands in the posted list, of a context that works. -/
def State.waitsOn (s : State) (t : Task) : Bool := t.st == .posted && t.postAt.isNone && s.ctxWorks t.ctx

/-- Posted tasks on a die, of contexts that work: the earliest of the highest priority. -/
def State.nextPosted (s : State) (die : Nat) : Option (Nat × Task) :=
  s.tasks.foldl (fun (acc : Option (Nat × Task)) p =>
    if !s.waitsOn p.2 ∨ p.2.die ≠ die then acc
    else match acc with
      | none => some p
      | some a => if p.2.prio < a.2.prio ∨ (p.2.prio = a.2.prio ∧ p.2.seqNo < a.2.seqNo) then some p else acc) none

/-- Whether a tile is an executor that takes tasks (R239). -/
def State.isExecutor (s : State) (tile : Nat) : Bool :=
  let n := pageOf (tileX tile) (tileY tile)
  computeTile (tileX tile) (tileY tile) && (s.page (tileDie tile) n).st == .pool && s.pooled (tileDie tile) n
    && !(s.page (tileDie tile) n).retp

/-- Executors of a die: the compute tiles of its pool pages. -/
def State.executors (s : State) (die : Nat) : List Nat :=
  (((List.range 64).filter fun n => s.pooled die n).map fun n =>
    ((List.range 16).map fun j => tileKey die (4 * (n % 8) + j % 4) (4 * (n / 8) + j / 4)).filter s.isExecutor).flatten

def State.taskOn (s : State) (tile : Nat) : Option (Nat × Task) := s.tasks.find? fun p => p.2.tile == some tile

/-- The frame of a task read into it, with the value of a future it waited for. -/
def State.readFrame (s : State) (k tile : Nat) : Except XFail State :=
  let t := s.task k
  let rd (s : State) (off : Nat) : Except XFail Val × State := s.vLoad (tileDie tile) 1 t.ctx (t.frame + off) 8
  match rd s 0 with
  | (.error r, _) => .error r
  | (.ok a, s1) =>
    let hs := (List.range 8).map fun j => match (rd s1 (8 + 8 * j)).1 with
      | .ok v => v
      | .error _ => Val.zero
    let h := match t.pendH with
      | some (j, v) => hs.set j v
      | none => hs
    .ok ((s1.setTask k { t with addr := a.v.toNat, h := h, pendH := none, waitDst := none, taken := true }).cardRuns
      (if t.taken then none else some t.card))

/-- How many posted tasks on a die, of contexts that work, stand above a priority. -/
def State.postedAbove (s : State) (die prio : Nat) : Nat :=
  (s.tasks.filter fun p => s.waitsOn p.2 && p.2.die == die && decide (p.2.prio < prio)).length

/-- How many tasks on a die leave their executors at their next commit. -/
def State.leavingOn (s : State) (die : Nat) : Nat :=
  (s.tasks.filter fun p => p.2.requeue.isSome && p.2.tile.isSome && p.2.dieNow == die).length

/-- TASK_DISPATCH: a free executor takes the task that stands first. At a busy one, a posted task of higher priority makes the
task of lowest priority, the latest started among equals, requeue at its next commit: one executor for each such task. -/
def execTaskDispatch (die tile : Nat) (s : State) : Out :=
  .next (if tileDie tile ≠ die then s else match s.nextPosted die with
    | none => s
    | some (k, t) => match s.taskOn tile with
      | some (j, u) =>
        let worst := s.tasks.all fun p => match p.2.tile with
          | none => true
          | some x => p.1 == j || tileDie x != die || p.2.requeue.isSome || decide (p.2.prio < u.prio)
              || (p.2.prio == u.prio && decide (p.2.since < u.since ∨ (p.2.since = u.since ∧ p.1 < j)))
        if t.prio < u.prio ∧ worst ∧ u.requeue.isNone ∧ (s.executors die).all (fun x => (s.taskOn x).isSome)
            ∧ s.leavingOn die < s.postedAbove die u.prio
        then s.setTask j { u with requeue := some true } else s
      | none =>
        if !s.isExecutor tile then s
        else
          let n := pageOf (tileX tile) (tileY tile)
          let s1 := s.setPage die n { s.page die n with lctx := t.ctx, lv := true }
          match s1.readFrame k tile with
          | .error _ => { s1 with tasks := tabDel s1.tasks k }.cardEnd (some t.card) stAborted ftPage
          | .ok s2 =>
            if ((tabFind s2.cards t.card).bind Card.ended).isSome then { s2 with tasks := tabDel s2.tasks k }
            else
              s2.setTask k { s2.task k with
                st := .running, tile := some tile, since := s.cycle, requeue := none, blk := none, committing := false })

/-- TIME_SLICE_EXPIRY: 50 µs on an executor while a task of the same priority waits on the die: it goes to the tail (log entry 90). -/
def execTimeSliceExpiry (task : Nat) (s : State) : Out :=
  let t := s.task task
  .next (if t.st = .running ∧ t.requeue.isNone ∧ t.since + 50000 ≤ s.cycle
      ∧ s.tasks.any (fun p => s.waitsOn p.2 && p.2.die == t.dieNow && p.2.prio == t.prio)
    then s.setTask task { t with requeue := some false } else s)

/-! ### The branch class (R245, R261, R262) -/

/-- An instruction of the branch class: the second one to fire in full is `FT_OPC`; a poisoned predicate, or a poisoned operand
among the first `np`, is `FT_POISON`. -/
def State.branch (s : State) (h : Hd) (srcs : List Src) (np : Nat) (bad odd : State → List Val → Bool)
    (body : State → List Val → State) : State :=
  s.act h srcs 0
    (fun s ops => if s.curBlk.exit.isSome then some ftOpc
      else firstCode (bad s ops) (odd s ops) ((s.fires h).2 || (ops.take np).any fun v => v.p))
    (fun _ _ => false) fun s ops _ => body s ops

/-- The exit of the issuing block set. -/
def State.exitTo (s : State) (e : Exit) : State := (s.modBlk fun b => { b with exit := some e }).complete .block 1 true {}

/-- A target that is no block address: outside [0, 2^48), or not 8-byte aligned. -/
def targetBad (v : Val) : Bool := v.v.bits 48 16 != 0

def targetOdd (v : Val) : Bool := v.v.bits 0 3 != 0

/-- H + 8 × SImm(). -/
def Blk.rel (b : Blk) (imm : BitVec 16) : Int := (b.addr : Int) + 8 * imm.toInt

def relBad (b : Blk) (imm : BitVec 16) : Bool := decide (b.rel imm < 0) || decide ((2 ^ 48 : Nat) ≤ b.rel imm)

def execBr (h : Hd) (imm : BitVec 16) (s : State) : Out :=
  .next (s.branch h [] 0 (fun s _ => relBad s.curBlk imm) (fun _ _ => false)
    fun s _ => s.exitTo (.to (s.curBlk.rel imm).toNat))

/-- `bcall`: the address of the following block is committed to d. -/
def execBcall (h : Hd) (d : BitVec 3) (imm : BitVec 16) (s : State) : Out :=
  .next (s.branch h [] 0 (fun s _ => relBad s.curBlk imm) (fun _ _ => false) fun s _ =>
    let b := s.curBlk
    (s.modBlk fun b => { b with exit := some (.to (b.rel imm).toNat) }).complete .block 1 true
      (ResW.one (.h d) (Val.clean (Word.ofN b.fall)) 0))

def execBret (h : Hd) (a : Src) (s : State) : Out :=
  .next (s.branch h [a] 1 (fun _ ops => targetBad (opn ops 0)) (fun _ ops => targetOdd (opn ops 0))
    fun s ops => s.exitTo (.to (opn ops 0).v.toNat))

def execYield (h : Hd) (a : Src) (s : State) : Out :=
  .next (s.branch h [a] 1 (fun _ ops => targetBad (opn ops 0)) (fun _ ops => targetOdd (opn ops 0))
    fun s ops => s.exitTo (.yield (opn ops 0).v.toNat))

/-- `exit`: a poisoned value goes to EXITV with its poison. -/
def execExit (h : Hd) (a : Src) (s : State) : Out :=
  .next (s.branch h [a] 0 (fun _ _ => false) (fun _ _ => false) fun s ops => s.exitTo (.exit (opn ops 0)))

/-- `jwait`: the card's address is translated at firing (R456). -/
def execJwait (h : Hd) (a b : Src) (s : State) : Out :=
  .next (s.branch h [a, b] 2
    (fun _ ops => targetBad (opn ops 0) || (opn ops 0).v.bits 0 6 != 0 || targetBad (opn ops 1)) (fun _ ops => targetOdd (opn ops 1))
    fun s ops =>
      let va := (opn ops 0).v.toNat
      match s.xlate s.cur.die 1 s.cur.ctx va false with
      | (.error r, s1) => s1.pageFault .block va false r
      | (.ok pa, s1) => s1.exitTo (.jwait pa (opn ops 1).v.toNat))

/-- `futwt`: the future's address is translated at firing (R310). -/
def execFutwt (h : Hd) (d : Dst) (a b : Src) (s : State) : Out :=
  .next (s.branch h [a, b] 2 (fun _ ops => targetBad (opn ops 0) || targetBad (opn ops 1))
    (fun _ ops => targetOdd (opn ops 0) || targetOdd (opn ops 1)) fun s ops =>
      let va := (opn ops 0).v.toNat
      match s.xlate s.cur.die 1 s.cur.ctx va false with
      | (.error r, s1) => s1.pageFault .block va false r
      | (.ok pa, s1) => s1.exitTo (.futwt pa d (opn ops 1).v.toNat))

/-! ### `nul` (R263) -/

/-- A `nul` that fires in full nulls the instructions it names. -/
def State.nul (s : State) (h : Hd) (i : Instr) : State :=
  s.act h [] 0 (fun _ _ => none) (fun _ _ => false) fun s _ _ =>
    let b := s.curBlk
    let names := (nulNames ((decodeBlock b.words).getD []) s.cur.idx i).getD []
    (s.modBlk fun b => { b with nulled := names.foldl setIns b.nulled }).complete .block 1 true {}

def execNulSt (h : Hd) (m : BitVec 32) (s : State) : Out := .next (s.nul h (.nulSt h m))

def execNulH (h : Hd) (m : BitVec 32) (s : State) : Out := .next (s.nul h (.nulH h m))

/-! ### A send whose address is translated when it fires (R456, R311) -/

/-- The life of such a send: translated at firing and kept with its operands; performed as a release. -/
def State.sendAt (s : State) (i : Instr) (h : Hd) (srcs : List Src) (check : State → List Val → Option Nat) (lat : State → List Val → Nat)
    (perform : State → Nat → List Val → Bool → State) : State :=
  let m := h.place.form
  s.act h srcs (match m with
      | .timed => 1
      | .block => 0) check (fun _ _ => false) fun s ops pp =>
    match s.cur.phase with
    | .fire =>
      let va := (opn ops 0).v.toNat
      match s.dXlate m va 8 true with
      | (.error r, s1) => s1.pageFault m va true r
      | (.ok pa, s1) =>
        let ops1 := keepAt ops pa
        match m with
        | .block => s1.deferSend i ops1 pp
        | .timed =>
          let s2 := s1.tagged
          let s3 := s2.expect .timed (lat s2 ops) 1
          s3.request (.unit 0) (s3.carry .perform ops1 pp 0) i true
    | _ => if s.opsOut s.cur then s.hold else perform s (keptAt ops) ops.dropLast pp

/-! ### `jpost` (R264) -/

/-- The queue that an operand of `jpost` names. -/
def State.postQueue (s : State) (m : Form) (b : Val) : Nat :=
  if b.v.bits 0 16 = 0xFFFF then (match m with
    | .timed => 0
    | .block => s.curTask.queue) else b.v.bits 0 16

/-- Operands of `jpost`: a card address, and a queue of the issuer's context. -/
def State.jpostCheck (s : State) (ops : List Val) : Option Nat :=
  let a := opn ops 0
  let b := opn ops 1
  let q := b.v.bits 0 16
  if targetBad a ∨ a.v.bits 0 6 ≠ 0 ∨ b.v.bits 16 48 ≠ 0 ∨ (q ≠ 0xFFFF ∧ (4096 ≤ q ∨ (s.tableOn ∧ s.qCtx q ≠ s.cur.ctx))) then some ftAddr
  else if a.p ∨ b.p then some ftPoison else none

def execJpost (h : Hd) (d : Dst) (a b : Src) (s : State) : Out :=
  let m := h.place.form
  .next (s.sendAt (.jpost h d a b) h [a, b] (fun s ops => s.jpostCheck ops)
    (fun s ops => if (s.served (s.postQueue m (opn ops 1)) s.cur.die 3).1 = s.cur.die then 16 else 64)
    fun s pa ops pp =>
      let g := match m with
        | .timed => none
        | .block => s.curTask.graph
      let r := s.decrement s.cur.ctx (opn ops 0).v.toNat pa
        { graph := g, job := s.issuerJob m, queue := s.postQueue m (opn ops 1), die := s.cur.die, prio := s.issuerPrio m,
          finishing := false }
      r.2.sendResult m (ResW.one d { v := Word.ofN r.1, p := pp } 0))

/-! ### Futures (R310, R311) -/

def futCheck (ops : List Val) : Option Nat :=
  let a := opn ops 0
  if targetBad a ∨ (ops.drop 1).any (fun b => b.v.bit 63) then some ftAddr
  else if targetOdd a then some ftAlign
  else if ops.any (fun v => v.p) then some ftPoison else none

/-- `futset` and `futset.clr`: a release at system scope, performed at the word's channel. -/
def State.futSend (s : State) (i : Instr) (h : Hd) (d : Dst) (srcs : List Src) : State :=
  s.sendAt i h srcs (fun _ ops => futCheck ops) (fun _ _ => 1) fun s pa ops pp =>
    let r := s.futureOp pa ((ops.drop 1).head?.map fun v => v.v.bits 0 63)
    r.2.sendResult h.place.form (ResW.one d { v := Word.ofN r.1, p := pp } 0)

def execFutset (h : Hd) (d : Dst) (a b : Src) (s : State) : Out := .next (s.futSend (.futset h d a b) h d [a, b])

def execFutsetClr (h : Hd) (d : Dst) (a : Src) (s : State) : Out := .next (s.futSend (.futsetClr h d a) h d [a])

end Sys2Proof.Machine
end

