-- ==== Sys2Proof/Machine/Control.lean ====
section
/-! DEFINITION. Kernel control: `launch`, `cancel`, `cmpl`, `drain`, `cfginv`, `halt` and `brk` (R229 to R238, R413, R418). -/

namespace Sys2Proof.Machine

def State.issuerQueue (s : State) (m : Form) : Nat :=
  match m with
  | .timed => s.curRegion.queue
  | .block => s.curTask.queue

def State.issuerGraph (s : State) (m : Form) : Option Nat :=
  match m with
  | .timed => s.curRegion.graph
  | .block => s.curTask.graph

/-! ### `launch` (R233, R227) -/

/-- The operands a, b and c of a launch in `ops`: b is absent, and 0, in a sequence. -/
def launchOps (seq : Bool) (ops : List Val) : Val × Val × Val :=
  if seq then (opn ops 0, Val.zero, opn ops 1) else (opn ops 0, opn ops 1, opn ops 2)

/-- Launches on their way to the front end of a die. -/
def State.launchesOut (s : State) (die : Nat) : Nat :=
  (s.reqs.filter fun r => match r.i with
    | .launch _ _ _ _ _ _ => s.physDie r.who.ctx ((opn r.who.ops 0).v.bits 25 2) == die
    | .launchSeq _ _ _ _ _ => s.physDie r.who.ctx ((opn r.who.ops 0).v.bits 25 2) == die
    | _ => false).length

/-- A launch from a PE: a release toward the front end of its target die; D receives the word of R233, and p[ST] REFUSED. -/
def State.launchFrom (s : State) (i : Instr) (h : Hd) (d : Dst) (srcs : List Src) (st : BitVec 3) (seq : Bool) : State :=
  let m := h.place.form
  let die (s : State) (ops : List Val) : Nat := s.physDie s.cur.ctx ((opn ops 0).v.bits 25 2)
  s.sendF i h srcs 1 true
    (fun _ ops =>
      let o := launchOps seq ops
      if launchBad o.1.v o.2.1.v o.2.2.v seq then some ftAddr else if anyP ops then some ftPoison else none)
    (fun s ops => decide (64 ≤ s.launchesOut (die s ops)))
    (fun s ops pp =>
      let o := launchOps seq ops
      let r := s.accept { ctx := s.cur.ctx, op := o.1.v, n := o.2.1.v.toNat, recAddr := o.2.2.v.toNat, isSeq := seq, die := die s ops,
                          prio := s.issuerPrio m, queue := s.issuerQueue m, job := s.issuerJob m, graph := s.issuerGraph m,
                          card := none, inl := none }
      let res := ResW.one d { v := r.2.1, p := pp } 0
      r.2.2.sendResult m { res with preds := if st = 0 then [] else [(st.toNat, decide (r.1 ≠ 0), pp)] })
    fun s ops => if die s ops = s.cur.die then 16 else 64

def execLaunch (h : Hd) (d : Dst) (a b c : Src) (st : BitVec 3) (s : State) : Out :=
  .next (s.launchFrom (.launch h d a b c st) h d [a, b, c] st false)

def execLaunchSeq (h : Hd) (d : Dst) (a c : Src) (st : BitVec 3) (s : State) : Out :=
  .next (s.launchFrom (.launchSeq h d a c st) h d [a, c] st true)

/-! ### Work identifiers (R229) -/

/-- Whether an identifier breaks its layout at a level. -/
def identBad (a : Word) (level : Nat) : Bool :=
  let o := a.bits 0 16
  a.bits 48 16 != 0 || a.bits 16 8 != 0 || (match level with
    | 0 => decide (256 ≤ o)
    | 2 => decide (256 ≤ o ∧ (o < 0x100 ∨ 0x103 < o))
    | _ => decide (1024 ≤ o))

def identSerial (a : Word) : Nat := a.bits 24 24

def identObj (a : Word) : Nat := a.bits 0 16

/-- The table of slot `k` that touches a die. -/
def State.tableOn? (s : State) (die k : Nat) : Option (Nat × STab) :=
  s.tabs.find? fun t => t.2.slot == k && t.2.dies.contains die

/-! ### Completion words (R230, R235) -/

/-- The word of a table period: the present one, or the last (R279; log entry 20); UNKNOWN for any other serial. -/
def STab.phaseWord (t : STab) (serial : Nat) : Word :=
  if (t.st = .running ∨ t.st = .amber) ∧ serial = (t.periods + 1) % 2 ^ 24 then complWord 2 0 serial t.periods
  else if t.lastPhase.bits 28 24 = serial ∧ t.lastPhase ≠ 0 then t.lastPhase
  else complWord stUnknown 0 serial 0

/-- The table whose period `n` of slot `k` a context's phase identifier names: one that touches the issuer's die, else one on other
dies (R235). -/
def State.phaseTab (s : State) (die ctx k n : Nat) : Option STab :=
  let l := (s.tabs.map Prod.snd).filter fun t => t.slot == k && t.owner == ctx && (t.phaseWord n).bits 60 4 != stUnknown
  (l.find? fun t => t.dies.contains die).orElse fun _ => l.head?

/-- The completion word of the object `a` names at a level, for an issuer on `die`. -/
def State.workWord (s : State) (die ctx level : Nat) (a : Word) : Word :=
  let o := identObj a
  let n := identSerial a
  let unknown := complWord stUnknown 0 n 0
  match level with
  | 0 =>
    let r := s.region ctx o
    if r.st = .free ∨ r.serial ≠ n then unknown else r.word
  | 1 =>
    let g := s.graph ctx o
    if g.serial ≠ n ∨ n = 0 then unknown else g.final.getD (complWord 2 0 n g.count)
  | 2 =>
    if 256 ≤ o then match s.phaseTab die ctx (o - 256) n with
      | some t => t.phaseWord n
      | none => unknown
    else
      let r := s.region ctx o
      if r.phaseSerial ≠ n ∨ n = 0 then unknown
      else
        let w := r.word
        if r.seq.isNone ∨ 5 ≤ w.bits 60 4 then complWord r.phase.state r.phase.code n r.phase.count else complWord (w.bits 60 4) 0 n r.phase.count
  | _ =>
    let j := s.job ctx o
    if j.serial ≠ n ∨ n = 0 then unknown else j.final.getD (complWord 2 0 n j.count)

/-- Whether an object lies on a die (R235). -/
def State.workNear (s : State) (die ctx level : Nat) (a : Word) : Bool :=
  let o := identObj a
  match level with
  | 0 => (s.region ctx o).die == die
  | 1 => (s.graph ctx o).die == die
  | 2 => if 256 ≤ o then (match s.phaseTab die ctx (o - 256) (identSerial a) with
      | some t => t.dies.contains die
      | none => true)
    else (s.region ctx o).die == die
  | _ => (s.job ctx o).die == die

/-- `cmpl`, with or without its wait. -/
def State.cmpl (s : State) (h : Hd) (d : Dst) (a : Src) (level : Nat) (wait : Bool) : State :=
  s.queryF h [a] 1
    (fun _ ops => if identBad (opn ops 0).v level then some ftAddr else if (opn ops 0).p then some ftPoison else none)
    (fun s ops => wait && decide ((s.workWord s.cur.die s.cur.ctx level (opn ops 0).v).bits 60 4 < 5))
    (fun s ops pp => s.queryResult h.place.form d { v := s.workWord s.cur.die s.cur.ctx level (opn ops 0).v, p := pp })
    fun s ops => if s.workNear s.cur.die s.cur.ctx level (opn ops 0).v then 8 else 64

def execCmpl (h : Hd) (d : Dst) (a : Src) (level : BitVec 2) (s : State) : Out := .next (s.cmpl h d a level.toNat false)

def execCmplWait (h : Hd) (d : Dst) (a : Src) (level : BitVec 2) (s : State) : Out := .next (s.cmpl h d a level.toNat true)

/-! ### `cancel` (R234, R231) -/

/-- A READY region gives its pages up. -/
def State.releaseRegion (s : State) (ctx h die : Nat) : State :=
  (s.setRegion ctx h die { s.regionOn ctx h die with rel := true }).restRegion ctx h die

/-- A launch cancelled; `rel` gives the pages up too. A running region stops at its next cycle boundary. A cancel is performed after
what the regions do in its cycle (R231): a launch that its last report, or a fault, has ended in the cycle has reached a terminal
state. -/
def State.cancelRegion (s : State) (ctx h : Nat) (rel : Bool) : Nat × State :=
  let die := s.dieOf ctx h
  let r := s.regionOn ctx h die
  let s1 := if rel then s.setRegion ctx h die { r with rel := true } else s
  if r.lane.isSome then (2, s)
  else match r.st with
    | .queued =>
      let s2 := s1.dropLaunch ctx h die stCancelled 0
      (0, if rel ∧ (s2.regionOn ctx h die).st = .ready then s2.releaseRegion ctx h die else s2)
    | .loading => (0, s1.dropLaunch ctx h die stCancelled 0)
    | .arming => (0, s1.stopLaunch ctx h die stCancelled 0)
    | .running => if r.faults ≠ [] ∨ r.kill.isSome then (1, s)
      else (0, s1.setRegion ctx h die { s1.regionOn ctx h die with kill := some (stCancelled, 0) })
    | .draining => (0, s1.stopLaunch ctx h die stCancelled 0)
    | .halted => (0, s1.stopLaunch ctx h die stCancelled 0)
    | .saved => (0, s1.dropSaved ctx h die stCancelled 0)
    | .ready => if rel then (if r.quiet.any fun q => q + 16 == s.cycle then 1 else 0, s.releaseRegion ctx h die) else (1, s)
    | _ => (1, s)

/-- The launches of a context that `p` picks cancelled. -/
def State.cancelRegions (s : State) (ctx : Nat) (p : Region → Bool) : State :=
  (s.regions.filter fun e => e.1 / 4 / 256 == ctx && e.2.live && e.2.lane.isNone && e.2.st != .ready && p e.2).foldl
    (fun s e => (s.cancelRegion ctx (e.1 / 4 % 256) false).2) s

/-- The stream commands of a context that `p` picks cancelled as `scan` cancels them (R210). -/
def State.cancelStreams (s : State) (ctx : Nat) (p : SCmd → Bool) : State :=
  (List.range 32).foldl (fun s k => (s.scanCmds k fun c => c.ctx == ctx && p c).2) s

/-- A graph cancelled: its unfinished nodes end, and no further card of it is posted. -/
def State.cancelGraph (s : State) (ctx k : Nat) : State :=
  let s1 := s.setGraph ctx k { s.graph ctx k with cancelled := true }
  let s2 := (s1.tasks.filter fun t => t.2.ctx == ctx && t.2.graph == some k).foldl (fun s t => s.cancelTask t.1) s1
  let s3 := s2.cancelRegions ctx fun r => r.graph == some k
  let mine := (s3.cards.filter fun c => c.2.ctx == ctx && c.2.graph == some k).map Prod.fst
  let s4 := s3.cancelStreams ctx fun c => match c.card with
    | some n => mine.contains n
    | none => false
  let late := (s4.cards.filter fun c => mine.contains c.1 && c.2.kind == 2 && c.2.copy.isNone && c.2.ended.isNone).map Prod.fst
  (late.foldl (fun s n => s.cardEnd (some n) stCancelled 0) s4).settleGraph ctx k

/-- A job cancelled, with everything under it. -/
def State.cancelJob (s : State) (ctx k : Nat) : State :=
  let s1 := s.setJob ctx k { s.job ctx k with cancelled := true }
  let s2 := (s1.graphs.filter fun g => g.1 / 1024 == ctx && g.2.job == some k && g.2.final.isNone).foldl
    (fun s g => s.cancelGraph ctx (g.1 % 1024)) s1
  let s3 := s2.cancelRegions ctx fun r => r.job == some k
  (s3.cancelStreams ctx fun c => c.job == some k).settleJob ctx k

/-- The object `a` names at a level cancelled: the result of R234. The job of a table's run, and its periods, belong to timed lanes. -/
def State.cancelWork (s : State) (die ctx level : Nat) (a : Word) (rel : Bool) : Nat × State :=
  let w := s.workWord die ctx level a
  let o := identObj a
  if w.bits 60 4 = stUnknown then (3, s)
  else match level with
    | 0 => s.cancelRegion ctx o rel
    | 2 => if 256 ≤ o then (2, s) else if 5 ≤ w.bits 60 4 then (1, s) else s.cancelRegion ctx o false
    | 1 => if 5 ≤ w.bits 60 4 then (1, s) else (0, s.cancelGraph ctx o)
    | _ =>
      if 5 ≤ w.bits 60 4 then (1, s)
      else if s.tabs.any fun t => t.2.owner == ctx && t.2.job == some o then (2, s)
      else (0, s.cancelJob ctx o)

/-- `cancel`: a timed one reaches the dispatcher in the next cycle (log entry 89). -/
def execCancel (h : Hd) (d : Dst) (a : Src) (rel : Bool) (level : BitVec 2) (s : State) : Out :=
  .next (s.sendF (.cancel h d a rel level) h [a] 1 false
    (fun _ ops => if identBad (opn ops 0).v level.toNat then some ftAddr else if (opn ops 0).p then some ftPoison else none)
    (fun _ _ => false)
    (fun s ops pp =>
      let r := s.cancelWork s.cur.die s.cur.ctx level.toNat (opn ops 0).v rel
      r.2.sendResult h.place.form (ResW.one d { v := Word.ofN r.1, p := pp } 0)) (fun _ _ => 16) 1)

/-! ### `drain`, `cfginv` (R236, R237, R217) -/

/-- `drain`: N becomes min(N, i + 1). -/
def execDrain (h : Hd) (s : State) : Out :=
  .next (s.act h [] 0 (fun _ _ => none) (fun _ _ => false) fun s _ _ =>
    let r := s.curRegion
    let n := s.instanceOf h + 1
    (s.setCurRegion { r with n := if n < r.n then n else r.n }).complete .timed 1 true {})

/-- An invalidation sent on its way: performed on every die within 200 cycles (R217). -/
def State.cfgSend (s : State) (ctx : Nat) (h : Option Nat) : State :=
  let d := s.delay
  { d.2 with cinvs := d.2.cinvs ++ [{ at_ := s.cycle + 1 + d.1 % 200, ctx := ctx, handle := h, who := s.cur }] }

def execCfginv (h : Hd) (a : Src) (s : State) : Out :=
  .next (s.send (.cfginv h a) h [a] 0 false
    (fun _ ops => if (opn ops 0).v.bits 10 54 ≠ 0 then some ftAddr else if (opn ops 0).p then some ftPoison else none)
    (fun _ _ => false) (fun s ops _ => s.cfgSend s.cur.ctx (some ((opn ops 0).v.bits 0 10))) 1)

def execCfginvAll (h : Hd) (s : State) : Out :=
  .next (s.send (.cfginvAll h) h [] 0 false (fun _ _ => none) (fun _ _ => false) (fun s _ _ => s.cfgSend s.cur.ctx none) 1)

/-- CFG_INVALIDATION_PERFORMED: the first invalidation whose time has come acts on all four dies. -/
def execCfgInvalidationPerformed (s : State) : Out :=
  .next (match s.cinvs.find? fun c => decide (c.at_ ≤ s.cycle) with
    | none => s
    | some c => { s with cinvs := s.cinvs.erase c }.cfgInvalidate c.ctx c.handle)

/-! ### `halt`, `brk` (R238, R413) -/

/-- The issuing region stops at the end of this cycle, or the task after this commit. -/
def State.haltHere (s : State) (m : Form) (tag : Word) : State :=
  match m with
  | .timed => s.setCurRegion { s.curRegion with stop := true, haltTag := some (tag, s.nodeTag) }
  | .block => s.setTask s.cur.task { s.curTask with haltTag := some tag }

def execHalt (h : Hd) (a : Src) (s : State) : Out :=
  .next (s.send (.halt h a) h [a] 0 false (fun _ ops => if (opn ops 0).p then some ftPoison else none) (fun _ _ => false)
    (fun s ops _ => s.haltHere h.place.form (opn ops 0).v) 1)

/-- Whether a debug session holds a context. -/
def State.debugged (s : State) (ctx : Nat) : Bool := (tabGet Dbg.init s.dbgs ctx).queue.isSome

def execBrk (h : Hd) (imm : BitVec 16) (s : State) : Out :=
  .next (s.send (.brk h imm) h [] 0 false (fun _ _ => none) (fun _ _ => false)
    (fun s _ _ => if s.debugged s.cur.ctx then s.haltHere h.place.form (Word.ofN imm.toNat) else s) 1)

end Sys2Proof.Machine
end

