-- ==== Sys2Proof/Machine/Barriers.lean ====
section
/-! DEFINITION. Barrier slots and their five instructions, and the clearing of a counter's poison mark (R352 to R365). -/

namespace Sys2Proof.Machine

def State.bar (s : State) (tile k : Nat) : Bar := tabGet Bar.init (s.tile tile).bars k

def State.setBar (s : State) (tile k : Nat) (b : Bar) : State :=
  s.setTile tile { s.tile tile with bars := tabPut (s.tile tile).bars k b }

def barSlot (a : Word) : Nat := a.bits 0 4

def Bar.parity (b : Bar) : Bool := b.phase.getLsbD 0

def Bar.pend (b : Bar) (odd : Bool) : Int := if odd then b.pend1 else b.pend0

def Bar.setPend (b : Bar) (odd : Bool) (v : Int) (posted : Bool) : Bar :=
  if odd then { b with pend1 := v, posted1 := posted } else { b with pend0 := v, posted0 := posted }

def Bar.posted (b : Bar) (odd : Bool) : Bool := if odd then b.posted1 else b.posted0

/-- One pass of the settling of R354; `none` where nothing completes. -/
def Bar.pass (b : Bar) : Option Bar :=
  let c := b.parity
  if b.st = 1 ∧ b.posted c ∧ b.pend c ≤ 0 then
    let b1 := { b with st := if b.pend c < 0 then 2 else b.st }
    let b2 := b1.setPend c (if b.auto then (b.count : Int) else 0) b.auto
    some { b2 with phase := b.phase + 1 }
  else none

/-- The settling of R354: at most two phases complete. -/
def Bar.settle (b : Bar) : Nat → Bar
  | 0 => b
  | n + 1 => match b.pass with
    | none => b
    | some b1 => b1.settle n

/-- Whether phase `b` has completed (R362). -/
def Bar.reached (s : Bar) (phase : Nat) : Bool :=
  let n := (s.phase - BitVec.ofNat 32 phase).toNat
  decide (1 ≤ n ∧ n < 2 ^ 31)

/-- Whether a `barwt` for a phase waits. -/
def Bar.waits (s : Bar) (phase : Nat) : Bool := s.st == 1 && !s.reached phase

/-- Whether an instruction is a `barwt` on slot `k` that waits there. -/
def Bar.waiting (s : Bar) (k : Nat) (i : Instr) (ops : List Val) : Bool :=
  match i with
  | .barwt _ _ _ _ _ => barSlot (opn ops 0).v == k && s.waits ((opn ops 1).v.bits 0 32)
  | _ => false

/-- Whether a `barwt` waits at a slot: an untimed one that has reached the tile, or a timed one whose region is frozen. -/
def State.barWaited (s : State) (tile k : Nat) : Bool :=
  let b := s.bar tile k
  s.reqs.any (fun r => r.place == .tile tile && decide (r.at_ ≤ s.cycle + 1) && b.waiting k r.i r.who.ops)
    || s.regions.any fun p => p.2.acc.any fun a => a.tile == tile && decide (a.at_ ≤ p.2.t) && b.waiting k a.i a.who.ops

/-- The checks of R353 and R359 on the operands: `limit` says that the second one breaks its own. -/
def barCheck (ops : List Val) (limit : Word → Bool) : Option Nat :=
  let a := (opn ops 0).v
  if a.bits 4 14 ≠ 0 ∨ (ops.drop 1).any (fun v => limit v.v) then some ftAddr
  else if anyP ops then some ftPoison else none

/-- A barrier operation: one access of its tile, with a port and no plane (R357); one that sends is made by the commit of a block
(R358). A release is first held, with its region, as a fence is (R357). -/
def State.barrier (s : State) (i : Instr) (h : Hd) (srcs : List Src) (n : Nat) (sends release : Bool) (limit : Word → Bool)
    (waits : State → Nat → List Val → Bool) (perform : State → Nat → List Val → Bool → State) : State :=
  let m := h.place.form
  let a (ops : List Val) : Word := (opn ops 0).v
  if m = .block ∧ sends then
    s.act h srcs 0 (fun s ops => s.sCheck m (a ops) (barCheck ops limit)) (fun s ops => s.sAway m (a ops)) fun s ops pp =>
      match s.cur.phase with
      | .fire => s.deferSend i ops pp
      | _ =>
        let tile := s.sTileOf m (a ops)
        if s.sAway m (a ops) ∨ s.reqs.any (fun r => r.who.sameAgent s.cur && r.place == .tile tile) ∨ waits s tile ops
            ∨ (release && s.opsOut s.cur) ∨ !s.portFree tile .port then s.hold
        else perform (s.takePort tile .port true) tile ops pp
  else
    s.scratch i h srcs n (decide (n ≠ 0)) false a (fun _ ops => barCheck ops limit) (fun _ _ _ => .port) waits
      (fun s tile _ ops pp => perform s tile ops pp) (first := fun s => m == .timed && release && s.fenceHolds false)

/-- BROKEN and IDLE give `FT_BAR`, POISONED `FT_POISON`; nothing changes (R356). -/
def Bar.bad (b : Bar) : Option Nat := if b.st = 1 then none else if b.st = 3 then some ftPoison else some ftBar

/-- `barinit` (R360, R356). -/
def execBarinit (h : Hd) (a b : Src) (s : State) : Out :=
  let m := h.place.form
  .next (s.barrier (.barinit h a b) h [a, b] 0 true false (fun v => v.bits 40 24 != 0 || (v.bit 39 && v.bits 0 39 == 0)) (fun _ _ _ => false)
    fun s tile ops _ =>
      let k := barSlot (opn ops 0).v
      let v := (opn ops 1).v
      if (s.bar tile k).st = 1 ∧ s.barWaited tile k then s.raise m ftBar
      else
        let n : Int := if v.bit 39 then (v.bits 0 39 : Int) else 0
        s.setBar tile k { st := 1, phase := 0, pend0 := n, pend1 := n, posted0 := v.bit 39, posted1 := v.bit 39, count := v.bits 0 39,
                          auto := v.bit 39 })

/-- `barexp` and `bararr` (R361): the phase counted toward, and the slot after; an overflow changes nothing. -/
def Bar.count? (b : Bar) (par : Parity) (expect : Bool) (n : Nat) : Option (BitVec 32 × Bar) :=
  let odd : Bool := match par with
    | .cur => b.parity
    | .even => false
    | .odd => true
  let k := if odd = b.parity then b.phase else b.phase + 1
  let t := if expect then b.pend odd + n else b.pend odd - n
  if t < -(2 ^ 39 : Nat) ∨ (2 ^ 39 : Nat) ≤ t then none
  else some (k, (b.setPend odd t (b.posted odd || expect)).settle 3)

/-- One count at a slot: a release at its scope. -/
def State.barCount (s : State) (i : Instr) (h : Hd) (d : Dst) (a b : Src) (par : Parity) (expect : Bool) : State :=
  let m := h.place.form
  s.barrier i h [a, b] 1 true true (fun v => v.bits 39 25 != 0 || v == 0) (fun _ _ _ => false) fun s tile ops _ =>
    let k := barSlot (opn ops 0).v
    let br := s.bar tile k
    match br.bad with
    | some c => s.raise m c
    | none => match br.count? par expect (opn ops 1).v.toNat with
      | none => s.raise m ftBar
      | some (ph, br1) =>
        (s.setBar tile k br1).scratchAnswer m (ResW.one d { v := Word.ofN ph.toNat, p := false } 0)
          (if br1.st = 2 then some ftBar else none)

def execBarexp (h : Hd) (d : Dst) (a b : Src) (scp : BitVec 2) (par : Parity) (s : State) : Out :=
  .next (s.barCount (.barexp h d a b scp par) h d a b par true)

def execBararr (h : Hd) (d : Dst) (a b : Src) (scp : BitVec 2) (par : Parity) (s : State) : Out :=
  .next (s.barCount (.bararr h d a b scp par) h d a b par false)

/-- `barwt` (R362). -/
def execBarwt (h : Hd) (d : Dst) (a b : Src) (scp : BitVec 2) (s : State) : Out :=
  let m := h.place.form
  .next (s.barrier (.barwt h d a b scp) h [a, b] 1 false false (fun v => v.bits 32 32 != 0)
    (fun s tile ops => (s.bar tile (barSlot (opn ops 0).v)).waits ((opn ops 1).v.bits 0 32)) fun s tile ops _ =>
      let br := s.bar tile (barSlot (opn ops 0).v)
      match br.bad with
      | some c => s.raise m c
      | none => s.scratchResult m (ResW.one d (Val.clean (Word.ofN br.phase.toNat)) 0))

def bit01 (b : Bool) : Nat := if b then 1 else 0

/-- The status word of R363. -/
def Bar.word (b : Bar) : Word :=
  Word.ofN (b.phase.toNat * 2 ^ 32 + b.st * 2 ^ 30 + bit01 b.posted1 * 2 ^ 29 + bit01 b.posted0 * 2 ^ 28 + bit01 b.auto * 2 ^ 27)

/-- `bartst`: neither waits nor orders. -/
def execBartst (h : Hd) (d : Dst) (a : Src) (sel : BitVec 2) (s : State) : Out :=
  .next (s.barrier (.bartst h d a sel) h [a] 1 false false (fun _ => false) (fun _ _ _ => false) fun s tile ops _ =>
    let b := s.bar tile (barSlot (opn ops 0).v)
    let v : Word := if sel = 0 then b.word else ofInt (b.pend (sel == 2))
    s.scratchResult h.place.form (ResW.one d (Val.clean v) 0))

/-- TLCLR_WRITE: the mark of a counter of the writing context is cleared; a malformed operand is ignored (R365). -/
def execTlclrWrite (ctx : Nat) (w : Word) (s : State) : Out :=
  .next (match (if w.bits 16 48 = 0 then counterIdx w else none) with
    | none => s
    | some k => s.setCounter (counterKey ctx k) { s.counter (counterKey ctx k) with mark := none })

end Sys2Proof.Machine
end

