-- ==== Sys2Proof/Machine/Groups.lean ====
section
/-! DEFINITION. Sample groups: the engine's index of live groups, forking, settlement, the statistics in binary64, and the six
instructions (R368 to R383). -/

namespace Sys2Proof.Machine

/-! ### binary64 (R374) -/

/-- The exact value rounded once to binary64 with RNE. -/
def dbl (d : Dy) : Dy :=
  if d.m = 0 then Dy.zero
  else
    let top : Int := (Nat.log2 d.m.natAbs : Int) + d.e
    let k : Int := if top - 52 < -1074 then -1074 else top - 52
    let r := (roundAt .rne (decide (d.m < 0)) d.m.natAbs d.e k).1
    { m := if d.m < 0 then -(r : Int) else r, e := k }

def dblSub (a b : Dy) : Dy := dbl (a.add { m := -b.m, e := b.e })

/-- a / b, rounded once. -/
def dblDiv (a b : Dy) : Dy :=
  let sh := 60 + Nat.log2 b.m.natAbs
  let n := a.m.natAbs <<< sh
  let q := withSticky (n / b.m.natAbs) (a.e - b.e - sh) (n % b.m.natAbs != 0)
  dbl { m := if decide (a.m < 0) != decide (b.m < 0) then -(q.1 : Int) else q.1, e := q.2 }

/-- The root of a positive value, rounded once. -/
def dblSqrt (a : Dy) : Dy :=
  let sh : Nat := if a.e % 2 = 0 then 120 else 121
  let n := a.m.natAbs <<< sh
  let r := isqrt n
  let q := withSticky r ((a.e - sh) / 2) (r * r != n)
  dbl { m := q.1, e := q.2 }

/-- The encoding of a binary64 value. -/
def dblBits (d : Dy) : Word :=
  if d.m = 0 then 0
  else
    let m := d.m.natAbs
    let top : Int := (Nat.log2 m : Int) + d.e
    let mag : Nat := if top < -1022 then m <<< (d.e + 1074).toNat
      else (top + 1023).toNat * 2 ^ 52 + (m <<< (52 - Nat.log2 m)) - 2 ^ 52
    Word.ofN ((if d.m < 0 then 2 ^ 63 else 0) + mag)

def f32Dy (bits : Nat) : Dy := (decodeF .f32 bits).dy

/-- Mean, deviation and advantages over the rewards of V (R374). -/
def groupStats (eps : Nat) (rs : List Nat) : Dy × Dy × List Nat :=
  let n : Dy := { m := rs.length, e := 0 }
  let xs := rs.map f32Dy
  let mu := dblDiv (xs.foldl (fun s x => dbl (s.add x)) Dy.zero) n
  let q := xs.foldl (fun q x =>
    let d := dblSub x mu
    dbl (q.add (dbl (d.mul d)))) Dy.zero
  let var := dblDiv q n
  if var.m = 0 then (mu, Dy.zero, rs.map fun _ => 0)
  else
    let sg := dblSqrt var
    let den := dbl (sg.add (f32Dy eps))
    (mu, sg, xs.map fun x => (roundNE32 (dblDiv (dblSub x mu) den) false).1)

/-! ### The engine's state -/

def Grp.bits (l : List Nat) : Nat := l.foldl (fun n i => n + 2 ^ i) 0

/-- Rewards posted, as bits. -/
def Grp.rep (g : Grp) : Nat := Grp.bits (g.rew.map Prod.fst)

/-- Some sibling is not settled: until then operations act on the group (R371). -/
def Grp.active (g : Grp) : Bool := decide (g.settled.length < g.g)

def finiteF32 (bits : Nat) : Bool := bits / 2 ^ 23 % 256 != 255

/-- V: the posted, finite rewards of siblings that are not cancelled. -/
def Grp.valid (g : Grp) : List (Nat × Nat) := g.rew.filter fun p => !g.canc.contains p.1 && finiteF32 p.2

def Grp.badRew (g : Grp) : Bool := g.rew.any fun p => !g.canc.contains p.1 && !finiteF32 p.2

/-- The status word of R370. -/
def Grp.word (g : Grp) (st : Nat) (zvar bad timeout : Bool) (nval : Nat) : Word :=
  Word.ofN (st * 2 ^ 60 + bit01 zvar * 2 ^ 59 + bit01 bad * 2 ^ 58 + bit01 timeout * 2 ^ 57 + nval * 2 ^ 40 + g.settled.length * 2 ^ 32
    + g.forks)

/-- The word of a live group. -/
def Grp.live (g : Grp) : Word := g.word 1 false false false 0

/-- `n` bytes of a descriptor's field. -/
def State.gField (s : State) (key off n : Nat) : Val := s.pdb.load 8 (key + off) n

def State.gPut (s : State) (key off n : Nat) (v : Nat) : State :=
  s.pPut (key + off) (bytesOfNat n (Word.ofN v).toNat) false

/-- The engine's state changed to `g`, with the fields of the descriptor that change. -/
def State.gUpdate (s : State) (key : Nat) (old g : Grp) : State :=
  let s1 := { s with groups := tabPut s.groups key g }
  let s2 := if old.rep = g.rep then s1 else s1.gPut key 0x40 8 g.rep
  let s3 := if old.canc = g.canc then s2 else s2.gPut key 0x48 8 (Grp.bits g.canc)
  if old.live = g.live then s3 else s3.gPut key 0x30 8 g.live.toNat

/-- The f32 word `i` of an array that a P address names; one that is not there is not written. -/
def State.gArray (s : State) (ctx : Nat) (a : Word) (i v : Nat) : State :=
  match s.partOf ctx false a with
  | .error _ => s
  | .ok (p, off) => s.pPut (partKey p (off + 4 * i)) (bytesOfNat 4 (Word.ofN v).toNat) false

/-- Whether a wait stands on group `num`. -/
def State.gWaited (s : State) (num : Nat) : Bool :=
  s.reqs.any fun r => r.place == .unit 1 && keptAt r.who.ops == num

/-- A group that is over leaves the index; what it ended with stays for those that wait. -/
def State.gDrop (s : State) (key : Nat) (g : Grp) (e : GrpEnd) : State :=
  let s1 := { s with groups := tabDel s.groups key }
  if s.gWaited g.num then { s1 with groupEnds := s1.groupEnds ++ [e] } else s1

/-- The task of sibling `i` of a group, until it ends. -/
def State.sibTask (s : State) (key i : Nat) : Option Nat :=
  match s.cards.find? fun c => c.2.sib == some (key, i) && c.2.ended.isNone with
  | none => none
  | some (n, _) => (s.tasks.find? fun t => t.2.card == n).map Prod.fst

/-- A cancelled sibling's task ends (R373); that of a context that does not work ends when it is restored (R376). -/
def State.killSib (s : State) (key i : Nat) : State :=
  match s.sibTask key i with
  | none => s
  | some k => if s.ctxWorks (s.task k).ctx then s.cancelTask k else s.setTask k { s.task k with cancelReq := true }

/-- Collection (R374, R375). -/
def State.collect (s : State) (key : Nat) (g : Grp) (timeout : Bool) : State :=
  let v := g.valid
  let n := v.length
  if n < g.minc then
    let w := g.word 3 false g.badRew timeout n
    ((s.gPut key 0x38 8 0).gPut key 0x30 8 w.toNat).gDrop key g { num := g.num, status := w, mask := 0, adv := [] }
  else
    let r := groupStats g.eps (v.map Prod.snd)
    let adv := (List.range g.g).map fun i => match (v.map Prod.fst).idxOf? i with
      | some k => r.2.2.getD k 0
      | none => 0
    let mask := Grp.bits (v.map Prod.fst)
    let w := g.word 2 (r.2.1.m == 0) g.badRew timeout n
    let s1 := (s.gPut key 0x50 8 (dblBits r.1).toNat).gPut key 0x58 8 (dblBits r.2.1).toNat
    let s2 := (List.range g.g).foldl (fun s i => s.gArray g.ctx g.adv i (adv.getD i 0)) s1
    ((s2.gPut key 0x38 8 mask).gPut key 0x30 8 w.toNat).gDrop key g { num := g.num, status := w, mask := mask, adv := adv }

/-- GROUP_COLLECTION: every sibling of a live group is settled. -/
def execGroupCollection (desc : Nat) (s : State) : Out :=
  .next (match tabFind s.groups desc with
    | none => s
    | some g => if g.active then s else s.collect desc g false)

/-- Sibling `i` settled, and the group collected when it is the last. -/
def State.settleSib (s : State) (key i : Nat) (old g : Grp) : State :=
  let g1 := { g with settled := setIns g.settled i }
  let s1 := s.gUpdate key old g1
  if g1.active then s1 else s1.collect key g1 false

/-- The siblings of a group that are not settled. -/
def Grp.open (g : Grp) : List Nat := (List.range g.g).filter fun i => !g.settled.contains i

/-- The unsettled siblings cancelled. -/
def Grp.cancelAll (g : Grp) : Grp :=
  { g with canc := g.open.foldl setIns g.canc, settled := List.range g.g }

/-- GROUP_DEADLINE: in the first cycle of tick DEADLINE the unsettled siblings are cancelled, and the group is collected. -/
def execGroupDeadline (desc : Nat) (s : State) : Out :=
  .next (match tabFind s.groups desc with
    | none => s
    | some g =>
      if g.deadline = 0 ∨ s.stc.toNat < g.deadline ∨ !s.tb.run ∨ !g.active then s
      else
        let g1 := g.cancelAll
        (g.open.foldl (fun s i => s.killSib desc i) (s.gUpdate desc g g1)).collect desc g1 true)

/-! ### What else arrives in the same cycle (R377) -/

/-- The group operations that are still to be done in this cycle, with their operands. -/
def State.pendingOps (s : State) : List (Instr × Issuer × List Val) :=
  (s.agenda.map fun a => match a with
    | .commitStep k =>
      let t := s.task k
      let sends := if t.sending then [] else match t.blk with
        | some b => b.sends
        | none => []
      (t.commit ++ sends).map fun d => (d.i, d.who, d.who.ops)
    | .fire who w => match decodeWord (if who.task = 0 then .timed else .block) w with
      | .error _ => []
      | .ok i =>
        let s1 := { s with cur := { who with phase := .fire } }
        match i.hd with
        | none => []
        | some h => if who.task ≠ 0 ∨ !(s1.fires h).1 then [] else [(i, who, s1.operands h.place.form (sourcesOf i))]
    | .redo a => [(a.i, a.who, a.who.ops)]
    | .perform r => [(r.i, r.who, r.who.ops)]
    | _ => []).flatten

/-- The descriptor that an operand of a context names. -/
def State.gKey (s : State) (ctx : Nat) (a : Val) : Option Nat :=
  match s.partOf ctx false a.v with
  | .error _ => none
  | .ok (p, off) => some (partKey p off)

/-- Whether a `gcan` of index `i` of the group is still to come in this cycle. -/
def State.cancelSoon (s : State) (key i : Nat) : Bool :=
  s.pendingOps.any fun o => match o.1 with
    | .gcan _ _ _ _ => s.gKey o.2.1.ctx (opn o.2.2 0) == some key && (opn o.2.2 1).v.toNat == i
    | _ => false

/-- The siblings that an operation or a task's end still to come in this cycle settles. -/
def State.settleSoon (s : State) (key : Nat) : List Nat :=
  let ops := s.pendingOps.filterMap fun o => match o.1 with
    | .gcan _ _ _ _ => if s.gKey o.2.1.ctx (opn o.2.2 0) = some key then some (opn o.2.2 1).v.toNat else none
    | .grew _ _ _ _ _ => if s.gKey o.2.1.ctx (opn o.2.2 0) = some key then some (opn o.2.2 1).v.toNat else none
    | _ => none
  let ends := s.agenda.filterMap fun a => match a with
    | .commitStep k => match (s.task k).blk, tabFind s.cards (s.task k).card with
      | some b, some c => match b.exit, c.sib with
        | some (.exit _), some (d, i) => if d = key ∧ !s.taskOut k then some i else none
        | _, _ => none
      | _, _ => none
    | _ => none
  ops ++ ends

/-! ### Operands (R378) -/

/-- The checks when an instruction fires: `rest` are the layouts of the other operands. -/
def State.gCheck (s : State) (ops : List Val) (addr align : Bool) : Option Nat :=
  let a := opn ops 0
  let p := s.partOf s.cur.ctx false a.v
  let no := match p with
    | .error c => c == ftAddr
    | .ok _ => false
  let pois := match p with
    | .error c => c == ftPoison
    | .ok _ => false
  firstCode (no || addr) (a.v.bits 0 7 != 0 || align) (pois || anyP ops)

/-- The descriptor of the instruction being performed, and its latency. -/
def State.gThis (s : State) (ops : List Val) : Nat := (s.gKey s.cur.ctx (opn ops 0)).getD 0

def State.gLat (s : State) (near far : Nat) (ops : List Val) : Nat := if s.gThis ops / 2 ^ 21 / 48 = s.cur.die then near else far

def indexBad (b : Val) : Bool := b.v.bits 6 58 != 0

/-! ### `gfork` (R372, R379) -/

/-- Whether an array of `g` f32 values lies where R368 asks. -/
def State.gArrayOk (s : State) (ctx : Nat) (a : Word) (g : Nat) : Bool :=
  match s.partOf ctx false a with
  | .error _ => false
  | .ok (_, off) => off % 4 == 0 && decide (off + 4 * g ≤ 2 ^ 21)

/-- The group that a descriptor describes; none where result 3 of R379 applies. -/
def State.readGroup (s : State) (key ctx : Nat) : Option Grp :=
  let f (off n : Nat) : Word := (s.gField key off n).v
  let g := (f 0x24 1).toNat
  let minc := (f 0x25 1).toNat
  let eps := (f 0x20 4).toNat
  let dl := f 0x18 8
  let st := (f 0x30 8).bits 60 4
  let bad := s.pdb.poisoned 8 key 128 || f 0x26 2 != 0 || f 0x2C 4 != 0 || (List.range 4).any (fun i => f (0x60 + 8 * i) 8 != 0)
    || !s.gArrayOk ctx (f 0 8) g || !s.gArrayOk ctx (f 8 8) g || (f 0x10 8).bits 48 16 != 0 || (f 0x10 8).bits 0 7 != 0
    || dl.bits 48 16 != 0 || !finiteF32 eps || decide (2 ^ 31 < eps) || decide (g < 2 ∨ 64 < g) || decide (minc < 1 ∨ g < minc)
    || (dl != 0 && decide (dl.toNat ≤ s.stc.toNat)) || st == 1 || decide (5 ≤ st)
  if bad then none
  else some { num := s.groupNo, ctx := ctx, rwd := f 0 8, adv := f 8 8, frames := (f 0x10 8).toNat, deadline := dl.toNat, eps := eps,
              g := g, minc := minc, forks := ((f 0x28 4).toNat + 1) % 2 ^ 32, rew := [], canc := [], settled := [] }

/-- The frames of the siblings translated; none where one cannot be. -/
def State.frameAddrs (s : State) (die ctx va : Nat) : Nat → Option (List Nat × State)
  | 0 => some ([], s)
  | n + 1 => match s.xlate die 2 ctx va true with
    | (.error _, _) => none
    | (.ok pa, s1) => (s1.frameAddrs die ctx (va + 128) n).map fun r => (pa :: r.1, r.2)

/-- Sibling `i` made: its frame written and its task posted, 8 cycles after the one before it. -/
def State.makeSib (s : State) (t : Task) (key : Nat) (g : Grp) (addr cont : Word) (pas : List Nat) (i : Nat) : State :=
  let pa := pas.getD i 0
  let hv (j : Nat) : Val := t.h.getD j Val.zero
  let put (s : State) (off : Nat) (vs : List Val) : State :=
    let w := frameWords vs
    s.dStore (pa + off) w.1 w.2
  let s1 := put s 0 [Val.clean addr, Val.clean (Word.ofN i), Val.clean (Word.ofN (cbrng cont.toNat i)), hv 2]
  let s2 := put s1 32 [hv 3, hv 4, hv 5, hv 6]
  let s3 := put s2 64 [hv 7, Val.zero, Val.zero]
  let va := g.frames + 128 * i
  let n := s3.nextCard
  let card : Card := { ctx := t.ctx, va := va, graph := t.graph, job := t.job, queue := t.queue, kind := 0, die := t.die, prio := t.prio,
                       pa := 0, launch := none, copy := none, sib := some (key, i), ended := none, task := none,
                       link := none }
  let s4 := { s3 with cards := tabPut s3.cards n card, nextCard := n + 1 }
  let s5 := match t.graph with
    | none => s4
    | some k => s4.setGraph t.ctx k { s4.graph t.ctx k with live := (s4.graph t.ctx k).live + 1 }
  (s5.newTask { Task.init with ctx := t.ctx, frame := va, card := n, queue := t.queue, prio := t.prio, die := t.die, graph := t.graph,
                               job := t.job, postAt := if i = 0 then none else some (s.cycle + 8 * i) }).2

/-- The fork at the commit: the result of R379. -/
def State.fork (s : State) (key : Nat) (addr cont : Word) : Nat × State :=
  let t := s.curTask
  if 4096 ≤ s.groups.length then (1, s)
  else if (tabFind s.groups key).isSome then (2, s)
  else
    let desc := s.readGroup key t.ctx
    let s := s.correct spP key 128
    match desc with
    | none => (3, s)
    | some g => match s.frameAddrs t.die t.ctx g.frames g.g with
      | none => (4, s)
      | some (pas, s1) =>
        let s2 := { s1 with groups := tabPut s1.groups key g, groupNo := s1.groupNo + 1 }
        let s3 := ((((s2.gPut key 0x28 4 g.forks).gPut key 0x38 8 0).gPut key 0x40 8 0).gPut key 0x48 8 0).gPut key 0x30 8 g.live.toNat
        let s4 := (List.range g.g).foldl (fun s i => s.makeSib t key g addr cont pas i) s3
        let dead := match t.graph with
          | some k => (s4.graph t.ctx k).cancelled
          | none => false
        (0, if dead then (List.range g.g).foldl (fun s i => s.killSib key i) s4 else s4)

def execGfork (h : Hd) (d : Dst) (a b c : Src) (s : State) : Out :=
  .next (s.send (.gfork h d a b c) h [a, b, c] 1 true (fun s ops => s.gCheck ops (targetBad (opn ops 1)) (targetOdd (opn ops 1)))
    (fun _ _ => false) (fun s ops pp =>
      let r := s.fork (s.gThis ops) (opn ops 1).v (opn ops 2).v
      r.2.sendResult h.place.form (ResW.one d { v := Word.ofN r.1, p := pp } 0)) 16)

/-! ### `grew` and `gcan` (R380, R382) -/

/-- A reward posted: the result of R380. -/
def State.reward (s : State) (key i v : Nat) : Nat × State :=
  match tabFind s.groups key with
  | none => (3, s)
  | some g =>
    if !g.active then (3, s)
    else if g.g ≤ i then (4, s)
    else if g.canc.contains i ∨ s.cancelSoon key i then (2, s)
    else if (tabFind g.rew i).isSome then (1, s)
    else (0, (s.gArray g.ctx g.rwd i v).settleSib key i g { g with rew := tabPut g.rew i v })

def execGrew (h : Hd) (d : Dst) (a b c : Src) (s : State) : Out :=
  .next (s.sendF (.grew h d a b c) h [a, b, c] 1 true
    (fun s ops => s.gCheck ops (indexBad (opn ops 1) || (opn ops 2).v.bits 32 32 != 0) false) (fun _ _ => false) (fun s ops pp =>
      let r := s.reward (s.gThis ops) (opn ops 1).v.toNat (opn ops 2).v.toNat
      r.2.sendResult h.place.form (ResW.one d { v := Word.ofN r.1, p := pp } 0)) fun s ops => s.gLat 16 64 ops)

/-- One sibling cancelled: the result of R382. -/
def State.cancelSib (s : State) (key i : Nat) : Nat × State :=
  match tabFind s.groups key with
  | none => (2, s)
  | some g =>
    if !g.active then (2, s)
    else if g.g ≤ i then (4, s)
    else if g.canc.contains i then (1, s)
    else (0, (s.settleSib key i g { g with canc := setIns g.canc i }).killSib key i)

def execGcan (h : Hd) (d : Dst) (a b : Src) (s : State) : Out :=
  .next (s.sendF (.gcan h d a b) h [a, b] 1 false (fun s ops => s.gCheck ops (indexBad (opn ops 1)) false) (fun _ _ => false)
    (fun s ops pp =>
      let r := s.cancelSib (s.gThis ops) (opn ops 1).v.toNat
      r.2.sendResult h.place.form (ResW.one d { v := Word.ofN r.1, p := pp } 0)) fun s ops => s.gLat 16 64 ops)

/-- A whole group cancelled, unless what else happens in this cycle settles its last siblings (R377). -/
def State.cancelGroup (s : State) (key : Nat) : Nat × State :=
  match tabFind s.groups key with
  | none => (2, s)
  | some g =>
    if !g.active ∨ g.open.all fun i => (s.settleSoon key).contains i then (2, s)
    else
      let g1 := g.cancelAll
      let w := g1.word 4 false false false 0
      let s1 := (({ s with groups := tabPut s.groups key g1 }.gPut key 0x48 8 (Grp.bits g1.canc)).gPut key 0x38 8 0).gPut key 0x30 8 w.toNat
      (0, (g.open.foldl (fun s i => s.killSib key i) s1).gDrop key g { num := g.num, status := w, mask := 0, adv := [] })

def execGcanAll (h : Hd) (d : Dst) (a : Src) (s : State) : Out :=
  .next (s.sendF (.gcanAll h d a) h [a] 1 false (fun s ops => s.gCheck ops false false) (fun _ _ => false)
    (fun s ops pp =>
      let r := s.cancelGroup (s.gThis ops)
      r.2.sendResult h.place.form (ResW.one d { v := Word.ofN r.1, p := pp } 0)) fun s ops => s.gLat 16 64 ops)

/-! ### `gst`, `gbar`, `gadv` (R381, R383) -/

def execGst (h : Hd) (d : Dst) (a : Src) (s : State) : Out :=
  .next (s.queryF h [a] 1 (fun s ops => s.gCheck ops false false) (fun _ _ => false)
    (fun s ops pp =>
      let key := s.gThis ops
      match tabFind s.groups key with
      | some g => s.queryResult h.place.form d { v := g.live, p := pp }
      | none =>
        let v := s.gField key 0x30 8
        (s.correct spP (key + 0x30) 8).queryResult h.place.form d { v := v.v, p := v.p || pp }) fun s ops => s.gLat 8 64 ops)

/-- The result of a wait on a group that ended as `e` says. -/
def GrpEnd.result (e : GrpEnd) (idx : Option Nat) : Word :=
  match idx with
  | none => e.status
  | some i => if e.status.bits 60 4 = 2 then Word.ofN (e.mask / 2 ^ i % 2 * 2 ^ 32 + e.adv.getD i 0) else 0

/-- A group that is not live, as its descriptor stands: a fault, or the result. -/
def State.deadGroup (s : State) (ctx key : Nat) (idx : Option Nat) : Except Nat Val :=
  let st := s.gField key 0x30 8
  let k := st.v.bits 60 4
  let f (off n : Nat) : Val := s.gField key off n
  match idx with
  | none => if 2 ≤ k ∧ k ≤ 4 then .ok st else .error ftGroup
  | some i =>
    if (f 0x24 1).v.toNat ≤ i then .error ftAddr
    else if k < 2 ∨ 4 < k then .error ftGroup
    else if k ≠ 2 then .ok { v := 0, p := st.p }
    else match s.partOf ctx false (f 8 8).v with
      | .error c => .error c
      | .ok (p, off) =>
        let a := s.pdb.load 8 (partKey p (off + 4 * i)) 4
        .ok { v := Word.ofN ((f 0x38 8).v.toNat / 2 ^ i % 2 * 2 ^ 32 + a.v.toNat), p := st.p || (f 0x38 8).p || (f 8 8).p || a.p }

/-- The same with the words that it reads corrected (R148). -/
def State.deadRead (s : State) (key : Nat) (idx : Option Nat) : State :=
  let s1 := s.correct spP (key + 0x30) 8
  match idx with
  | none => s1
  | some i =>
    let s2 := ((s1.correct spP (key + 8) 8).correct spP (key + 0x24) 1).correct spP (key + 0x38) 8
    match s.partOf s.cur.ctx false (s.gField key 8 8).v with
    | .error _ => s2
    | .ok (p, off) => s2.correct spP (partKey p (off + 4 * i)) 4

/-- `gbar` and `gadv`: at firing a live group is noted, and the request waits for its end; the issuing region stands still
meanwhile (R73). -/
def State.gWait (s : State) (i : Instr) (h : Hd) (d : Dst) (srcs : List Src) (idx : List Val → Option Nat) : State :=
  let m := h.place.form
  s.act h srcs 1 (fun s ops => s.gCheck ops ((ops.drop 1).any indexBad) false) (fun _ _ => false) fun s ops pp =>
    match s.cur.phase with
    | .fire =>
      let key := s.gThis ops
      let s1 := s.tagged
      let s2 := s1.expect m (s1.gLat 8 64 ops) 1
      match tabFind s.groups key with
      | some g =>
        if (match idx ops with
            | some k => decide (g.g ≤ k)
            | none => false) then s.raise m ftAddr
        else
          let who := s2.carry .perform (keepAt ops g.num) pp 0
          { s2 with reqs := s2.reqs ++ [{ at_ := s.cycle + 1, place := .unit 1, who := who, i := i, store := false, seq := 0 }] }
      | none => match s.deadGroup s.cur.ctx key (idx ops) with
        | .error c => s.raise m c
        | .ok v => { s2.deadRead key (idx ops) with cur := s2.carry .perform ops pp 0 }.queryResult m d { v := v.v, p := v.p || pp }
    | _ =>
      let num := keptAt ops
      match s.groupEnds.find? fun e => e.num == num with
      | none => s.hold
      | some e =>
        let s1 := s.queryResult m d { v := e.result (idx ops), p := pp }
        if s1.gWaited num then s1 else { s1 with groupEnds := s1.groupEnds.filter fun x => x.num != num }

def execGbar (h : Hd) (d : Dst) (a : Src) (s : State) : Out := .next (s.gWait (.gbar h d a) h d [a] fun _ => none)

def execGadv (h : Hd) (d : Dst) (a b : Src) (s : State) : Out :=
  .next (s.gWait (.gadv h d a b) h d [a, b] fun ops => some (opn ops 1).v.toNat)

end Sys2Proof.Machine
end

