-- ==== Sys2Proof/Machine/Tables.lean ====
section
/-! DEFINITION. Schedule table images: their layout and the checks of an install that need the image alone (R272 to R275, R277
steps 1 to 3, R284, R387). -/

namespace Sys2Proof.Machine

/-! ### Header and sections (R272) -/

def zstTotal (img : List Word) : Nat := (img.getD 2 0).bits 32 32

def zstFlags (img : List Word) : Nat := (img.getD 1 0).bits 40 8

/-- The CRC over the image without its signature, with the CRC field taken as 0. -/
def zstCrc (img : List Word) : Nat :=
  let e := imgDir img 7
  let w3 := img.getD 3 0
  let z := setWord img 3 (Word.ofN (w3.bits 32 32 * 2 ^ 32))
  crc32c (((z.take (e.1 / 8) ++ z.drop ((e.1 + e.2) / 8)).map bytesOfWord).flatten)

/-- Steps 1 and 2 of R277 but for the lanes' signature. -/
def zstCheck12 (img : List Word) : Option Nat :=
  let w0 := img.getD 0 0
  let total := zstTotal img
  if w0.bits 0 32 ≠ 0x54535A51 then some ecfgCheck
  else if w0.bits 32 16 ≠ 1 ∨ w0.bits 56 8 ≠ 1 ∨ 2 < w0.bits 48 8 then some ecfgVer
  else if total % 8 ≠ 0 ∨ total < 0x60 ∨ img.length ≠ total / 8 ∨ !imgOrder img total ∨ (imgDir img 6).2 ≠ 0
      ∨ zstCrc img ≠ (img.getD 3 0).bits 0 32 ∨ !signOk img (zstFlags img % 2 == 1) then some ecfgCheck
  else none

/-- A section cut into records of `n` words. -/
def chunks (n : Nat) : Nat → List Word → List (List Word)
  | 0, _ => []
  | fuel + 1, ws => if ws.isEmpty then [] else ws.take n :: chunks n fuel (ws.drop n)

def zstRecs (img : List Word) (k n : Nat) : List (List Word) :=
  let ws := imgSection img k
  chunks n ws.length ws

/-! ### Lanes and entries (R273, R274) -/

/-- The numbers below `n` whose bit is set. -/
def bitsBelow (n v : Nat) : List Nat := (List.range n).filter fun i => v.testBit i

def laneOf (ws : List Word) : SLane :=
  let w := ws.getD 0 0
  { island := w.bits 0 8 == 1, dies := bitsBelow 4 (w.bits 8 4), ctx := w.bits 16 8, safe := w.bit 24, isl := w.bits 32 6,
    pages := (ws.drop 1 |>.take 4).map BitVec.toNat, broken := none, handle := 0, run := none, fall := none, recl := false }

def laneBad (ws : List Word) : Bool :=
  let w := ws.getD 0 0
  let dies := w.bits 8 4
  let pages := (ws.drop 1).take 4
  decide (1 < w.bits 0 8) || w.bits 12 4 != 0 || dies == 0 || decide (64 ≤ w.bits 16 8) || w.bits 25 7 != 0 || w.bits 40 24 != 0
    || (ws.drop 5).any (fun v => v != 0) || (if w.bits 0 8 = 1 then
      w.bits 38 2 != 0 || dies != 2 ^ w.bits 36 2 || pages.any (fun v => v != 0)
    else w.bits 32 8 != 0 || (List.range 4).any fun d => !dies.testBit d && pages.getD d 0 != 0)

def entOf (w0 w1 : Word) : SEnt :=
  { start := w0.bits 40 24, deadline := w0.bits 16 24 + 1, cfg := w0.bits 6 10, lane := w0.bits 2 4, trips := w1.bits 44 20,
    fallback := w1.bits 34 10, leave := w1.bits 30 4, lead := if w1.bits 22 8 = 0 then 8 else w1.bits 22 8, stepmax := w1.bits 14 8,
    mcp := w1.bit 7, test := w1.bit 6, lend := w1.bit 5, nofb := w1.bit 4, nocfg := w1.bit 3 }

/-- An entry that a region or a self-test uses: it holds its lane from its START to its DEADLINE (R284). -/
def SEnt.busy (e : SEnt) : Bool := !e.nocfg || e.test

/-- Reserved bits of an entry, and the fields that its flags fix. -/
def entBad (period nlane : Nat) (lanes : List SLane) (slate : Bool) (w0 w1 : Word) : Bool :=
  let e := entOf w0 w1
  let island := match lanes[e.lane]? with
    | some l => l.island
    | none => false
  w0.bits 0 2 != 0 || w1.bits 8 6 != 0 || w1.bits 0 3 != 0 || decide (period ≤ e.start) || decide (e.deadline ≤ e.start)
    || decide (period < e.deadline) || decide (nlane ≤ e.lane)
    || (if e.nocfg then e.cfg != 0 || e.trips != 0 || e.fallback != 0 else e.trips == 0 || slate || island || e.mcp || e.test)
    || (e.nofb && e.fallback != 0) || (!e.mcp && e.stepmax != 0)
    || (e.test && (!island || decide (e.deadline - e.start < 40) || slate))

/-- Entries in order of lane and START, none overlapping the next of its lane. -/
def entOrder : List SEnt → Bool
  | [] => true
  | [_] => true
  | a :: b :: r => (decide (a.lane < b.lane) || (a.lane == b.lane && decide (a.deadline ≤ b.start))) && entOrder (b :: r)

/-- At an MCP tick no busy entry holds its lane. -/
def mcpClear (es : List SEnt) : Bool :=
  (es.filter SEnt.mcp).all fun m => es.all fun e => !e.busy || decide (e.deadline ≤ m.start) || decide (m.start < e.start)

/-- The ticks after an MCP entry's START that a step may skip. -/
def stepRoom (period : Nat) (es : List SEnt) (m : SEnt) : Nat :=
  let at_ (t : Nat) : Nat := if m.start < t then t else t + period
  (es.filter fun e => e.busy || (e.mcp && e != m)).foldl (fun n e => if at_ e.start - m.start - 1 < n then at_ e.start - m.start - 1 else n) 255

/-- Gaps between the self-tests of an island lane, around the period (R274, R432). -/
def testGaps (period : Nat) (ts : List Nat) : Bool :=
  match ts with
  | [] => false
  | t :: _ => (List.range ts.length).all fun k =>
    let a := ts.getD k 0
    let b := if k + 1 < ts.length then ts.getD (k + 1) 0 else t + period
    decide (b - a ≤ 49000)

/-- Step 3 of R277, with the rules of R273 to R275, R284 and R387 on records. -/
def zstFieldsOk (img : List Word) : Bool :=
  let w1 := img.getD 1 0
  let w2 := img.getD 2 0
  let period := w1.bits 0 32
  let nlane := w1.bits 32 8
  let nent := w2.bits 0 16
  let slate := (zstFlags img).testBit 2
  let len (k : Nat) : Nat := (imgDir img k).2
  let lrecs := zstRecs img 0 8
  let lanes := lrecs.map laneOf
  let erecs := zstRecs img 1 2
  let es := erecs.map fun e => entOf (e.getD 0 0) (e.getD 1 0)
  let onDie (l d : Nat) : Bool := match lanes[l]? with
    | some x => x.dies.contains d
    | none => false
  decide (1 ≤ period ∧ period ≤ 2 ^ 24 ∧ 1 ≤ nlane ∧ nlane ≤ 16 ∧ 1 ≤ nent ∧ nent ≤ 4096) && zstFlags img / 8 == 0
    && decide (w1.bits 48 8 < 64) && w1.bits 56 8 == 0 && w2.bits 16 16 == 0 && (img.getD 3 0).bits 32 32 == 0
    && len 0 == 64 * nlane && len 1 == 16 * nent && len 2 % 16 == 0 && len 5 % 16 == 0
    && !lrecs.any laneBad && !erecs.any (fun e => entBad period nlane lanes slate (e.getD 0 0) (e.getD 1 0)) && entOrder es
    && mcpClear es && (es.filter SEnt.mcp).all (fun m => decide (m.stepmax ≤ stepRoom period es m))
    && (List.range nlane).all (fun l => match lanes[l]? with
      | some x => !x.island || testGaps period ((es.filter fun e => e.lane == l && e.test).map SEnt.start)
      | none => false)
    && (zstRecs img 2 2).all (fun r =>
      let w := r.getD 0 0
      decide (w.bits 0 8 < nlane) && onDie (w.bits 0 8) (w.bits 8 8) && decide (w.bits 16 8 ≤ 2) && w.bits 24 40 == 0)
    && (imgSection img 3).all (fun w =>
      w.bits 0 22 == 0 && !w.bit 32 && !w.bit 48 && decide (w.bits 28 4 < nlane) && onDie (w.bits 28 4) (w.bits 26 2))
    && (imgSection img 4).all (fun w => w.bits 0 24 == 0 && decide (w.bits 29 4 < nlane) && onDie (w.bits 29 4) (w.bits 27 2))
    && (zstRecs img 5 2).all (fun r =>
      let b := r.getD 0 0
      let w := r.getD 1 0
      b.bits 0 16 == 0 && b.bits 48 16 == 0 && w.bits 48 12 == 0 && w.bits 0 16 == 0 && decide (w.bits 60 4 < nlane))

/-- The table of an image that has passed the checks. -/
def zstTab (img : List Word) (slot : Nat) : STab :=
  let w1 := img.getD 1 0
  let lanes := (zstRecs img 0 8).map laneOf
  let dies := rowsOf ((lanes.map SLane.dies).flatten)
  { slot := slot, dies := dies, st := .installed, period := w1.bits 0 32, owner := w1.bits 48 8, lowpwr := (zstFlags img).testBit 1,
    slate := (zstFlags img).testBit 2, lanes := lanes, ents := (zstRecs img 1 2).map fun e => entOf (e.getD 0 0) (e.getD 1 0),
    alts := (zstRecs img 2 2).map fun r =>
      ((r.getD 0 0).bits 0 8, (r.getD 0 0).bits 8 8, (r.getD 0 0).bits 16 8, (r.getD 1 0).toNat),
    arb := (imgSection img 3).map fun w => (w.bits 28 4, w.bits 26 2, w.bits 22 4, w.bits 32 32), links := imgSection img 4,
    pins := (zstRecs img 5 2).map fun r => ((r.getD 1 0).bits 60 4, (r.getD 0 0).toNat, (r.getD 1 0).bits 0 48), startAt := 0, pos := 0,
    wrapped := false, periods := 0, ambers := 0, lastLane := 0, overAt := none, ack := false, switch := none, job := none, phaseBad := none,
    phaseCount := 0, lastPhase := 0 }

/-- Whether any lane is a safety lane. -/
def zstSafe (img : List Word) : Bool := (zstRecs img 0 8).any fun r => (laneOf r).safe

/-- Steps 1 to 3: the code of the first failure. -/
def zstError (img : List Word) : Option Nat :=
  match zstCheck12 img with
  | some c => some c
  | none =>
    if zstSafe img && !((zstFlags img % 2 == 1) && sigOk img true) then some ecfgCheck
    else if !zstFieldsOk img then some ecfgField
    else none

/-! ### Slots owned twice (step 7) -/

/-- Whether two arbiter records own one slot of one channel. -/
def arbTwice : List (Nat × Nat × Nat × Nat) → Bool
  | [] => false
  | a :: r => r.any (fun b => b.2.1 == a.2.1 && b.2.2.1 == a.2.2.1 && (b.2.2.2 &&& a.2.2.2) != 0) || arbTwice r

/-- Whether two link records own one flit position of one frame time of one end and direction of a link. -/
def linkTwice : List Word → Bool
  | [] => false
  | a :: r => r.any (fun b => b.bits 24 5 == a.bits 24 5 && (b.bits 48 16 &&& a.bits 48 16) != 0
      && (b.bits 33 15 &&& a.bits 33 15) != 0) || linkTwice r

end Sys2Proof.Machine
end

