-- ==== Sys2Proof/Machine/Schedule.lean ====
section
/-! DEFINITION. Device time and the tick, power leave, installed tables, the walk of their lanes, overruns and fallbacks,
mode-change points, lending and reclaim (R266 to R271, R277 to R293, R297). -/

namespace Sys2Proof.Machine

/-! ### Device time (R266 to R270) -/

/-- a / b to the nearest, ties to even. -/
def roundDiv (a b : Nat) : Nat :=
  let q := a / b
  let r := a % b
  if b < 2 * r ∨ (2 * r = b ∧ q % 2 = 1) then q + 1 else q

/-- NearestEven(e / 1,000). -/
def nearTicks (e : Int) : Int :=
  let n := roundDiv e.natAbs 1000
  if e < 0 then -(n : Int) else n

/-- One cycle of device time: 1 ns and the frequency correction, and at most 1 ns of the phase correction per 1,000 ns. It counts modulo
2^64. -/
def Timebase.flow (b : Timebase) : Timebase :=
  let f : Int := (b.frac : Int) + (2 ^ 40 : Nat) + b.rate
  let step := (f / (2 ^ 40 : Nat)).toNat
  let t := (b.time + step) % 2 ^ 64
  let b1 := { b with time := t, frac := (f % (2 ^ 40 : Nat)).toNat }
  if b.phase ≠ 0 ∧ 1000 ≤ elapsed b.slewAt t then
    if 0 < b.phase then { b1 with time := (t + 1) % 2 ^ 64, phase := b.phase - 1, slewAt := t }
    else if 0 < step then { b1 with time := elapsed 1 t, phase := b.phase + 1, slewAt := t }
    else b1
  else b1

/-- The boundary that begins the next tick, or a hold tick: e, STEP and the length of the tick (R267, R270). -/
def Timebase.boundary (b : Timebase) : Timebase :=
  let near : Nat := b.time + (if 2 ^ 39 ≤ b.frac then 1 else 0)
  let e : Int := signedBits 64 (elapsed ((b.tbase + 1000 * b.tick) % 2 ^ 64) near)
  let big := decide (2000 ≤ e.natAbs)
  let b1 := { b with
    e := e
    step := if big then nearTicks e else if b.stepped then b.step else 0
    stepped := !big && b.stepped
    tickLeft := if b.hold ∨ e = 0 ∨ b.tick = 0 then 1000 else if 1 ≤ e then 999 else 1001
    sent := some 64 }
  if b.holdTicks ≠ 0 then { b1 with holdTicks := b.holdTicks - 1, sentHold := true }
  else { b1 with tick := b.tick + 1, sentHold := false }

/-- One cycle of the tick: a boundary is sent when it is due, and comes closer to its application. -/
def Timebase.tickOn (b : Timebase) : Timebase :=
  let b1 := { b with sent := match b.sent with
                | some (n + 1) => some n
                | _ => none }
  if !b.run then b1
  else if b.tick = 0 ∧ b.holdTicks = 0 then (if b.tbase ≤ b.time then b1.boundary else b1)
  else
    let b2 := { b1 with tickLeft := b1.tickLeft - 1 }
    if b2.tickLeft = 0 then b2.boundary else b2

/-- The timebase one cycle later. -/
def Timebase.next (b : Timebase) : Timebase := b.flow.tickOn

/-- TIMEBASE_LOCK_LOSS: 2 s of device time without a `TBADJ` write. -/
def execTimebaseLockLoss (s : State) : Out :=
  .next (if s.tb.lock then
    { s with tb := { s.tb with lock := false, hold := true } }.hostEvent 6 0 0 0 0
  else s)

/-- Whether LOCK falls now. -/
def Timebase.lost (b : Timebase) : Bool :=
  b.lock && (match b.adjAt with
    | some t => decide (2000000000 < elapsed t b.time)
    | none => true)

/-- TBADJ_WRITE: a new RATE, and PHASE added to what is still to be slewed in (log entry 21). -/
def execTbadjWrite (w : Word) (s : State) : Out :=
  .next { s with tb := { s.tb with rate := signedBits 32 (w.bits 32 32), phase := s.tb.phase + signedBits 32 (w.bits 0 32),
                                   adjAt := some s.tb.time, lock := true, hold := false } }

/-- TBCTL_SETTIME: only while the tick has not been started. -/
def execTbctlSettime (s : State) : Out :=
  .next (if s.tb.run then s else { s with tb := { s.tb with
    time := (s.pkgCsr 0x8320).toNat, frac := 0, slewAt := 0
    adjAt := s.tb.adjAt.map fun a => elapsed (elapsed a s.tb.time) (s.pkgCsr 0x8320).toNat } })

/-- TBCTL_START: only once, at least 2,000 ns ahead. -/
def execTbctlStart (s : State) : Out :=
  .next (if s.tb.run ∨ (s.pkgCsr 0x8320).toNat < s.tb.time + 2000 then s
    else { s with tb := { s.tb with run := true, tbase := (s.pkgCsr 0x8320).toNat, hold := false } })

/-- `TBSTAT` (R266). -/
def Timebase.word (b : Timebase) : Word :=
  let lim : Int := (2 ^ 31 : Nat)
  let off : Int := if lim ≤ b.e then lim - 1 else if b.e < -lim then -lim else b.e
  Word.ofN (bit01 b.lock * 2 ^ 63 + bit01 b.hold * 2 ^ 62 + (b.step % (2 ^ 24 : Nat)).toNat * 2 ^ 32 + (off % (2 ^ 32 : Nat)).toNat)

/-! ### Power leave (R290, R291) -/

/-- The largest sum of leave that a table's entries hold at one tick on a die. -/
def STab.timedSum (t : STab) (die : Nat) (amt : Nat → Nat) : Nat :=
  let es := t.ents.filter fun e => match t.lanes[e.lane]? with
    | some l => l.dies.contains die
    | none => false
  es.foldl (fun m e0 =>
    let n := (es.filter fun e => decide (e.start ≤ e0.start) && decide (e0.start < e.deadline)).foldl (fun n e => n + amt e.leave) 0
    if m < n then n else m) 0

/-- The largest timed sum installed on a die. -/
def State.timedUse (s : State) (die : Nat) (amt : Nat → Nat) : Nat :=
  s.tabs.foldl (fun m t => if t.2.dies.contains die ∧ m < t.2.timedSum die amt then t.2.timedSum die amt else m) 0

def State.setLvbud (s : State) (die timed seeded tuse suse : Nat) : State :=
  s.setDcsr die 0x8330 (Word.ofN (timed % 2 ^ 16 * 2 ^ 48 + seeded % 2 ^ 16 * 2 ^ 32 + tuse % 2 ^ 16 * 2 ^ 16 + suse % 2 ^ 16))

def State.timed (s : State) (die : Nat) : Nat := (s.dcsrAt die 0x8330).bits 48 16

/-- TUSE after a table was installed or removed. -/
def State.syncTuse (s : State) (die : Nat) : State :=
  s.setLvbud die (s.timed die) (s.seeded die) (s.timedUse die (s.leaveAmt die)) (s.suse die)

/-- The seeded amounts granted on a die under other amounts of the classes. -/
def State.seededUse (s : State) (die : Nat) (amt : Nat → Nat) : Nat :=
  let a := (s.grants.filter fun g => g.2.1 == die).foldl (fun n g => n + amt g.2.2) 0
  s.regions.foldl (fun n p => if p.2.granted ∧ p.2.die = die then n + amt p.2.leave else n) a

/-- LEAVE_BUDGET_WRITE: `LVBUD` or an `LVAMT`; a write that would place a budget below its use is ignored. -/
def execLeaveBudgetWrite (die num : Nat) (w : Word) (s : State) : Out :=
  .next (if num = 0x8330 then
      if w.bits 48 16 < (s.dcsrAt die 0x8330).bits 16 16 ∨ w.bits 32 16 < s.suse die then s
      else s.setLvbud die (w.bits 48 16) (w.bits 32 16) ((s.dcsrAt die 0x8330).bits 16 16) (s.suse die)
    else if num ≤ 0x8340 ∨ 0x8350 ≤ num then s
    else
      let amt (c : Nat) : Nat := if c = num - 0x8340 then w.bits 0 16 else s.leaveAmt die c
      let tu := s.timedUse die amt
      let su := s.seededUse die amt
      if s.timed die < tu ∨ s.seeded die < su then s
      else (s.setDcsr die num (Word.ofN (w.bits 0 16))).setLvbud die (s.timed die) (s.seeded die) tu su)

/-! ### Installed tables -/

/-- A table's key: its lowest die and its slot. -/
def STab.key (t : STab) : Nat := 4 * (t.dies.head?).getD 0 + t.slot

/-- A table that runs: its pages are RESERVED for it, and it moves with the tick. -/
def STab.runs (t : STab) : Bool := t.st == .running || t.st == .amber

def State.setTab (s : State) (k : Nat) (t : STab) : State := { s with tabs := tabPut s.tabs k t }

def State.onTab (s : State) (k : Nat) (f : STab → STab) : State :=
  match tabFind s.tabs k with
  | none => s
  | some t => s.setTab k (f t)

def STab.onLane (t : STab) (l : Nat) (f : SLane → SLane) : STab :=
  match t.lanes[l]? with
  | none => t
  | some x => { t with lanes := t.lanes.set l (f x) }

def SLane.mask (l : SLane) (die : Nat) : Nat := l.pages.getD die 0

/-- The corner of a page mask. -/
def maskCorner (m : Nat) : Nat × Nat :=
  let ps := bitsBelow 64 m
  (ps.foldl (fun a n => if n % 8 < a then n % 8 else a) 7, ps.foldl (fun a n => if n / 8 < a then n / 8 else a) 7)

/-- Whether a mask holds a rectangle at its corner. -/
def maskHolds (m w h : Nat) : Bool :=
  let c := maskCorner m
  decide (c.1 + w ≤ 8) && decide (c.2 + h ≤ 8) && (rectPages c.1 c.2 w h).all fun n => m.testBit n

/-- The lane that reserves a page: of the table that runs, else of the lowest slot. -/
def State.rsvOf (s : State) (die n : Nat) : Option (Nat × Nat) :=
  let own (t : STab) : Option (Nat × Nat) :=
    ((List.range t.lanes.length).find? fun l => match t.lanes[l]? with
      | some x => !x.island && x.dies.contains die && (x.mask die).testBit n
      | none => false).map fun l => (t.slot, l)
  let ts := s.tabs.map Prod.snd
  ((ts.filter STab.runs).findSome? own).orElse fun _ => ts.findSome? own

/-- The pages of a die as its tables reserve them now. -/
def State.reserve (s : State) (die : Nat) : State :=
  (List.range 64).foldl (fun s n =>
    let p := s.page die n
    let r := s.rsvOf die n
    if p.rsv = r then s
    else if r.isNone ∧ p.st = .reserved then s.freed die n { p with rsv := none, handle := 0, ctx := 0 }
    else s.setPage die n { p with rsv := r, st := if p.st = .free then .reserved else p.st }) s

/-! ### Install (R277) -/

/-- A configuration looked up and pinned for a table; none in its place where the cache has no room for it. -/
def State.pinCopy (s : State) (key die ctx h : Nat) : Except Nat (List Word × Bool) × State :=
  match s.lookup die ctx h with
  | (.error c, s1) => (.error c, s1)
  | (.ok img, s1) =>
    let mine (c : Copy) : Bool := c.die == die && c.ctx == ctx && c.handle == h && !c.stale
    (.ok (img, s1.ccache.any mine),
      { s1 with ccache := s1.ccache.map fun (c : Copy) => if mine c then { c with pins := setIns c.pins key } else c })

/-- The configurations that a lane's entries name. -/
def STab.handles (t : STab) (l : Nat) : List Nat :=
  rowsOf ((t.ents.filter fun e => e.lane == l && !e.nocfg).map fun e => if e.nofb then [e.cfg] else [e.cfg, e.fallback]).flatten

/-- Every configuration of a table on every die of its lane: lane, die, image or code, and whether the cache keeps it. -/
def State.pinAll (s : State) (key : Nat) (t : STab) : List (Nat × Nat × Except Nat (List Word × Bool)) × State :=
  let jobs := ((List.range t.lanes.length).map fun l => match t.lanes[l]? with
    | some x => if x.island then [] else ((t.handles l).map fun h => x.dies.map fun d => (l, d, x.ctx, h)).flatten
    | none => []).flatten
  jobs.foldl (fun acc j =>
    let r := acc.2.pinCopy key j.2.1 j.2.2.1 j.2.2.2
    (acc.1 ++ [(j.1, j.2.1, r.1)], r.2)) ([], s)

/-- The 64 KiB pages of a pinned range translated and locked in a die's stream and queue caches; none where one is not pinned,
or where a cache would pass 1,024 locked entries (R306). -/
def State.lockRange (s : State) (die ctx base : Nat) : Nat → Option State
  | 0 => some s
  | n + 1 =>
    let one (s : State) (cache : Nat) : Option State :=
      match s.xlate die cache ctx base false with
      | (.error _, _) => none
      | (.ok _, s1) => match s1.tlb with
        | [] => none
        | e :: r =>
          let n := (r.filter fun x => x.die == die && x.cache == cache && x.locked).length
          if e.leaf.pin && decide (n < 1024) then some { s1 with tlb := { e with locked := true } :: r } else none
    match one s 0 with
    | none => none
    | some s1 => match one s1 1 with
      | none => none
      | some s2 => s2.lockRange die ctx (base + 2 ^ 16) n

/-- The regions' handles and the pages of a table's lanes. -/
def State.placeLanes (s : State) (key : Nat) (t : STab) (imgs : List (Nat × Nat × Except Nat (List Word × Bool))) : Option State :=
  (List.range t.lanes.length).foldl (fun acc l => match acc, t.lanes[l]? with
    | some s, some x =>
      if x.island then
        let m := s.misl x.isl
        some (s.setMisl x.isl { m.zero with st := .owned, owner := x.ctx, lane := some (t.slot, l) })
      else match s.newHandle x.ctx with
        | none => none
        | some h =>
          let old := s.regions.filter fun p => p.1 / 4 != x.ctx * 256 + h
          let size (f : ImgHead → Nat) : Nat := imgs.foldl (fun m e => match e.2.2 with
            | .ok (img, _) => if e.1 = l ∧ m < f (imgHead img) then f (imgHead img) else m
            | .error _ => m) 1
          let s1 := x.dies.foldl (fun s d =>
            let c := maskCorner (x.mask d)
            s.setRegion x.ctx h d { Region.init with
              st := .ready, die := d, px := c.1, py := c.2, shw := size ImgHead.shw, shh := size ImgHead.shh, setw := size ImgHead.shw,
              seth := size ImgHead.shh, prio := 1, queue := 0xFFFF, lane := some (t.slot, l) }) { s with regions := old }
          some (s1.onTab key fun t => t.onLane l fun x => { x with handle := h })
    | acc, _ => acc) (some (s.setTab key t))

/-- LNKSTAT.STATE and MODS of a link (R389). -/
def State.linkUp (s : State) (die l : Nat) : Bool := (s.dcsrAt die (0x8600 + l)).bits 60 4 == 2

/-- Flit positions of a link, and those whose module is in service (R384, R389). -/
def linkPositions (l : Nat) : Nat := if l < 2 then 16 else if l = 2 then 8 else 3

def State.posAlive (s : State) (die l p : Nat) : Bool :=
  (s.dcsrAt die (0x8600 + l)).bit (52 + if l = 3 then 0 else p / 4)

/-- Step 7 for link records. -/
def State.linksBad (s : State) (t : STab) : Bool :=
  linkTwice t.links || t.links.any fun w =>
    let l := w.bits 25 2
    !s.linkUp (w.bits 27 2) l || (w.bit 48 && w.bit 33) || (l == 3 && w.bits 27 2 % 2 == 1)

/-- Bytes of a table image at a virtual address: none where a translation fails; the header alone where step 1 or TOTAL fails. -/
def State.readTable (s : State) (die ctx va : Nat) : Option (List Word) × State :=
  match s.readWords die ctx va 12 with
  | (.error _, s1) => (none, s1)
  | (.ok hd, s1) =>
    let w0 := hd.getD 0 0
    let total := zstTotal hd
    if w0.bits 0 32 ≠ 0x54535A51 ∨ w0.bits 32 16 ≠ 1 ∨ w0.bits 56 8 ≠ 1 ∨ 2 < w0.bits 48 8 ∨ total % 8 ≠ 0 ∨ total < 0x60 then (some hd, s1)
    else match s1.readWords die ctx (va + 96) ((total - 96) / 8) with
      | (.error _, s2) => (none, s2)
      | (.ok r, s2) => (some (hd ++ r), s2)

/-- Steps 1 to 8 for an image: the code of the first failure, or the state with the table installed. -/
def State.install (s : State) (slot : Nat) (img : List Word) : Except Nat State :=
  match zstError img with
  | some c => .error c
  | none =>
    let t := zstTab img slot
    let key := t.key
    let lanes := t.lanes.filter fun x => !x.island
    let mine (die n : Nat) : Bool := s.tabs.any fun o => o.2.dies == t.dies && o.2.lanes.any fun x =>
      !x.island && x.dies.contains die && (x.mask die).testBit n
    let pageOk (die n : Nat) : Bool := !(s.page die n).retp && ((s.page die n).st == .free || mine die n)
      && (lanes.filter fun x => x.dies.contains die && (x.mask die).testBit n).length == 1
    let isls := (t.lanes.filter fun x => x.island).map SLane.isl
    if t.dies.any (fun d => s.downDies.contains d || (s.tableOn? d slot).isSome)
        ∨ lanes.any (fun x => x.dies.any fun d => x.mask d == 0 || !(bitsBelow 64 (x.mask d)).all (pageOk d))
        ∨ isls.any (fun k => (s.misl k).st != .free) ∨ hasDup (isls.map fun k => (k, 0)) then .error ecfgShape
    else
      let p := s.pinAll key t
      let bad (e : Nat × Nat × Except Nat (List Word × Bool)) : Bool := match e.2.2, t.lanes[e.1]? with
        | .ok (img, _), some x => !maskHolds (x.mask e.2.1) (imgHead img).shw (imgHead img).shh
        | _, _ => false
      let code (e : Nat × Nat × Except Nat (List Word × Bool)) : Option Nat := match e.2.2, t.lanes[e.1]? with
        | .error c, _ => some c
        | .ok (img, _), some x =>
          if x.safe && !((img.getD 1 0).bit 56 && sigOk img true) then some ecfgCheck
          else if ((imgPorts img).getD []).any fun q => q.tgt == 1 then some ecfgPort else none
        | _, _ => none
      match p.2.placeLanes key t p.1 with
      | none => .error ecfgShape
      | some s1 =>
        if p.1.any bad then .error ecfgShape
        else match p.1.findSome? code with
          | some c => .error c
          | none =>
            if p.1.any (fun e => match e.2.2 with
                | .ok (_, kept) => !kept
                | .error _ => false) then .error ecfgShape
            else
              let locked := t.pins.foldl (fun (acc : Option State) r => match acc, t.lanes[r.1]? with
                | some s, some x => x.dies.foldl (fun (acc : Option State) d => match acc with
                  | some s => s.lockRange d x.ctx r.2.1 (r.2.2 / 2 ^ 16)
                  | none => none) (some s)
                | _, _ => none) (some s1)
              match locked with
              | none => .error ftPage
              | some s2 =>
                if arbTwice t.arb ∨ s.linksBad t then .error ecfgShape
                else if t.dies.any fun d => decide (s.timed d < t.timedSum d (s.leaveAmt d)) then .error ftLeave
                else
                  let s3 := t.dies.foldl (fun s d => (s.reserve d).syncTuse d) s2
                  let h := Config.sha256 ((img.map bytesOfWord).flatten)
                  .ok { s3 with meas1 := Config.sha256 (bytesOfNat 32 s3.meas1.toNat ++ bytesOfNat 32 h.toNat) }

/-- An island that a lane held is zeroed and freed (R178). -/
def State.freeIsl (s : State) (k : Nat) : State :=
  let m := s.misl k
  s.setMisl k { MIsl.init with st := if m.st = .faulted ∨ m.st = .retired then m.st else .free, colmap := m.colmap, spares := m.spares,
                               lastf := m.lastf }

/-- A table taken away: its regions ended, its pages, islands, pins and locks freed (R277, R278). -/
def State.uninstall (s : State) (key : Nat) : State :=
  match tabFind s.tabs key with
  | none => s
  | some t =>
    let s1 := { s with tabs := tabDel s.tabs key }
    let s2 := t.lanes.foldl (fun s x =>
      if x.island then s.freeIsl x.isl
      else x.dies.foldl (fun s d =>
        let r := s.regionOn x.ctx x.handle d
        let s' := (s.discard x.ctx x.handle d).setRegion x.ctx x.handle d
          { (s.discard x.ctx x.handle d).regionOn x.ctx x.handle d with st := .ended, lane := none }
        if r.st = .ready then s'
        else s'.onPages r fun p => { p with st := if p.st = .lent then .lent else .reserved, lctx := x.ctx, lv := true }) s) s1
    let held (e : TlbEnt) : Bool := s2.tabs.any fun o => o.2.pins.any fun r =>
      (match o.2.lanes[r.1]? with
        | some x => x.ctx == e.ctx && x.dies.contains e.die
        | none => false) && decide (r.2.1 ≤ e.va + e.leaf.size - 1) && decide (e.va < r.2.1 + r.2.2)
    let unpin (c : Copy) : Copy := { c with pins := setDel c.pins key }
    let s3 := { s2 with
      ccache := s2.ccache.map unpin
      tlb := s2.tlb.map fun (e : TlbEnt) => { e with locked := e.locked && held e } }
    t.dies.foldl (fun s d => (s.reserve d).syncTuse d) s3.dropStale

/-! ### Lanes: launches, overruns and fallbacks (R280 to R282, R406) -/

/-- KIND of an OVERRUN record (R330). -/
def evOverrun : Nat := 5

/-- An overrun, or what counts as one: the table turns AMBER (R278). -/
def State.turnAmber (s : State) (key l : Nat) : State :=
  s.onTab key fun t => { t with st := .amber, ambers := if t.ambers < 65535 then t.ambers + 1 else t.ambers, lastLane := l,
                                overAt := some s.stc.toNat }

/-- The regions of a lane stopped: the launch ends ABORTED with `code` on every die, and each region is READY. -/
def State.stopLane (s : State) (x : SLane) (code : Nat) : State :=
  x.dies.foldl (fun s d =>
    let r := s.regionOn x.ctx x.handle d
    match r.st with
    | .ready => s.setRegion x.ctx x.handle d { r with compl := { r.compl with state := stAborted, code := code } }
    | .loading =>
      let s1 := s.closeLaunch x.ctx x.handle d stAborted code 0
      (s1.setRegion x.ctx x.handle d { s1.regionOn x.ctx x.handle d with st := .ready, image := [] }).syncPages x.ctx x.handle d
    | .ended => s
    | .free => s
    | _ => s.stopLaunch x.ctx x.handle d stAborted code) s

/-- The copy that a lane loads: its pinned one when its region holds no stale image, else a fresh one (R217). -/
def State.laneImage (s : State) (key die ctx h : Nat) (fresh : Bool) : Except Nat (List Word) × State :=
  match s.ccache.find? fun c => c.die == die && c.ctx == ctx && c.handle == h && c.pins.contains key with
  | some c => if fresh && c.stale then s.lookup die ctx h else (.ok c.image, s)
  | none => s.lookup die ctx h

/-- One die's part of a lane's launch; `wait` cycles pass before its load begins, with the bytes of the first cycle. -/
def State.laneLoad (s : State) (key : Nat) (x : SLane) (die cfg n serial wait : Nat) : Except Nat State :=
  let r0 := s.regionOn x.ctx x.handle die
  let r := { r0 with n := n, serial := serial, compl := Compl.unknown, kill := none, cLoad := 0, cFill := 0, cSteady := 0, cDrain := 0 }
  let here := r.image ≠ [] ∧ r.cfg = cfg
  if here ∧ !r.stale then .ok ((s.setRegion x.ctx x.handle die r).arm x.ctx x.handle die)
  else match s.laneImage key die x.ctx cfg (decide here) with
    | (.error c, _) => .error c
    | (.ok img, s1) =>
      let hd := imgHead img
      let ports := (imgPorts img).getD []
      if r.setw < hd.shw ∨ r.seth < hd.shh then .error ecfgShape
      else if ports.any fun q => q.tgt == 1 then .error ecfgPort
      else
        let r1 := { r with cfg := cfg, image := img, stale := false, shw := hd.shw, shh := hd.shh, period := hd.period, stages := hd.stages,
                           leave := hd.leave, rm := hd.rm, ports := ports, rel := false, isl := none, consts := [], seeds := [] }
        let s2 := (r1.pageList.foldl (fun s n => s.take die n x.ctx x.handle .loading) (s1.setRegion x.ctx x.handle die r1)).startLoad
          x.ctx x.handle die
        .ok (s2.setRegion x.ctx x.handle die { s2.regionOn x.ctx x.handle die with due := s2.cycle + wait + streamCycles img.length + 16 })

/-- A lane's launch on every die of the lane, under one serial: the first code that stops it, with the state so far. -/
def State.laneLaunch (s : State) (key : Nat) (x : SLane) (cfg n wait : Nat) : Option Nat × State :=
  let q := s.nextSerial x.ctx lvLaunch
  x.dies.foldl (fun acc d => match acc.1 with
    | some _ => acc
    | none => match acc.2.laneLoad key x d cfg n q.1 wait with
      | .ok s1 => (none, s1)
      | .error c => (some c, acc.2)) (none, q.2)

/-- The launch of a lane's entry ends ABORTED with `code`: the table turns AMBER, and the fallback follows, 64 cycles later. -/
def State.laneFail (s : State) (key l e code : Nat) : State :=
  match tabFind s.tabs key with
  | none => s
  | some t => match t.lanes[l]?, t.ents[e]? with
    | some x, some ent =>
      let s1 := ((s.stopLane x code).turnAmber key l).onTab key fun t =>
        { (t.onLane l fun x => { x with run := none, fall := none }) with
            phaseBad := some (t.phaseBad.getD code), phaseCount := t.phaseCount + 1 }
      if ent.nofb then s1
      else
        let f := s1.laneLaunch key x ent.fallback 1 64
        match f.1 with
        | none => f.2.onTab key fun t => t.onLane l fun x => { x with fall := some e }
        | some c => (f.2.hostEvent evFault x.ctx c (workId (f.2.regionOn x.ctx x.handle (x.dies.headD 0)).serial x.handle)
            (Word.ofN ent.fallback) (x.dies.headD 0)).stopLane x c
    | _, _ => s

/-- The node map position of a lane's region that is not READY: of the first element that its counter stands at, or 0 (log entry 22). -/
def State.lanePos (s : State) (x : SLane) : Word :=
  match x.dies.find? fun d => (s.regionOn x.ctx x.handle d).st != .ready with
  | none => 0
  | some d => match (s.entries x.ctx x.handle d).head? with
    | none => 0
    | some e => { s with cur := e.1 }.nodeTag

/-- An overrun reported to the Umber core and the host (R281, R408): the node map position, and {lane, entry}. -/
def State.reportOverrun (s : State) (t : STab) (x : SLane) (l e : Nat) : State :=
  let d0 := s.lanePos x
  let d1 := Word.ofN (l * 2 ^ 32 + e)
  let die := (t.dies.head?).getD 0
  (s.hostEvent evOverrun x.ctx 0 d0 d1 die).umberEvent evOverrun x.ctx 0 d0 d1 die

/-- Whether every region of a lane is READY. -/
def State.laneReady (s : State) (x : SLane) : Bool := x.dies.all fun d => (s.regionOn x.ctx x.handle d).st == .ready

/-- The code with which a region of a lane's launch has ended ABORTED. -/
def State.laneBad (s : State) (x : SLane) : Option Nat :=
  x.dies.findSome? fun d =>
    let r := s.regionOn x.ctx x.handle d
    if r.st = .ready ∧ r.compl.state = stAborted ∧ r.compl.serial = r.serial then some r.compl.code else none

/-- A lane seen at the end of a cycle: an entry, or a fallback, that has ended. -/
def State.settleLane (s : State) (key l : Nat) : State :=
  match tabFind s.tabs key with
  | none => s
  | some t => match t.lanes[l]? with
    | none => s
    | some x => match x.run, x.fall with
      | some e, _ => match s.laneBad x with
        | some c => s.laneFail key l e c
        | none => if s.laneReady x then s.onTab key fun t =>
            { (t.onLane l fun x => { x with run := none }) with phaseCount := t.phaseCount + 1 } else s
      | none, some _ => match s.laneBad x with
        | some c => ((s.stopLane x c).turnAmber key l).onTab key fun t => t.onLane l fun x => { x with fall := none }
        | none => if s.laneReady x then s.onTab key fun t => t.onLane l fun x => { x with fall := none } else s
      | none, none => s

/-- The period that has ended closed (R279): its phase is DONE, or ABORTED with the first failing entry's code. -/
def State.closePeriod (s : State) (key : Nat) : State :=
  s.onTab key fun t =>
    if !t.wrapped then t
    else
      let e := endOf false t.phaseBad
      { t with wrapped := false, periods := t.periods + 1, phaseBad := none, phaseCount := 0,
               lastPhase := complWord e.1 e.2 ((t.periods + 1) % 2 ^ 24) (t.periods + 1) }

/-- TABLE_DEADLINE_OVERRUN: at the first cycle of an entry's DEADLINE, a region that is not READY is an overrun. -/
def execTableDeadlineOverrun (die slot entry : Nat) (s : State) : Out :=
  .next (match s.tableOn? die slot with
    | none => s
    | some (key, t) => match t.ents[entry]? with
      | none => s
      | some ent => match t.lanes[ent.lane]? with
        | none => s
        | some x =>
          if !t.runs ∨ x.run ≠ some entry ∨ s.laneReady x then s
          else ((s.reportOverrun t x ent.lane entry).stopLane x ftOverrun).laneFail key ent.lane entry ftOverrun)

/-- FALLBACK_BUDGET_END: a fallback that is not READY at its lane's next START. -/
def execFallbackBudgetEnd (die slot entry : Nat) (s : State) : Out :=
  .next (match s.tableOn? die slot with
    | none => s
    | some (key, t) => match t.ents[entry]? with
      | none => s
      | some ent => match t.lanes[ent.lane]? with
        | none => s
        | some x =>
          if !t.runs ∨ x.fall.isNone then s
          else
            let s1 := if s.laneReady x then s else (s.stopLane x ftOverrun).turnAmber key ent.lane
            s1.onTab key fun t => t.onLane ent.lane fun x => { x with fall := none })

/-! ### Lent pages (R286, R287, R297) -/

/-- The lane's next entry, and the ticks until its START. -/
def STab.nextEntry (t : STab) (l : Nat) : Option (SEnt × Nat) :=
  let mine := t.ents.filter fun e => e.lane == l
  match mine.find? fun e => decide (t.pos < e.start) with
  | some e => some (e, e.start - t.pos)
  | none => mine.head?.map fun e => (e, e.start + t.period - t.pos)

/-- Whether lane `l` of the RUNNING table of `slot` on a die lends `n` pages more. -/
def State.lends (s : State) (die slot l n : Nat) : Bool :=
  match s.tableOn? die slot with
  | none => false
  | some (_, t) => match t.lanes[l]?, t.nextEntry l with
    | some x, some (e, left) =>
      let out := ((List.range 64).filter fun k => (s.page die k).st == .lent && (s.page die k).rsv == some (slot, l)).length
      t.st == .running && x.run.isNone && x.fall.isNone && e.lend && decide (e.lead < left)
        && decide (out + n ≤ (e.lead - 2) * 4 / 3)
    | _, _ => false

/-- The images that lanes' regions hold on lent pages are gone. -/
def State.lentOver (s : State) (die : Nat) : State :=
  { s with regions := s.regions.map fun p =>
      if p.2.lane.isSome && p.2.die == die && p.2.st == .ready && p.2.image ≠ [] && p.2.pageList.any (fun n => (s.page die n).st == .lent)
      then (p.1, { p.2 with image := [] }) else p }

/-- The allocator's act on a die. A saved region's own frame is its room in shadow storage (R297). -/
def State.allocate (s : State) (die : Nat) : State :=
  (s.grant die fun s ctx r =>
    if (if r.st = .saved then 0 else r.setw * r.seth) + s.framesHeld ctx die + s.lentPages ctx die ≤ s.frameQuota ctx
    then s.lendPlace die (s.lends die) r else none).lentOver die

/-- PLACEMENT_GRANT: the allocator of a die takes up one event. -/
def execPlacementGrant (die : Nat) (s : State) : Out := .next (s.allocate die)

/-- The regions that borrow pages of a lane on a die: context and handle. -/
def State.borrowers (s : State) (die slot l : Nat) : List (Nat × Nat) :=
  (s.regions.filter fun p => p.2.die == die && p.2.lane.isNone && p.2.live && p.2.st != .saved
    && (p.2.st != .queued || p.2.was == .ready) && p.2.pageList.any fun n => (s.page die n).st == .lent && (s.page die n).rsv == some (slot, l)).map
    fun p => (p.1 / 4 / 256, p.1 / 4 % 256)

/-- A queue's `QSTAT` written, with the copy in its control block (R314). -/
def State.setQstat (s : State) (q : Nat) (w : Word) : State :=
  let s1 := s.setQField q 0x18 8 w.toNat
  match s1.vStore (s1.qDie q) 2 (s1.qCtx q) ((s1.qField q 8 8).toNat + 0x18) (bytesOfWord w) false with
  | .ok s2 => s2
  | .error _ => s1

/-- The rung a pre-emption reached, in the queue it touched (R287, R333). -/
def State.setRung (s : State) (q n : Nat) : State :=
  if !s.tableOn ∨ 4096 ≤ q then s
  else
    let w := s.qField q 0x18 8
    s.setQstat q (Word.ofN (w.bits 60 4 * 2 ^ 60 + n % 4 * 2 ^ 58 + w.bits 0 58))

/-- Whether the region's quiescence is reported in this cycle. -/
def State.reportsNow (s : State) (ctx h die : Nat) : Bool :=
  let r := s.regionOn ctx h die
  r.st == .draining && (r.quiet.any fun q => decide (q + 16 ≤ s.cycle)) && s.quietNow ctx h die

/-- One borrower taken back: `stage` 0 drains it, 1 saves it, and 2, at the START, saves what can be saved at once and resets the rest;
a READY one ends, one that becomes READY in this cycle is left to (R289), and a load is abandoned (R287). -/
def State.reclaimOne (s : State) (ctx h die stage : Nat) : State :=
  let r := s.regionOn ctx h die
  if stage = 1 ∧ s.reportsNow ctx h die then s
  else match r.st with
  | .ready => (s.setRegion ctx h die { r with rel := true }).restRegion ctx h die
  | .queued => s.abandonLoad ctx h die
  | .loading => s.abandonLoad ctx h die
  | .arming => s.abandonLoad ctx h die
  | _ =>
    if stage = 2 then
      let s1 := s.setRegion ctx h die { r with saving := true, back := true }
      let s2 := if s1.outsideQuiet ctx h die ∧ r.faults = [] ∧ r.kill.isNone then s1.saveRegion ctx h die else s1
      if (s2.regionOn ctx h die).st = .saved then s2.setRung r.queue 2
      else if (s2.regionOn ctx h die).st = .ended then s2.setRung r.queue 3
      else (s2.discardLaunch ctx h die).setRung r.queue 3
    else if stage = 1 ∨ r.st = .halted then
      ((s.setRegion ctx h die { r with saving := true, back := true }).syncPages ctx h die).setRung r.queue 2
    else
      let n := r.admission + 1
      (s.setRegion ctx h die { r with n := if n < r.n then n else r.n }).setRung r.queue 1

/-- The pages that a lane has lent, on every die of it, taken back. -/
def State.reclaim (s : State) (t : STab) (l stage : Nat) : State :=
  match t.lanes[l]? with
  | none => s
  | some x => x.dies.foldl (fun s d => (s.borrowers d t.slot l).foldl (fun s b => s.reclaimOne b.1 b.2 d stage) s) s

/-- LANE_RECLAIM_START: at START − lead, or at the first tick of the lane that comes after it, the lane's borrowers drain, and from the
next tick on those that still run are saved. -/
def execLaneReclaimStart (die slot entry : Nat) (s : State) : Out :=
  .next (match s.tableOn? die slot with
    | none => s
    | some (key, t) => match t.ents[entry]? with
      | none => s
      | some ent => match t.lanes[ent.lane]? with
        | none => s
        | some x =>
          if !t.runs then s
          else (s.onTab key fun t => t.onLane ent.lane fun x => { x with recl := true }).reclaim t ent.lane (bit01 x.recl))

/-- A borrower that becomes READY during a reclaim is released. -/
def State.releaseReady (s : State) : State :=
  s.tabs.foldl (fun (s : State) (e : Nat × STab) => if !e.2.runs then s else
    (List.range e.2.lanes.length).foldl (fun s l => match e.2.lanes[l]?, e.2.nextEntry l with
      | some x, some (ent, left) => if ent.lead < left then s else
        x.dies.foldl (fun s d => (s.borrowers d e.2.slot l).foldl (fun s b =>
          if (s.regionOn b.1 b.2 d).st = .ready then s.reclaimOne b.1 b.2 d 0 else s) s) s
      | _, _ => s) s) s

/-- The lanes of every table that runs, seen at the end of a cycle. -/
def State.settleLanes (s : State) : State :=
  (s.tabs.foldl (fun (s : State) (e : Nat × STab) => if e.2.runs then
    ((List.range e.2.lanes.length).foldl (fun s l => s.settleLane e.1 l) s).closePeriod e.1 else s) s).releaseReady

/-! ### The walk (R278, R280) -/

/-- TABLE_ENTRY_START: at the first cycle of START the lane arms its region or loads it; a self-test entry starts its test. -/
def execTableEntryStart (die slot entry : Nat) (s : State) : Out :=
  .next (match s.tableOn? die slot with
    | none => s
    | some (key, t) =>
      let l := ((t.ents[entry]?).map SEnt.lane).getD 16
      let s0 := (s.closePeriod key).onTab key fun t => t.onLane l fun x => { x with recl := false }
      match tabFind s0.tabs key with
      | none => s0
      | some t => match t.ents[entry]? with
        | none => s0
        | some ent => match t.lanes[ent.lane]? with
          | none => s0
          | some x =>
            if !t.runs ∨ t.pos ≠ ent.start then s0
            else if ent.test then s0.soon (.event (.selfTestStart (x.isl / 16) false (x.isl % 16)))
            else if ent.nocfg then s0
            else match x.broken with
              | some c => s0.onTab key fun t => { t with st := .amber, phaseBad := some (t.phaseBad.getD c), phaseCount := t.phaseCount + 1 }
              | none =>
                let s1 := s0.reclaim t ent.lane 2
                let q := s1.laneLaunch key x ent.cfg ent.trips 0
                match q.1 with
                | none => q.2.onTab key fun t => t.onLane ent.lane fun x => { x with run := some entry }
                | some c =>
                  let d := x.dies.headD 0
                  (q.2.hostEvent evFault x.ctx c (workId (q.2.regionOn x.ctx x.handle d).serial x.handle) (Word.ofN ent.cfg) d).laneFail
                    key ent.lane entry c)

/-- Whether a table's position lies in the lead of entry `e`, the next of its lane. -/
def STab.leads (t : STab) (e : SEnt) : Bool :=
  match t.nextEntry e.lane with
  | some (n, left) => n == e && decide (left ≤ e.lead)
  | none => false

/-- What the entries of a table ask for at its position: mode-change point, starts and reclaims, in this order. -/
def STab.acts (t : STab) : List Act :=
  let d := (t.dies.head?).getD 0
  let es := (List.range t.ents.length).zip t.ents
  (if t.ents.any fun e => e.mcp && e.start == t.pos then [Act.event (.modeChangePoint d t.slot)] else [])
    ++ (es.filter fun p => p.2.start == t.pos).map (fun p => Act.event (.tableEntryStart d t.slot p.1))
    ++ (es.filter fun p => t.leads p.2).map (fun p => Act.event (.laneReclaimStart d t.slot p.1))

/-- The deadlines and the ends of fallback budgets at a table's position. -/
def STab.ends (t : STab) : List Act :=
  let d := (t.dies.head?).getD 0
  let es := (List.range t.ents.length).zip t.ents
  let at_ (n : Nat) : Bool := n == t.pos || (t.wrapped && n == t.period)
  (es.filter fun p => at_ p.2.deadline && !p.2.nocfg).map (fun p => Act.event (.tableDeadlineOverrun d t.slot p.1))
    ++ (es.filter fun p => p.2.start == t.pos && (match t.lanes[p.2.lane]? with
        | some x => x.fall.isSome || x.run.isSome
        | none => false)).map (fun p => Act.event (.fallbackBudgetEnd d t.slot p.1))

/-- A position `n` ticks further. -/
def STab.advance (t : STab) (n : Nat) : STab :=
  { t with pos := (t.pos + n) % t.period, wrapped := t.wrapped || decide (t.period ≤ t.pos + n) }

/-- The job of a table run opened in a free slot of OWNER (R279). -/
def State.openRun (s : State) (t : STab) : STab × State :=
  match freeSlot s.jobs t.owner fun j => j.final.isSome with
  | none => (t, s)
  | some k =>
    let n := s.nextSerial t.owner lvJob
    ({ t with job := some k }, n.2.setJob t.owner k { Job.init with serial := n.1, die := (t.dies.head?).getD 0, kids := 1 })

/-- The alternate of a lane on a die whose pages are all usable, first by ORDER, for a region of `w` × `h` pages. -/
def State.usableAlt (s : State) (t : STab) (l die w h : Nat) : Option Nat :=
  let ok (m : Nat) : Bool := m != 0 && maskHolds m w h && (bitsBelow 64 m).all fun n =>
    !(s.page die n).retp && ((s.page die n).st == .free || ((s.page die n).st == .reserved && (s.page die n).rsv == some (t.slot, l)))
  ([0, 1, 2] : List Nat).findSome? fun o =>
    (t.alts.find? fun a => a.1 == l && a.2.1 == die && a.2.2.1 == o && ok a.2.2.2).map fun a => a.2.2.2

/-- Step 1 for one lane on one die. -/
def State.retireLane (s : State) (key l die : Nat) : State :=
  match tabFind s.tabs key with
  | none => s
  | some t => match t.lanes[l]? with
    | none => s
    | some x =>
      let gone := (bitsBelow 64 (x.mask die)).filter fun n =>
        (s.page die n).st == .retired || ((s.page die n).retp && (s.page die n).st == .reserved)
      if x.island ∨ gone.isEmpty then s
      else
        let r := s.regionOn x.ctx x.handle die
        let alt := s.usableAlt t l die r.setw r.seth
        let s1 := gone.foldl (fun s n => s.setPage die n { s.page die n with st := .retired, rsv := none }) s
        match alt with
        | none => s1.onTab key fun t => { (t.onLane l fun x => { x with broken := some ecfgShape }) with st := .amber }
        | some m =>
          let c := maskCorner m
          ((s1.onTab key fun t => t.onLane l fun x => { x with pages := x.pages.set die m }).setRegion x.ctx x.handle die
            { r with px := c.1, py := c.2, image := [] }).reserve die

/-- Step 1 for every lane of a table. -/
def State.retireLanes (s : State) (key : Nat) : State :=
  match tabFind s.tabs key with
  | none => s
  | some t => (List.range t.lanes.length).foldl (fun s l => t.dies.foldl (fun s d => s.retireLane key l d) s) s

/-- A table begins to run at position 0: a lane whose pages have been retired meanwhile, at a mode-change point of another table, gives
way to an alternate at once (R300). -/
def State.runTable (s : State) (key : Nat) : State :=
  match tabFind s.tabs key with
  | none => s
  | some t =>
    let o := s.openRun t
    let t1 := { o.1 with st := .running, pos := 0, wrapped := false, periods := 0, ambers := 0, overAt := none, ack := false, switch := none,
                         phaseBad := none, phaseCount := 0, lastPhase := 0,
                         lanes := o.1.lanes.map fun (x : SLane) => { x with run := none, fall := none, recl := false } }
    let s1 := (t1.dies.foldl (fun s d => s.reserve d) (o.2.setTab key t1)).retireLanes key
    { s1 with agenda := t1.acts ++ s1.agenda }

/-- TABLE_ARMED_START: STC has reached the tick that an ARMED table waits for. -/
def execTableArmedStart (die slot : Nat) (s : State) : Out :=
  .next (match s.tableOn? die slot with
    | none => s
    | some (key, t) => if t.st = .armed ∧ s.tb.run ∧ t.startAt ≤ s.stc.toNat then s.runTable key else s)

/-- TICK_BOUNDARY: STC and the positions of the running tables advance, but for a hold tick and for the first boundary. -/
def execTickBoundary (s : State) : Out :=
  .next (if s.tb.sentHold then s
    else if s.tb.tick ≤ 1 then
      { s with agenda := (s.tabs.map fun e => Act.event (.tableArmedStart ((e.2.dies.head?).getD 0) e.2.slot)) ++ s.agenda }
    else
      let s1 := { s with
        stc := s.stc + 1
        tabs := s.tabs.map fun (e : Nat × STab) => if e.2.runs then (e.1, e.2.advance 1) else e }
      let one (e : Nat × STab) : List Act :=
        if e.2.st = .armed then [Act.event (.tableArmedStart ((e.2.dies.head?).getD 0) e.2.slot)]
        else if e.2.runs then e.2.ends ++ e.2.acts else []
      { s1 with agenda := (s1.tabs.map one).flatten ++ s1.agenda })

/-! ### Mode-change points (R284, R285, R288) -/

/-- Step 2: the channels whose data has been copied leave the interleave; arbiter records that name one are dropped (R436). -/
def State.remap (s : State) (die : Nat) : State :=
  let w := s.dcsrAt die 0x8720
  let done := w.bits 0 16 &&& (0xFFFF - (w.bits 0 16 &&& w.bits 32 16))
  if done = w.bits 16 16 then s
  else
    let s1 := s.setDcsr die 0x8720 (Word.ofN (w.bits 32 16 * 2 ^ 32 + done * 2 ^ 16 + w.bits 0 16))
    { s1 with tabs := s1.tabs.map fun e => (e.1, { e.2 with arb := e.2.arb.filter fun a => a.2.1 != die || !done.testBit a.2.2.1 }) }

/-- The fallbacks whose budgets end at STARTs that a step of `n` ticks skips (R282): NOCFG entries alone can stand there. -/
def STab.skipped (t : STab) (n : Nat) : List Act :=
  let d := (t.dies.head?).getD 0
  (((List.range t.ents.length).zip t.ents).filter fun p => t.runs && (List.range n).any fun k => (t.pos + k + 1) % t.period == p.2.start).map
    fun p => Act.event (.fallbackBudgetEnd d t.slot p.1)

/-- Step 3: the step of R270. -/
def State.takeStep (s : State) (room : Nat) : State :=
  let b := s.tb
  if b.hold ∨ b.step = 0 then s
  else if 0 < b.step then
    let n := if room < b.step.toNat then room else b.step.toNat
    { s with
      stc := s.stc + BitVec.ofNat 48 n
      tb := { b with step := b.step - n, tick := b.tick + n, stepped := true }
      agenda := (s.tabs.flatMap fun e => e.2.skipped n) ++ s.agenda
      tabs := s.tabs.map fun (e : Nat × STab) => if e.2.runs then (e.1, e.2.advance n) else e }
  else
    let n := if 255 < b.step.natAbs then 255 else b.step.natAbs
    { s with tb := { b with step := b.step + n, holdTicks := b.holdTicks + n, stepped := true } }

/-- A lane's reservation of flit positions on a failed module moved to free positions of the same frame times (R393). -/
def State.movePositions (s : State) (key : Nat) : State :=
  match tabFind s.tabs key with
  | none => s
  | some t =>
    let fix (acc : List Word × List Nat) (k : Nat) : List Word × List Nat :=
      let w := acc.1.getD k 0
      let die := w.bits 27 2
      let l := w.bits 25 2
      let dead := (bitsBelow 16 (w.bits 48 16)).filter fun p => !s.posAlive die l p
      dead.foldl (fun acc p =>
        let w := acc.1.getD k 0
        let taken (q : Nat) : Bool := acc.1.any fun v => v.bits 24 5 == w.bits 24 5 && v.bit (48 + q) && (v.bits 33 15 &&& w.bits 33 15) != 0
        let q := (List.range (linkPositions l)).find? fun q => s.posAlive die l q && !taken q && !(q == 0 && w.bit 33)
        let pos := w.bits 48 16 - 2 ^ p + (match q with
          | some q => 2 ^ q
          | none => 0)
        (acc.1.set k (Word.ofN (pos * 2 ^ 48 + w.bits 0 48)), if q.isSome then acc.2 else acc.2 ++ [w.bits 29 4])) acc
    let r := (List.range t.links.length).foldl fix (t.links, [])
    s.setTab key (r.2.foldl (fun t l => { (t.onLane l fun x => { x with broken := some ftLink }) with st := .amber }) { t with links := r.1 })

/-- A table stops at a mode-change point: its job is DONE, a fallback that still runs ends. -/
def State.stopTable (s : State) (key : Nat) : State :=
  match tabFind s.tabs key with
  | none => s
  | some t =>
    let s1 := t.lanes.foldl (fun s x => if !x.island ∧ (x.run.isSome ∨ x.fall.isSome) then s.stopLane x ftOverrun else s) s
    let cut := complWord stCancelled 0 ((t.periods + 1) % 2 ^ 24) t.periods
    let t1 := { t with st := .installed, lanes := t.lanes.map fun (x : SLane) => { x with run := none, fall := none },
                       lastPhase := if t.pos = 0 then t.lastPhase else cut }
    ((s1.setTab key { t1 with job := none, switch := none, ack := false }).jobEnd t.owner t.job stDone 0)

/-- The pages' contents pass to the lanes of the table that follows: a lane of the same context on the same pages keeps its image. -/
def State.inherit (s : State) (old new : STab) : State :=
  let pairs := (new.lanes.map fun x => old.lanes.map fun o => (x, o)).flatten.filter fun p =>
    !p.1.island && !p.2.island && p.1.ctx == p.2.ctx
  let give (s : State) (p : SLane × SLane) : State := p.1.dies.foldl (fun s d =>
    let r := s.regionOn p.1.ctx p.1.handle d
    let o := s.regionOn p.2.ctx p.2.handle d
    if o.image ≠ [] ∧ o.lane.isSome ∧ (r.px, r.py, r.setw, r.seth) = (o.px, o.py, o.setw, o.seth) then
      s.setRegion p.1.ctx p.1.handle d { r with cfg := o.cfg, image := o.image, stale := o.stale, shw := o.shw, shh := o.shh, period := o.period,
                                                 stages := o.stages, leave := o.leave, rm := o.rm, ports := o.ports, routes := o.routes,
                                                 plans := o.plans }
    else s) s
  let s1 := pairs.foldl give s
  let drop (s : State) (o : SLane) : State := o.dies.foldl (fun s d =>
    if new.lanes.any fun x => !x.island && (x.mask d &&& o.mask d) != 0 then
      s.setRegion o.ctx o.handle d { s.regionOn o.ctx o.handle d with image := [] } else s) s
  (old.lanes.filter fun o => !o.island).foldl drop s1

/-- Steps 4 and 5: the running table of `key` gives way to the one of `other`. -/
def State.switchTo (s : State) (key other : Nat) : State :=
  match tabFind s.tabs key, tabFind s.tabs other with
  | some a, some b => ((s.stopTable key).inherit a b).runTable other
  | _, _ => s

/-- Case temperature of a die in °C (R437). -/
def State.caseTemp (s : State) (die : Nat) : Int := signedBits 8 ((s.dcsrAt die 0x8760).bits 48 8)

/-- Steps 1 to 3 of R284: faulted islands retire and retired pages give way to alternates; copied channels leave the interleave and
reservations on failed positions move; the timebase steps. -/
def State.pointSteps (s : State) (key : Nat) (t : STab) (room : Nat) : State :=
  let retired (p : Nat × MIsl) : Nat × MIsl :=
    if t.dies.contains (p.1 / 16) ∧ p.2.st = .faulted then (p.1, { p.2 with st := .retired }) else p
  let s1 := { s with misls := s.misls.map retired }.retireLanes key
  ((t.dies.foldl (fun s d => s.remap d) s1).movePositions key).takeStep room

/-- MODE_CHANGE_POINT: the acts of R284 in their order. -/
def execModeChangePoint (die slot : Nat) (s : State) : Out :=
  .next (match s.tableOn? die slot with
    | none => s
    | some (key, _) =>
      let s0 := s.closePeriod key
      match tabFind s0.tabs key with
      | none => s0
      | some t => match t.ents.find? fun e => e.mcp && e.start == t.pos with
        | none => s0
        | some m =>
          if !t.runs then s0
          else
            let s2 := s0.pointSteps key t m.stepmax
            let hot := !t.lowpwr && t.dies.any fun d => decide (85 < s2.caseTemp d)
            let low := s2.tabs.find? fun e => e.2.dies == t.dies && e.2.lowpwr && e.2.st == .installed
            match hot, low with
            | true, some (k, _) => s2.switchTo key k
            | _, _ =>
              let s3 := if hot then s2.onTab key fun t => { t with st := .amber } else s2
              let to_ := t.switch.bind fun k => s3.tabs.find? fun e => e.2.slot == k && e.2.dies == t.dies && e.2.st == .installed
              match to_ with
              | some (k, _) => s3.switchTo key k
              | none => s3.onTab key fun t =>
                if t.ack && t.overAt != some s.stc.toNat then
                  let st1 := if t.lanes.any (fun x => x.broken.isSome) then t.st else .running
                  { t with ack := false, switch := none, st := st1 }
                else { t with switch := none })

/-! ### `wtick` (R292) -/

/-- Whether a tick has been reached: at most 2^47 − 1 ticks back. -/
def State.reached (s : State) (target : Nat) : Bool :=
  let d := (target + 2 ^ 48 - s.stc.toNat) % 2 ^ 48
  d == 0 || decide (2 ^ 47 ≤ d)

/-- The wait for a tick: it freezes a timed region where it fires, and holds the instruction alone in a block. -/
def State.waitTick (s : State) (i : Instr) (h : Hd) (d : Dst) (srcs : List Src) (target : State → List Val → Nat) : State :=
  let m := h.place.form
  s.act h srcs 0 (fun _ ops => if anyP ops then some ftPoison else none) (fun s ops => m == .timed && !s.reached (target s ops))
    fun s ops pp =>
      match s.cur.phase with
      | .fire =>
        let t := target s ops
        if m = .timed ∨ s.reached t then s.complete m 1 false (ResW.one d (Val.clean (Word.ofN s.stc.toNat)) 0)
        else
          let s1 := s.tagged
          let s2 := s1.expect m 1 1
          let who := s2.carry .perform (keepAt ops t) pp 0
          { s2 with reqs := s2.reqs ++ [{ at_ := s.cycle + 1, place := .unit 3, who := who, i := i, store := false, seq := 0 }] }
      | _ => if !s.reached (keptAt ops) then s.hold
        else
          let r := ResW.one d (Val.clean (Word.ofN s.stc.toNat)) 0
          { s with replies := s.replies ++ [{ at_ := s.cycle, tile := s.curTile, who := s.cur, form := m, wrs := r.writes, dsts := r.dsts,
                                              latch := r.latch }] }

def execWtick (h : Hd) (d : Dst) (a : Src) (imm : BitVec 16) (s : State) : Out :=
  .next (s.waitTick (.wtick h d a imm) h d [a] fun _ ops => wrapInt 48 (((opn ops 0).v.toNat : Int) + imm.toInt))

/-- `wtick.rel`: STC in the firing cycle, which in a frozen region is the one when the cycle was first tried. -/
def execWtickRel (h : Hd) (d : Dst) (imm : BitVec 16) (s : State) : Out :=
  .next (s.waitTick (.wtickRel h d imm) h d [] fun s _ =>
    ((match h.place.form with
      | .timed => if s.curRegion.frozen then s.curRegion.firstStc else s.stc.toNat
      | .block => s.stc.toNat) + imm.toNat) % 2 ^ 48)

/-! ### `powq`, `powrl` (R293) -/

/-- The class and the physical die of an operand. -/
def powClass (a : Word) : Nat := a.bits 0 4

def State.powDie (s : State) (a : Word) : Nat := s.physDie s.cur.ctx (a.bits 4 2)

def powCheck (ops : List Val) : Option Nat :=
  let a := opn ops 0
  if a.v.bits 6 58 ≠ 0 then some ftAddr else if a.p then some ftPoison else none

/-- Whether requests for a grant on a die stand before one that waits, of a priority and a cycle, or, for one that does not wait,
whether any waits: grants that restored contexts ask for again, launches, and `powq.wait` (R291, R293; log entry 93). -/
def State.powWaits (s : State) (die : Nat) (self : Option (Nat × Nat)) : Bool :=
  let before (prio at_ : Nat) : Bool := match self with
    | none => true
    | some p => decide (prio < p.1 ∨ (prio = p.1 ∧ at_ < p.2))
  s.owedOn die || (s.leaveHead die).any (fun e => before e.2.2.prio e.2.2.due)
    || (s.powReqs die).any fun r => before (s.prioOf r.who) r.born

/-- What the governor answers: 0 granted, 1 not now, 2 never. `at_` is the cycle in which a request that waits was made. -/
def State.governor (s : State) (a : Word) (at_ : Option Nat) : Nat × State :=
  let c := powClass a
  let self := at_.map fun t => (s.prioOf s.cur, t)
  let die := s.powDie a
  let amt := s.leaveAmt die c
  if c = 0 then (0, s)
  else if s.seeded die < amt then (2, s)
  else if s.seeded die < s.suse die + amt ∨ s.powWaits die self then (1, s)
  else (0, { s.setSuse die (s.suse die + amt) with grants := s.grants ++ [(s.cur.ctx, die, c)] })

def execPowq (h : Hd) (d : Dst) (a : Src) (s : State) : Out :=
  .next (s.sendF (.powq h d a) h [a] 1 false (fun _ ops => powCheck ops) (fun _ _ => false) (fun s ops pp =>
    let r := s.governor (opn ops 0).v none
    r.2.sendResult h.place.form (ResW.one d { v := Word.ofN r.1, p := pp } 0))
    fun s ops => if s.powDie (opn ops 0).v = s.cur.die then 8 else 64)

/-- `powq.wait`: the region stands still until the grant can be made; the request keeps the cycle in which it was made. -/
def execPowqWait (h : Hd) (d : Dst) (a : Src) (s : State) : Out :=
  let m := h.place.form
  .next (s.act h [a] 1 (fun _ ops => powCheck ops) (fun _ _ => false) fun s ops pp =>
    let fire := s.cur.phase == .fire
    let s1 := if fire then s.tagged else s
    let r := s1.governor (opn ops 0).v (some (if fire then s.cycle else s.cur.dist))
    if r.1 = 2 then s.raise m ftLeave
    else
      let lat := if s.powDie (opn ops 0).v = s.cur.die then 8 else 64
      let s2 := if fire then r.2.expect m lat 1 else r.2
      if r.1 = 0 then { s2 with cur := s2.carry .perform ops pp 0 }.queryResult m d { v := 0, p := pp }
      else if fire then
        { s2 with reqs := s2.reqs ++ [{ at_ := s.cycle + 1, place := .unit 2, who := s2.carry .perform ops pp s.cycle, i := .powqWait h d a,
                                        store := false, seq := 0, born := s.cycle }] }
      else s.hold)

/-- One grant of a context released. -/
def State.powRelease (s : State) (ctx die c : Nat) : State :=
  { s.setSuse die (s.suse die - s.leaveAmt die c) with grants := s.grants.erase (ctx, die, c) }

def execPowrl (h : Hd) (a : Src) (s : State) : Out :=
  let m := h.place.form
  .next (s.send (.powrl h a) h [a] 0 false (fun _ ops => powCheck ops) (fun _ _ => false) (fun s ops _ =>
    let c := powClass (opn ops 0).v
    let die := s.powDie (opn ops 0).v
    if s.grants.contains (s.cur.ctx, die, c) then s.powRelease s.cur.ctx die c else s.raise m ftLeave) 1)

end Sys2Proof.Machine
end

