-- ==== Sys2Proof/Machine/Queues.lean ====
section
/-! DEFINITION. Queues: descriptors and states, `QCTL`, hardware queue slots, waits, publication and stalls (R312 to R323, R328,
R329, R335, R337). -/

namespace Sys2Proof.Machine

/-! ### States and indexes (R313 to R316) -/

def qsReady : Nat := 1
def qsWaiting : Nat := 2
def qsDemoted : Nat := 3
def qsPaused : Nat := 4
def qsBlocked : Nat := 5
def qsError : Nat := 6
def qsSaved : Nat := 7

def State.qRun (s : State) (q : Nat) : QRun := tabGet QRun.init s.queues q

def State.setQRun (s : State) (q : Nat) (r : QRun) : State := { s with queues := tabPut s.queues q r }

def State.onQueue (s : State) (q : Nat) (f : QRun → QRun) : State := s.setQRun q (f (s.qRun q))

def State.qStat (s : State) (q : Nat) : Word := s.qField q 0x18 8

/-- STATE of a queue: what its descriptor holds; a queue that is not enabled is DISABLED whatever stands there. -/
def State.qState (s : State) (q : Nat) : Nat := if (tabFind s.queues q).isSome then (s.qStat q).bits 60 4 else 0

/-- Whether it holds a hardware queue slot. -/
def State.resident (s : State) (q : Nat) : Bool := (tabFind s.queues q).isSome && (s.qStat q).bit 57

/-- `QSTAT` from its fields. -/
def qstatWord (st rung : Nat) (res wt : Bool) (err code : Nat) : Word :=
  Word.ofN (st * 2 ^ 60 + rung * 2 ^ 58 + (if res then 2 ^ 57 else 0) + (if wt then 2 ^ 56 else 0) + err * 2 ^ 48 + code * 2 ^ 40)

/-- A new STATE, RES and error; RUNG stays, and WT shows the pending wait. -/
def State.putQ (s : State) (q st : Nat) (res : Bool) (err code : Nat) : State :=
  s.setQstat q (qstatWord st ((s.qStat q).bits 58 2) res (s.qRun q).wait.isSome err code)

/-- A new STATE with everything else as it was. -/
def State.toState (s : State) (q st : Nat) : State :=
  s.putQ q st ((s.qStat q).bit 57) ((s.qStat q).bits 48 8) ((s.qStat q).bits 40 8)

def State.qRdx (s : State) (q : Nat) : Nat := (s.qField q 0x20 8).toNat

/-- RDX, and its copy in the control block. -/
def State.setRdx (s : State) (q n : Nat) : State :=
  let s1 := s.setQField q 0x20 8 n
  match s1.vStore (s1.qDie q) 2 (s1.qCtx q) ((s1.qField q 8 8).toNat + 8) (bytesOfNat 8 n) false with
  | .ok s2 => s2
  | .error _ => s1

/-- RSV, the index that producers have reserved up to. -/
def State.qRsv (s : State) (q : Nat) : Nat :=
  match (s.feLoad (s.qDie q) (s.qCtx q) (s.qField q 8 8).toNat 8).1 with
  | .ok v => v.v.toNat
  | .error _ => 0

def State.qSize (s : State) (q : Nat) : Nat := 2 ^ (s.qField q 0x10 1).toNat

/-- S0 to S31. -/
def State.qShadow (s : State) (q : Nat) : List Word := (List.range 32).map fun k => s.qField q (0x100 + 8 * k) 8

def State.setShadow (s : State) (q : Nat) (l : List Word) : State :=
  (List.range 32).foldl (fun s k => s.setQField q (0x100 + 8 * k) 8 (l.getD k 0).toNat) s

/-! ### The packet at RDX (R322, R323) -/

/-- The eight words of the slot of index RDX when it is published, `none` when it is not; or the code and the header with which it
cannot be read. -/
def State.qPeek (s : State) (q : Nat) : Except (Nat × Word) (Option (List Word)) × State :=
  let i := s.qRdx q
  let va := (s.qField q 0 8).toNat + 64 * (i % s.qSize q)
  match s.xlate (s.qDie q) 2 (s.qCtx q) va false with
  | (.error _, s1) => (.error (ftPage, 0), s1)
  | (.ok pa, s1) =>
    let h := s1.dLoad pa 8
    let ws := (List.range 8).map fun k => s1.dLoad (pa + 8 * k) 8
    let s1 := s1.correct spD pa 64
    if h.p then (.error (ftPoison, h.v), s1)
    else if h.v.bit 16 == (i / s1.qSize q % 2 == 1) then (.ok none, s1)
    else if ws.any (fun v => v.p) then (.error (ftPoison, h.v), s1)
    else (.ok (some (ws.map fun v => v.v)), s1)

/-- Whether the front end finds something to do at RDX: a packet, or a slot it cannot read. -/
def State.published (s : State) (q : Nat) : Bool :=
  match (s.qPeek q).1 with
  | .ok none => false
  | _ => true

/-! ### Errors (R328, R331) -/

/-- A queue stops with an error: ERRHDR, ERR and CODE; the QERROR event is written, or holds the queue in EVENT_BLOCKED. A stopped
queue keeps its slot: R444's ERROR row reads RES 1. -/
def State.queueError (s : State) (q err code : Nat) (hdr : Word) (index : Nat) : State :=
  let full := decide (4 ≤ (s.pkgCsr 0x8900).bits 0 4) && (!s.ringRoom || !s.hostRing.isEmpty)
  let s1 := (s.setQField q 0x30 8 hdr.toNat).onQueue q fun r =>
    { r with wait := none, pub := none, blocked := full, stopAt := s.qRdx q, deficit := 0 }
  let s2 := s1.putQ q (if full then qsBlocked else qsError) ((s.qStat q).bit 57) err code
  s2.sendEvent { kind := 2, code := 0x30 + err, queue := q, ctx := s.qCtx q, die := s.qDie q, tag := Word.ofN (hdr.bits 32 32),
                 data0 := hdr, data1 := Word.ofN index }

/-- An EVENT_BLOCKED queue whose event has been written enters ERROR. -/
def State.unblock (s : State) (q : Nat) : State :=
  if (s.qRun q).blocked ∧ !(s.hostRing.any fun e => e.kind == 2 && e.queue == q) then
    (if s.qState q = qsSaved then s.onQueue q fun r => { r with blocked := false, before := qsError }
     else (s.onQueue q fun r => { r with blocked := false }).toState q qsError)
  else s

/-! ### The end of a packet (R324, R325) -/

/-- The completion word of a packet without a job (log entry 27). -/
def plainDone : Word := complWord stDone 0 0 0

/-- A packet whose object is terminal: its completion signal, and the COMPLETE event it asks for. -/
def State.packetDone (s : State) (q : Nat) (hdr csig w : Word) (index : Nat) : State :=
  let s1 := if csig = 0 then s else match s.vStore (s.qDie q) 2 (s.qCtx q) csig.toNat (bytesOfWord w) false with
    | .ok s' => s'
    | .error _ => s
  if hdr.bit 19 then
    s1.sendEvent { kind := 1, code := 0, queue := q, ctx := s.qCtx q, die := s.qDie q, tag := Word.ofN (hdr.bits 32 32), data0 := w,
                   data1 := Word.ofN index }
  else s1

/-- Jobs that a queue has opened and that have not ended. -/
def State.openJobs (s : State) (q : Nat) : List Nat :=
  (s.jobs.filter fun j => j.1 / 1024 == s.qCtx q && j.2.queue == q && j.2.final.isNone).map fun j => j.1 % 1024

/-! ### Waits (R326) -/

/-- Whether a wait's condition holds, or the CODE of the error it meets. -/
def State.waitHolds (s : State) (q : Nat) (w : QWait) : Except Nat Bool :=
  let ctx := s.qCtx q
  match w.kind with
  | 0 => match counterIdx w.target with
    | none => .error 0
    | some k =>
      let c := s.counter (counterKey ctx k)
      if c.v < w.n.toNat then .ok false else if markAt c w.n.toNat then .error ftPoison else .ok true
  | 1 => match (s.feLoad (s.qDie q) ctx w.target.toNat 8).1 with
    | .error _ => .error ftPage
    | .ok v => if v.p then .error ftPoison else .ok (decide (w.n.toNat ≤ v.v.toNat))
  | _ => .ok (decide (5 ≤ (s.workWord (s.qDie q) ctx w.level w.target).bits 60 4))

/-- Whether a pending wait has something to do: its condition holds, or fails with an error. -/
def State.waitOver (s : State) (q : Nat) : Bool :=
  match (s.qRun q).wait with
  | none => false
  | some w => match s.waitHolds q w with
    | .ok b => b
    | .error _ => true

/-- WAIT_CONDITION_MET: a resident WAITING queue goes on; a poisoned counter or word stops it behind its WAIT packet. -/
def execWaitConditionMet (q : Nat) (s : State) : Out :=
  .next (match (s.qRun q).wait with
    | none => s
    | some w =>
      if s.qState q ≠ qsWaiting ∨ !s.resident q then s
      else match s.waitHolds q w with
        | .error c => s.queueError q 4 c w.hdr (s.qRdx q - 1)
        | .ok false => s
        | .ok true =>
          (((s.onQueue q fun r => { r with wait := none, idle := s.cycle }).toState q qsReady)).packetDone q w.hdr 0 plainDone
            (s.qRdx q - 1))

/-! ### Hardware slots (R321, R337) -/

/-- Queues of a die that hold a slot. -/
def State.residents (s : State) (die : Nat) : List Nat :=
  (s.queues.filter fun e => s.qDie e.1 == die && s.resident e.1).map Prod.fst

/-- Whether a queue without a slot asks for one. -/
def State.asks (s : State) (q : Nat) : Bool :=
  let st := s.qState q
  !s.resident q && (if st = qsReady then s.published q else if st = qsDemoted then (s.qRun q).ask
    else if st = qsWaiting then s.waitOver q else false)

/-- RESLIM in cycles. -/
def State.resLimit (s : State) (q : Nat) : Nat :=
  let n := (s.qField q 0x2C 4).toNat
  1000 * (if n = 0 then 10 else n)

/-- Whether a resident queue may be demoted: WAITING with its condition false, or long without a published packet. -/
def State.idleQueue (s : State) (q : Nat) : Bool :=
  (s.qState q == qsWaiting && !s.waitOver q)
    || (s.qState q == qsReady && !s.published q && decide ((s.qRun q).idle + s.resLimit q < s.cycle))

/-- The queue of a die to demote: the longest idle. -/
def State.toDemote (s : State) (die : Nat) : Option Nat :=
  ((s.residents die).filter s.idleQueue).foldl (fun (acc : Option Nat) q => match acc with
    | none => some q
    | some a => if (s.qRun q).idle < (s.qRun a).idle then some q else acc) none

/-- FES written to the descriptor: the spec gives its 200 bytes no layout, so they are free values (log entry 23). -/
def State.writeFes (s : State) (q : Nat) : State :=
  { s with free := s.free + 25 }.dStore (s.descAt q + 0x38) ((List.range 25).flatMap fun k => bytesOfWord (Config.freeWord (s.free + k))) false

/-- A resident queue gives its slot up: FES and QSTAT are written, RDX and SHADOW stand in the descriptor already. -/
def State.demote (s : State) (q : Nat) : State :=
  ((s.writeFes q).onQueue q fun r => { r with ask := false, out := s.cycle, checkAt := s.cycle + 10000 }).putQ q qsDemoted false ((s.qStat q).bits 48 8)
    ((s.qStat q).bits 40 8)

/-- A slot granted. -/
def State.giveSlot (s : State) (q : Nat) : State :=
  let st := if s.qState q = qsDemoted then (if (s.qRun q).wait.isSome then qsWaiting else qsReady) else s.qState q
  (s.onQueue q fun r => { r with ask := false }).putQ q st true ((s.qStat q).bits 48 8) ((s.qStat q).bits 40 8)

/-- QUEUE_SLOT_GRANT: a free slot at once, else the slot of a queue that is demoted. -/
def execQueueSlotGrant (q : Nat) (s : State) : Out :=
  .next (if !s.asks q then s
    else if (s.residents (s.qDie q)).length < 64 then s.giveSlot q
    else match s.toDemote (s.qDie q) with
      | some v => (s.demote v).giveSlot q
      | none => s)

/-- Requests for a slot of a die, in the order in which they are served. -/
def State.nextAsking (s : State) (die : Nat) : Option Nat :=
  ((s.queues.filter fun e => s.qDie e.1 == die && s.asks e.1).map Prod.fst).foldl (fun (acc : Option Nat) q => match acc with
    | none => some q
    | some a => if s.qPrio q < s.qPrio a ∨ (s.qPrio q = s.qPrio a ∧ (s.qRun q).out < (s.qRun a).out) then some q else acc) none

/-- The check of a demoted queue: its wait, or its next slot. -/
def State.demotedCheck (s : State) (q : Nat) : State :=
  if s.qState q ≠ qsDemoted then s
  else
    let up := if (s.qRun q).wait.isSome then s.waitOver q else s.published q
    s.onQueue q fun r => { r with ask := r.ask || up, checkAt := s.cycle + 10000 }

/-- DEMOTED_QUEUE_CHECK: every 10 µs. -/
def execDemotedQueueCheck (q : Nat) (s : State) : Out := .next (s.demotedCheck q)

/-! ### Publication (R323, R337) -/

/-- PUBLICATION_TIMEOUT: a reserved slot that stays unpublished for PUBTO. A header that is visible by now is dispatched. -/
def execPublicationTimeout (q : Nat) (s : State) : Out :=
  let to_ := (s.qField q 0x28 4).toNat
  .next (match (s.qRun q).pub with
    | none => s
    | some t =>
      if s.qState q ≠ qsReady ∨ to_ = 0 ∨ s.cycle < t + 1000 * to_ ∨ s.published q then s
      else
        let va := (s.qField q 0 8).toNat + 64 * (s.qRdx q % s.qSize q)
        let hdr : Word := match (s.feLoad (s.qDie q) (s.qCtx q) va 8).1 with
          | .ok v => v.v
          | .error _ => 0
        s.queueError q 2 0 hdr (s.qRdx q))

/-- What the front end notes of a queue in each cycle. -/
def State.watchQueue (s : State) (q : Nat) : State :=
  let s1 := s.unblock q
  if s1.qState q ≠ qsReady then s1.onQueue q fun r => { r with visit := false }
  else if s1.published q then s1.onQueue q fun r => { r with idle := s1.cycle, pub := none, visit := r.visit && s1.resident q }
  else
    let waits := (s1.qField q 0x28 4).toNat ≠ 0 ∧ s1.qRdx q < s1.qRsv q
    s1.onQueue q fun r => { r with deficit := 0, visit := false, pub := if waits then some (r.pub.getD s1.cycle) else none }

/-! ### `QCTL` (R316, R317, R329) -/

/-- Whether a field of a descriptor is out of range. -/
def State.descBad (s : State) (q : Nat) : Bool :=
  let f (off n : Nat) : Nat := (s.qField q off n).toNat
  f 0 8 % 64 != 0 || decide (2 ^ 48 ≤ f 0 8) || f 8 8 % 64 != 0 || decide (2 ^ 48 ≤ f 8 8) || decide (f 0x10 1 < 2 ∨ 16 < f 0x10 1)
    || decide (63 < f 0x11 1) || decide (3 < f 0x12 1) || decide (f 0x13 1 < 2 ∨ 4 < f 0x13 1) || decide (3 < f 0x15 1) || f 0x16 2 != 0

/-- QCTL_ENABLE. -/
def execQctlEnable (q : Nat) (s : State) : Out :=
  .next (if !s.tableOn ∨ 4096 ≤ q ∨ (tabFind s.queues q).isSome then s
    else
      let ver := (s.qField q 0x14 1).toNat
      if ver = 0 then s.setQstat q (qstatWord 0 0 false false 5 0)
      else if s.descBad q then s.setQstat q (qstatWord 0 0 false false 4 0)
      else
        let s1 := s.setQField q 0x14 1 (if ver < 2 then ver else 2)
        let s2 := s1.dStore (s1.descAt q + 0x38) (List.replicate 456 0) false
        let s3 := s2.setQRun q { QRun.init with idle := s.cycle, out := s.cycle }
        (s3.setQstat q (qstatWord qsReady 0 false false 0 0)).setRdx q 0)

/-- A queue DISABLED: packets not yet dispatched are dropped with it. -/
def State.disable (s : State) (q : Nat) : State :=
  if (tabFind s.queues q).isNone then s
  else
    let w := s.qStat q
    { s with queues := tabDel s.queues q }.setQstat q (qstatWord 0 (w.bits 58 2) false false (w.bits 48 8) (w.bits 40 8))

/-- QCTL_DISABLE: a dispatch of its cycle is made first (R337). -/
def execQctlDisable (q : Nat) (s : State) : Out :=
  .next (if s.agenda.any Act.isStage then s.later (.event (.qctlDisable q)) else s.disable q)

/-- QCTL_RESTART: from an index between the one that stopped and RSV, whoever writes it (R329). -/
def execQctlRestart (q : Nat) (clrsh _host : Bool) (s : State) : Out :=
  let i := s.qRdx q
  let r := s.qRun q
  .next (if s.qState q ≠ qsError ∨ i < r.stopAt ∨ (s.qRsv q < i ∧ i ≠ r.stopAt) then s
    else
      let s1 := if clrsh then s.setShadow q [] else s
      let s2 := s1.onQueue q fun r => { r with idle := s.cycle, out := s.cycle, pub := none, retry := 0 }
      (s2.putQ q qsReady ((s.qStat q).bit 57) 0 0).setRdx q i)

def execQctlResume (q : Nat) (s : State) : Out :=
  .next (if s.qState q ≠ qsPaused then s
    else (s.onQueue q fun r => { r with idle := s.cycle, out := s.cycle }).toState q qsReady)

def execQctlDoorbell (q : Nat) (s : State) : Out := .next (s.demotedCheck q)

/-! ### Stalls (R335) -/

/-- Whether an engine holds a command of a context. -/
def State.commandsOut (s : State) (ctx : Nat) : Bool :=
  s.sisls.any (fun e => e.2.cmds.any fun c => c.ctx == ctx && !c.done)
    || s.misls.any (fun e => e.2.queue.any fun c => c.ctx == ctx)
    || s.ccs.any fun e => e.2.any fun c => c.ctx == ctx

/-- Whether a queue waits, or has nothing to dispatch. -/
def State.queueStill (s : State) (q : Nat) : Bool :=
  let st := s.qState q
  if st = qsWaiting then !s.waitOver q
  else if st = qsDemoted ∧ (s.qRun q).wait.isSome then !s.waitOver q
  else !s.published q

/-- Whether R335's conditions hold of a context: what its waits name is its own (log entry 28). -/
def State.stalled (s : State) (ctx : Nat) : Bool :=
  let qs := (s.queues.filter fun e => s.qCtx e.1 == ctx).map Prod.fst
  qs.any (fun q => (s.qRun q).wait.isSome && (s.qState q == qsWaiting || s.qState q == qsDemoted)) && qs.all s.queueStill
    && qs.all (fun q => !(s.qField q 0x15 1).bit 1)
    && s.regions.all (fun p => p.1 / 4 / 256 != ctx || !p.2.live || p.2.st == .ready || p.2.st == .queued || p.2.st == .halted
      || p.2.st == .saved || p.2.frozen)
    && s.tasks.all (fun p => p.2.ctx != ctx || p.2.st != .running || p.2.stuck)
    && !s.commandsOut ctx && s.frecs.all (fun r => r.2.ctx != ctx) && s.fwait.all (fun m => m.ctx != ctx)
    && s.tabs.all fun (e : Nat × STab) => e.2.lanes.all fun x => x.ctx != ctx

/-- STALL_DETECTED: after 1 ms the WAITING queues stop, and what waits ends. -/
def execStallDetected (ctx : Nat) (s : State) : Out :=
  .next (match tabFind s.stalls ctx with
    | none => s
    | some t =>
      if s.cycle < t + 1000000 ∨ !s.stalled ctx then s
      else
        let qs := (s.queues.filter fun e => s.qCtx e.1 == ctx).map Prod.fst
        let stop (s : State) (q : Nat) : State := match (s.qRun q).wait with
          | some w => s.queueError q 3 0 w.hdr (s.qRdx q - 1)
          | none => s
        let s1 := qs.foldl stop { s with stalls := tabDel s.stalls ctx }
        let s2 := (s1.regions.filter fun p => p.1 / 4 / 256 == ctx && p.2.live && p.2.frozen).foldl
          (fun s p => s.stopLaunch ctx (p.1 / 4 % 256) p.2.die stAborted qerrStall) s1
        (s2.tasks.filter fun p => p.2.ctx == ctx && ((p.2.st == .waiting && p.2.waitCard.isSome) || (p.2.st == .running && p.2.stuck))).foldl
          (fun s p => s.abortTask p.1 qerrStall) s2)

end Sys2Proof.Machine
end

