-- ==== Sys2Proof/Machine/Debug.lean ====
section
/-! DEFINITION. Debug sessions and the state a debugger reads and writes, latency histograms, capture and `trace` (R336, R344,
R345, R352, R416 to R424). -/

namespace Sys2Proof.Machine

/-! ### Objects as bytes with poison (R417) -/

abbrev Obj := List (Byte × Bool)

def zeros (n : Nat) : Obj := List.replicate n (0, false)

/-- A number in `n` bytes without poison. -/
def numObj (n v : Nat) : Obj := cleanBytes (bytesOfNat n v)

def valObj (v : Val) : Obj := valBytes v 8

/-- The value of the bytes of an object from `off` on, at most eight. -/
def objVal (o : Obj) (off n : Nat) : Val := bytesVal ((o.drop off).take n)

def objNum (o : Obj) (off n : Nat) : Nat := ((o.drop off).take n).foldr (fun b acc => b.1.toNat + 256 * acc) 0

/-- An object with `bs` written over its bytes from `off` on. -/
def splice (o : Obj) (off : Nat) (bs : Obj) : Obj := o.take off ++ bs ++ o.drop (off + bs.length)

/-- Whether a write of `n` bytes at `off` touches the `len` bytes at `at_`. -/
def touches (off n at_ len : Nat) : Bool := decide (at_ < off + n) && decide (off < at_ + len)

/-! ### Switches (R344, R345) -/

/-- The switch that output N, E, S or W of a tile feeds, and the source port there (R75). -/
def outFeeds (tile k : Nat) : Option (Nat × Nat) :=
  match k with
  | 0 => if tileY tile = 0 then none else some (tile - 32, 2)
  | 1 => if tileX tile = 31 then none else some (tile + 1, 3)
  | 2 => if tileY tile = 31 then none else some (tile + 32, 0)
  | _ => if tileX tile = 0 then none else some (tile - 1, 1)

/-- The beat that stands in output `k` of a tile's switch: N, E, S, W, then local 0 to 7. -/
def State.switchBeat (s : State) (r : Region) (tile k : Nat) : Option Beat :=
  if k < 4 then match outFeeds tile k with
    | none => none
    | some (t, p) => (r.flights.find? fun f => f.tile == t && f.src == p).map fun f => f.b
  else tabFind s.routesIn (8 * tile + (k - 4))

def beatObj (b : Option Beat) : Obj :=
  match b with
  | none => zeros 16
  | some b => valObj b.v ++ [(b.sb, false)] ++ numObj 7 (2 + if b.v.p then 1 else 0)

def State.switchObj (s : State) (r : Region) (tile : Nat) : Obj := ((List.range 12).map fun k => beatObj (s.switchBeat r tile k)).flatten

/-- A beat written into output `k` of a tile's switch of region `handle`. -/
def State.putSwitch (s : State) (ctx h die tile k : Nat) (o : Obj) : State :=
  let w := objNum o 9 1
  let v := objVal o 0 8
  let b : Option Beat := if w / 2 % 2 = 1 then some { v := { v := v.v, p := v.p || w % 2 == 1 }, sb := BitVec.ofNat 8 (objNum o 8 1) } else none
  if k < 4 then match outFeeds tile k with
    | none => s
    | some (t, p) =>
      let r := s.regionOn ctx h die
      let rest := r.flights.filter fun f => !(f.tile == t && f.src == p)
      s.setRegion ctx h die { r with flights := rest ++ (match b with
        | some b => [{ tile := t, src := p, b := b }]
        | none => []) }
  else
    let key := 8 * tile + (k - 4)
    { s with routesIn := match b with
        | some b => tabPut s.routesIn key b
        | none => tabDel s.routesIn key }

/-- Every switch output of the record that a write touches; the switch stands at `at_`. -/
def State.putSwitches (s : State) (ctx h die tile at_ off n : Nat) (o : Obj) : State :=
  (List.range 12).foldl (fun s k => if touches off n (at_ + 16 * k) 16 then s.putSwitch ctx h die tile k (o.drop (at_ + 16 * k)) else s) s

/-! ### The compute-tile record (R344) -/

/-- A result of a PE's own pipelines that is still pending: its due cycle, value, D, and whether D is a predicate. -/
structure PendEnt where
  due : Nat
  v : Val
  d : Nat
  isPred : Bool
deriving DecidableEq, Repr

def ownPend (p : Pend) (tile pe : Nat) : Bool := p.tile == tile && p.pe == pe && p.fixed && !p.ext

/-- The destination code and value of a write to a row or a route output. -/
def Wr.toDst : Wr → Option (Val × Nat)
  | .row e v => some (v, e)
  | .out n b => some (b.v, 192 + n)
  | _ => none

/-- The pending completions of a PE; a result that writes the latch alone has D = `l`. -/
def pendEnts (r : Region) (tile pe : Nat) : List PendEnt :=
  let ps := r.pend.filter fun p => ownPend p tile pe && p.div.isNone
  ps.filterMap fun p => match p.wr with
    | .pred q v pois => some { due := p.due, v := { v := if v then 1 else 0, p := pois }, d := q, isPred := true }
    | .latch v => if ps.any fun q => q.due == p.due && q.wr.toDst.isSome then none
        else some { due := p.due, v := v, d := 200, isPred := false }
    | w => w.toDst.map fun x => { due := p.due, v := x.1, d := x.2, isPred := false }

def pendObj (t : Nat) (e : Option PendEnt) : Obj :=
  match e with
  | none => zeros 10
  | some e => valObj e.v ++ numObj 1 e.d
      ++ numObj 1 ((e.due + 1 - t) % 16 + (if e.v.p then 16 else 0) + 32 + (if e.isPred then 64 else 0))

/-- The divide under way: cycles left, D, OP - 0x0A, poison and the operands. -/
def divOf (r : Region) (tile pe : Nat) : Option (Nat × Nat × Nat × Bool × Val × Val) :=
  let ps := r.pend.filter fun p => ownPend p tile pe && p.div.isSome
  match ps with
  | [] => none
  | p :: _ => match p.div with
    | none => none
    | some (op, a, b) =>
      let d := (ps.findSome? fun q => q.wr.toDst).map Prod.snd
      let pois := ps.any fun q => match q.wr with
        | .latch v => v.p
        | _ => false
      some (p.due + 1 - r.t, d.getD 200, op, pois, a, b)

def flagNo (b : Bool) (k : Nat) : Nat := if b then 2 ^ k else 0

/-- The record of one PE: 176 bytes. -/
def State.peObj (s : State) (r : Region) (tile pe : Nat) : Obj :=
  let p := s.pe (tile * 16 + pe)
  let dv := divOf r tile pe
  let w : Nat := p.pred.toNat + p.ppois.toNat * 2 ^ 8 + p.flags.toNat * 2 ^ 16 + flagNo p.latch.p 24
    + (List.range 4).foldl (fun n j => n + flagNo (p.k.getD j Val.zero).p (25 + j)) 0
    + (match dv with
      | none => 0
      | some (left, d, op, pois, _, _) => left % 32 * 2 ^ 29 + d * 2 ^ 34 + op * 2 ^ 42 + flagNo pois 44)
  let ops : Obj := match dv with
    | none => zeros 16
    | some (_, _, _, _, a, b) => valObj a ++ valObj b
  let ents := pendEnts r tile pe
  valObj p.latch ++ ((List.range 4).map fun j => valObj (p.k.getD j Val.zero)).flatten ++ numObj 8 w ++ ops
    ++ ((List.range 11).map fun j => pendObj r.t ents[j]?).flatten ++ zeros 2

/-- The record of a compute tile: 0x11E0 bytes. -/
def State.computeObj (s : State) (r : Region) (tile : Nat) : Obj :=
  ((List.range 192).map fun e => valObj (s.row tile e)).flatten
    ++ ((List.range 32).map fun k => (BitVec.ofNat 8 ((List.range 8).foldl
        (fun n j => n + flagNo (decide (8 * k + j < 192) && (s.row tile (8 * k + j)).p) j) 0), false))
    ++ s.switchObj r tile ++ ((List.range 16).map fun n => s.peObj r tile n).flatten

/-- Result and flags of a divide by its OP - 0x0A (R89). -/
def divResult (op : Nat) (a b : Word) : Word × Flags :=
  match op with
  | 0 => (ofInt (divS a b).1, (divS a b).2.2)
  | 1 => (Word.ofN (divU a b).1, (divU a b).2.2)
  | 2 => (ofInt (divS a b).2.1, (divS a b).2.2)
  | _ => (Word.ofN (divU a b).2.1, (divU a b).2.2)

/-- The writes of a result with destination code `d`: the latch, and a row or a route output. -/
def codeWrites (d : Nat) (v : Val) : List Wr :=
  (if d < 192 then [Wr.row d v] else if d < 200 then [Wr.out (d - 192) { v := v, sb := 0 }] else []) ++ [.latch v]

/-- The record of one PE written back where a write of `n` bytes at `off` touches it; `o` is the whole PE record and `at_` its
place. Constants come from the image and stay. -/
def State.putPe (s : State) (ctx h die tile pe at_ off n : Nat) (o : Obj) : State :=
  let hit (k len : Nat) : Bool := touches off n (at_ + k) len
  let key := tile * 16 + pe
  let p := s.pe key
  let w := Word.ofN (objNum o 0x28 8)
  let l := objVal o 0 8
  let latch : Val := if hit 0 8 then { v := l.v, p := l.p || (hit 0x28 8 && w.bit 24) }
    else if hit 0x28 8 then { p.latch with p := w.bit 24 } else p.latch
  let p1 := if hit 0x28 8 then { p with pred := BitVec.ofNat 8 (w.bits 1 7 * 2), ppois := BitVec.ofNat 8 (w.bits 9 7 * 2),
                                        flags := BitVec.ofNat 6 (w.bits 16 6) } else p
  let s1 := s.setPe key { p1 with latch := latch }
  let r := s1.regionOn ctx h die
  let mk (due : Nat) (dv : Option (Nat × Val × Val)) (x : Wr) : Pend :=
    { due := due, tile := tile, pe := pe, wr := x, fixed := true, ext := false, arrived := true, tag := 0, div := dv }
  let pend1 := if hit 0x28 8 ∨ hit 0x30 16 then
      let rest := r.pend.filter fun q => !(ownPend q tile pe && q.div.isSome)
      let left := w.bits 29 5
      let op := w.bits 42 2
      let a := objVal o 0x30 8
      let b := objVal o 0x38 8
      let res := divResult op a.v b.v
      let v : Val := { v := res.1, p := w.bit 44 || a.p || b.p }
      if left = 0 then rest
      else rest ++ (codeWrites (w.bits 34 8) v ++ (if res.2 = 0 then [] else [Wr.flags res.2])).map (mk (r.t + left - 1) (some (op, a, b)))
    else r.pend
  let pend2 := if hit 0x40 110 then
      let plain (q : Pend) : Bool := match q.wr with
        | .flags _ => false
        | .pflagClear _ => false
        | _ => true
      let rest := pend1.filter fun q => !(ownPend q tile pe && q.div.isNone && plain q)
      let ent (j : Nat) : List Pend :=
        let at1 := 0x40 + 10 * j
        let f := Word.ofN (objNum o (at1 + 9) 1)
        let v := objVal o at1 8
        let x : Val := { v := v.v, p := v.p || f.bit 4 }
        let d := objNum o (at1 + 8) 1
        let due := r.t + f.bits 0 4 - 1
        if !f.bit 5 then []
        else if f.bit 6 then [mk due none (.pred (d % 8) (x.v.bit 0) x.p)] else (codeWrites d x).map (mk due none)
      rest ++ ((List.range 11).map ent).flatten
    else pend1
  s1.setRegion ctx h die { r with pend := pend2 }

/-- A compute-tile record written back. -/
def State.putCompute (s : State) (ctx h die tile off n : Nat) (o : Obj) : State :=
  let row (s : State) (e : Nat) : State :=
    let v := objVal o (8 * e) 8
    let bit := objNum o (0x600 + e / 8) 1 / 2 ^ (e % 8) % 2 == 1
    let bits := touches off n (0x600 + e / 8) 1
    if touches off n (8 * e) 8 then s.setRow tile e { v := v.v, p := v.p || (bits && bit) }
    else if bits then s.setRow tile e { s.row tile e with p := bit } else s
  let s1 := ((List.range 192).foldl row s).putSwitches ctx h die tile 0x620 off n o
  (List.range 16).foldl (fun s k => if touches off n (0x6E0 + 176 * k) 176 then
    s.putPe ctx h die tile k (0x6E0 + 176 * k) off n (o.drop (0x6E0 + 176 * k)) else s) s1

/-! ### The memory-tile record (R345, R137, R352) -/

def Ring.descriptor (r : Ring) : Word := Word.ofN (r.head.toNat * 2 ^ 32 + (r.size - 1) * 2 ^ 18 + r.base * 2 ^ 3)

/-- The numbers of a channel, for its record (log entry 29). -/
def Chan.numbers (c : Chan) (t : Nat) : List Nat :=
  c.ctr ++ [c.left.getD 0, c.record, c.port, flagNo c.wr 0, flagNo c.left.isNone 0, 1, c.next - t]

def barObj (b : Bar) : Obj :=
  let pend (n : Int) : Nat := (n % (2 ^ 40 : Nat)).toNat
  numObj 8 (pend b.pend0) ++ numObj 8 (pend b.pend1) ++ numObj 8 (b.phase.toNat * 2 ^ 32)
    ++ numObj 8 (b.count + flagNo b.auto 39 + flagNo b.posted0 40 + flagNo b.posted1 41 + b.st * 2 ^ 42)

def barOfObj (o : Obj) : Bar :=
  let w := Word.ofN (objNum o 0x18 8)
  { st := w.bits 42 2, phase := BitVec.ofNat 32 (objNum o 0x14 4), pend0 := signedBits 40 (objNum o 0 5), pend1 := signedBits 40 (objNum o 8 5),
    posted0 := w.bit 40, posted1 := w.bit 41, count := w.bits 0 39, auto := w.bit 39 }

/-- Offsets of the poisoned cells of a memory tile, in order. -/
def State.poisOffsets (s : State) (tile : Nat) : List Nat :=
  (s.mem.pois.filter fun g => g / 2 ^ 16 == tile).map fun g => g % 2 ^ 16 * 4

/-- The record of a memory tile: 0xA00 bytes. -/
def State.memoryObj (s : State) (r : Region) (tile : Nat) : Obj :=
  let m := s.tile tile
  let tok (k : Nat) : Obj := match m.tokens[k]? with
    | none => zeros 16
    | some (rc, wd, v) => valObj (Val.clean v) ++ numObj 8 (2 * rc + wd + 32)
  let chan (k : Nat) : Obj := match tabFind m.chans k with
    | none => zeros 32
    | some c => numObj 32 (Config.chanRecord (c.numbers r.t))
  let ring (n : Nat) : Ring := tabGet Ring.init m.rings n
  let bad := s.poisOffsets tile
  let n := if 63 < bad.length then 63 else bad.length
  ((List.range 32).map fun k => valObj (Val.clean (tabGet 0 m.recs k))).flatten ++ ((List.range 8).map tok).flatten
    ++ ((List.range 8).map fun k => valObj (Val.clean (ring k).descriptor)).flatten ++ ((List.range 4).map chan).flatten
    ++ s.switchObj r tile ++ ((List.range 16).map fun k => barObj (tabGet Bar.init m.bars k)).flatten
    ++ ((List.range 8).map fun k => numObj 128 ((ring k).full.foldl (fun a j => a + 2 ^ j) 0)).flatten
    ++ numObj 4 (n + flagNo (decide (63 < bad.length)) 8) ++ ((List.range 63).map fun k => numObj 4 (bad.getD k 0)).flatten

/-- A channel from its record's numbers (log entry 29). -/
def chanOfNumbers (l : List Nat) (t ctx h : Nat) : Option Chan :=
  let f (k : Nat) : Nat := l.getD k 0
  if f 9 = 0 then none
  else some { record := f 5, port := f 6, wr := f 7 == 1, left := if f 8 = 1 then none else some (f 4), ctr := l.take 4, next := t + f 10,
              ctx := ctx, handle := h, timed := true }

/-- A memory-tile record written back. -/
def State.putMemory (s : State) (ctx h die tile off n : Nat) (o : Obj) : State :=
  let hit (k len : Nat) : Bool := touches off n k len
  let m := s.tile tile
  let recs := (List.range 32).foldl (fun t k => if hit (8 * k) 8 then tabPut t k (objVal o (8 * k) 8).v else t) m.recs
  let tokens := if hit 0x100 128 then (List.range 8).filterMap fun k =>
      let w := Word.ofN (objNum o (0x108 + 16 * k) 8)
      if w.bit 5 then some (w.bits 1 4, w.bits 0 1, (objVal o (0x100 + 16 * k) 8).v) else none
    else m.tokens
  let ring (t : Tab Ring) (k : Nat) : Tab Ring :=
    let r := tabGet Ring.init t k
    let w := (objVal o (0x180 + 8 * k) 8).v
    let r1 := if hit (0x180 + 8 * k) 8 then { r with head := w.extractLsb' 32 32, size := w.bits 18 10 + 1, base := w.bits 3 15 } else r
    let r2 := if hit (0x500 + 128 * k) 128 then
        { r1 with full := (List.range 1024).filter fun j => objNum o (0x500 + 128 * k + j / 8) 1 / 2 ^ (j % 8) % 2 == 1 } else r1
    if hit (0x180 + 8 * k) 8 || hit (0x500 + 128 * k) 128 then tabPut t k r2 else t
  let chan (t : Tab Chan) (k : Nat) : Tab Chan :=
    if hit (0x1C0 + 32 * k) 32 then
      match chanOfNumbers (Config.chanNumbers (objNum o (0x1C0 + 32 * k) 32)) (s.regionOn ctx h die).t ctx h with
      | some c => tabPut t k c
      | none => tabDel t k
    else t
  let bars := (List.range 16).foldl (fun t k => if hit (0x300 + 32 * k) 32 then tabPut t k (barOfObj (o.drop (0x300 + 32 * k))) else t) m.bars
  let s1 := (s.setTile tile { recs := recs, rings := (List.range 8).foldl ring m.rings, chans := (List.range 4).foldl chan m.chans,
                              tokens := tokens, bars := bars }).putSwitches ctx h die tile 0x240 off n o
  if hit 0x900 256 then
    let c := Word.ofN (objNum o 0x900 4)
    let named := (List.range (c.bits 0 6)).map fun k => tile * 2 ^ 16 + objNum o (0x904 + 4 * k) 4 % 2 ^ 18 / 4
    let rest := s1.mem.pois.filter fun g => c.bit 8 || g / 2 ^ 16 != tile
    { s1 with mem := { s1.mem with pois := named.foldl setIns rest } }
  else s1

/-! ### The objects of R417 -/

/-- What a DEBUG packet acts on. -/
inductive DbgAt where
  | region (h : Nat)
  | task (k : Nat)
deriving DecidableEq, Repr

/-- The selector W3. -/
structure DbgSel where
  kind : Nat
  off : Nat
  x : Nat
  y : Nat
deriving DecidableEq, Repr

def dbgSel (w : Word) : DbgSel := { kind := w.bits 60 4, off := w.bits 32 18, x := w.bits 10 5, y := w.bits 5 5 }

def dbgSelBad (w : Word) : Bool := w.bits 50 10 != 0 || w.bits 15 17 != 0 || w.bits 0 5 != 0

/-- Whether W2 breaks its layout. -/
def dbgTargetBad (w : Word) : Bool :=
  match w.bits 62 2 with
  | 0 => w.bits 8 54 != 0
  | 1 => w.bits 48 14 != 0 || w.bits 0 7 != 0
  | _ => true

/-- The target of W2: the region of a handle, or the task with that frame, in the queue's own context; a frame that only another
context's task has is that context's. -/
def State.dbgTarget (s : State) (ctx : Nat) (w : Word) : Except Nat DbgAt :=
  if w.bits 62 2 = 0 then .ok (.region (w.bits 0 8))
  else
    let at_ := w.bits 0 48
    match s.tasks.find? fun p => p.2.ctx == ctx && p.2.frame == at_ with
    | some p => .ok (.task p.1)
    | none => .error (if s.tasks.any (fun p => p.2.frame == at_) then ftPriv else ftAddr)

/-- The tile that a selector names in a region. -/
def Region.selTile (r : Region) (sel : DbgSel) : Nat := tileKey r.die (4 * r.px + sel.x) (4 * r.py + sel.y)

/-- The size of a selected object, where the halted target has it. -/
def State.dbgSize (s : State) (ctx : Nat) (t : DbgAt) (sel : DbgSel) : Option Nat :=
  match t with
  | .region h =>
    let r := s.region ctx h
    let inside := decide (sel.x < 4 * r.shw) && decide (sel.y < 4 * r.shh)
    if r.st ≠ .halted then none
    else match sel.kind with
      | 0 => if inside && computeTile sel.x sel.y then some 0x11E0 else none
      | 1 => if inside && !computeTile sel.x sel.y then some 0xA00 else none
      | 2 => if inside && !computeTile sel.x sel.y then some (2 ^ 18) else none
      | 3 => some 56
      | _ => none
  | .task k => if (s.task k).st = .halted ∧ sel.kind = 4 ∧ sel.x = 0 ∧ sel.y = 0 then some 128 else none

/-- The region counters of KIND 3. -/
def countersObj (r : Region) : Obj :=
  ([r.counter, r.admission, r.n, r.cLoad, r.cFill, r.cSteady, r.cDrain].map (numObj 8)).flatten

/-- `n` bytes of a selected object. -/
def State.dbgBytes (s : State) (die ctx : Nat) (t : DbgAt) (sel : DbgSel) (n : Nat) : Except Nat Obj × State :=
  match t with
  | .region h =>
    let r := s.region ctx h
    let tile := r.selTile sel
    match sel.kind with
    | 0 => (.ok (((s.computeObj r tile).drop sel.off).take n), s)
    | 1 => (.ok (((s.memoryObj r tile).drop sel.off).take n), s)
    | 2 => (.ok ((List.range n).map fun j =>
        let v := s.mem.load 4 (sKey tile (sel.off + j)) 1
        (BitVec.ofNat 8 v.v.toNat, v.p)), s.correct spS (sKey tile sel.off) n)
    | _ => (.ok (((countersObj r).drop sel.off).take n), s)
  | .task k => match s.vGetAll die 2 ctx ((s.task k).frame + sel.off) n with
    | (.ok bs, s1) => (.ok bs, s1)
    | (.error _, s1) => (.error ftPage, s1)

/-- Scratch bytes written cell by cell: a poisoned byte poisons its cell, a cell covered whole by clean ones is clean. -/
def State.putScratch (s : State) (tile off : Nat) (bs : Obj) : State :=
  let last := (off + bs.length - 1) / 4
  ((List.range (last - off / 4 + 1)).foldl (fun s j =>
    let cell := 4 * (off / 4 + j)
    let old : Obj := (List.range 4).map fun k =>
      let v := s.mem.load 4 (sKey tile (cell + k)) 1
      (BitVec.ofNat 8 v.v.toNat, v.p)
    let new : Obj := (List.range 4).map fun k => if off ≤ cell + k ∧ cell + k < off + bs.length then bs.getD (cell + k - off) (0, false)
      else old.getD k (0, false)
    { s with mem := s.mem.storeVal 4 (sKey tile cell) 4 (bytesVal new) }) s).renew spS (sKey tile off) bs.length

/-- Bytes written into a selected object. -/
def State.dbgPut (s : State) (die ctx : Nat) (t : DbgAt) (sel : DbgSel) (bs : Obj) : Except Nat State :=
  match t with
  | .region h =>
    let r := s.region ctx h
    let tile := r.selTile sel
    match sel.kind with
    | 0 => .ok (s.putCompute ctx h r.die tile sel.off bs.length (splice (s.computeObj r tile) sel.off bs))
    | 1 => .ok (s.putMemory ctx h r.die tile sel.off bs.length (splice (s.memoryObj r tile) sel.off bs))
    | 2 => .ok (if bs.isEmpty then s else s.putScratch tile sel.off bs)
    | _ => .error ftAddr
  | .task k => match s.vPutAll die 2 ctx ((s.task k).frame + sel.off) bs with
    | .ok s1 => .ok s1
    | .error _ => .error ftPage

/-! ### The operations of R336: an error is the CODE with which the packet ends -/

def State.dbg (s : State) (ctx : Nat) : Dbg := tabGet Dbg.init s.dbgs ctx

def State.setDbg (s : State) (ctx : Nat) (d : Dbg) : State := { s with dbgs := tabPut s.dbgs ctx d }

def State.dbgAttach (s : State) (ctx q va log : Nat) : Except Nat State :=
  if s.debugged ctx then .error ftPriv
  else .ok (s.setDbg ctx { s.dbg ctx with queue := some q, va := va, log := log, widx := 0, held := [] })

/-- Detach: events that wait for room go to the host event ring (R419). -/
def State.dbgDetach (s : State) (ctx : Nat) : State :=
  let d := s.dbg ctx
  d.held.foldl (fun s e => s.sendEvent e) (s.setDbg ctx { d with queue := none, held := [] })

/-- Held events of a debug session written where its buffer has room (R418). -/
def State.dbgFlush (s : State) (ctx : Nat) : State :=
  let d := s.dbg ctx
  match d.queue, d.held with
  | some _, e :: rest => rest.foldl (fun s e => s.debugEvent ctx e) ((s.setDbg ctx { d with held := [] }).debugEvent ctx e)
  | _, _ => s

/-- Halt: a RUNNING region at its cycle boundary, a task after its next commit. -/
def State.dbgHalt (s : State) (ctx : Nat) (t : DbgAt) : Except Nat State :=
  match t with
  | .region h =>
    let die := s.dieOf ctx h
    let r := s.regionOn ctx h die
    if r.st = .running ∧ !r.pastEnd then .ok ((s.setRegion ctx h die { r with st := .halted, stop := false }).syncPages ctx h die)
    else .error ftAddr
  | .task k => if (s.task k).st = .halted then .error ftAddr else .ok (s.setTask k { s.task k with debugStop := true })

/-- The target's HALT record that has found no room: it stays halted (R418). -/
def State.haltHeld (s : State) (ctx : Nat) (d0 : Word) : Bool := (s.dbg ctx).held.any fun e => e.kind == evHalt && e.data0 == d0

/-- Resume from the stop point; written state is in force. -/
def State.dbgResume (s : State) (ctx : Nat) (t : DbgAt) : Except Nat State :=
  match t with
  | .region h =>
    let die := s.dieOf ctx h
    let r := s.regionOn ctx h die
    if r.st ≠ .halted ∨ s.haltHeld ctx (workId r.serial h) then .error ftAddr
    else .ok ((s.setRegion ctx h die { r with st := .running, stop := false, haltTag := none }).syncPages ctx h die)
  | .task k =>
    let t := s.task k
    if t.st ≠ .halted ∨ s.haltHeld ctx (Word.ofN t.frame) then .error ftAddr else .ok (s.post k true)

/-- Read: the selected bytes go to the buffer; poisoned state is written with the poison code. -/
def State.dbgRead (s : State) (die ctx : Nat) (t : DbgAt) (sel : DbgSel) (va n : Nat) : Except Nat State :=
  match s.dbgSize ctx t sel with
  | none => .error ftAddr
  | some size =>
    if size < sel.off + n then .error ftAddr
    else match s.dbgBytes die ctx t sel n with
      | (.error c, _) => .error c
      | (.ok bs, s1) => match s1.vPutAll die 2 ctx va bs with
        | .ok s1 => .ok s1
        | .error _ => .error ftPage

/-- Write: bytes of the buffer that read poisoned poison the words they go to. -/
def State.dbgWrite (s : State) (die ctx : Nat) (t : DbgAt) (sel : DbgSel) (va n : Nat) : Except Nat State :=
  match s.dbgSize ctx t sel with
  | none => .error ftAddr
  | some size =>
    if size < sel.off + n ∨ sel.kind = 3 then .error ftAddr
    else match s.vGetAll die 2 ctx va n with
      | (.error _, _) => .error ftPage
      | (.ok bs, s1) => s1.dbgPut die ctx t sel bs

/-- A breakpoint takes the lowest free number; a 17th is refused (R418). -/
def State.dbgSet (s : State) (ctx node loop : Nat) : Except Nat State :=
  let d := s.dbg ctx
  if 16 ≤ d.bps.length then .error ftAddr
  else .ok (s.setDbg ctx { d with bps := tabPut d.bps (leastFree (d.bps.map Prod.fst) 0) (node, loop) })

def State.dbgClear (s : State) (ctx node loop : Nat) : State :=
  let d := s.dbg ctx
  s.setDbg ctx { d with bps := d.bps.filter fun (b : Nat × Nat × Nat) => b.2 != (node, loop) }

/-- The breakpoint of lowest number that a firing entry's tag matches (R418). -/
def State.bpHit (s : State) (ctx : Nat) (tag : Word) : Option Nat :=
  ((s.dbg ctx).bps.find? fun (b : Nat × Nat × Nat) =>
    b.2.1 == tag.bits 32 32 && (b.2.2 == 2 ^ 32 - 1 || b.2.2 == tag.bits 0 32)).map Prod.fst

/-! ### Capture (R423) -/

/-- STATE of a die's `TRCCTL`. -/
def State.capState (s : State) (die : Nat) : Nat := (s.dcsrAt die 0x8E88).bits 0 2

def State.setCap (s : State) (die n : Nat) : State :=
  s.setDcsr die 0x8E88 (Word.ofN ((s.dcsrAt die 0x8E88).bits 32 32 * 2 ^ 32 + n))

/-- A record written to the ring of a die. -/
def State.capture (s : State) (die kind ctx flags tag : Nat) (a b : Word) : State :=
  let base := s.dcsrAt die 0x8E80
  let w := s.dcsrAt die 0x8E88
  let bs := bytesOfNat 8 s.tb.time ++ bytesOfNat 8 (kind + ctx * 2 ^ 8 + die * 2 ^ 16 + flags * 2 ^ 24 + tag * 2 ^ 32) ++ bytesOfWord a
    ++ bytesOfWord b
  (s.dStore (base.bits 12 28 * 4096 + 32 * (w.bits 32 32 % 2 ^ base.bits 0 4)) bs false).setDcsr die 0x8E88
    (Word.ofN ((w.bits 32 32 + 1) % 2 ^ 32 * 2 ^ 32 + w.bits 0 32))

/-- The triggers of a cycle act at its end: freeze over stop, stop over start. -/
def State.applyTriggers (s : State) : State :=
  let acts (die k : Nat) : Bool := s.trigs.any fun t => t.1 == die && t.2 == k
  ([0, 1, 2, 3] : List Nat).foldl (fun s die =>
    if acts die 3 then s.setCap die 2
    else if acts die 2 then (if s.capState die = 1 then s.setCap die 0 else s)
    else if acts die 1 then (if s.capState die = 0 then s.setCap die 1 else s) else s) { s with trigs := [] }

/-! ### Latency histograms (R422) -/

def histB (i b : Nat) : Nat := 0x8C00 + 0x40 * i + b

def histCfg (i : Nat) : Nat := 0x8C20 + 0x40 * i

/-- The least bucket whose cumulative count reaches PCT/256 of the total. -/
def leastBucket (counts : List Nat) (need : Nat) : Nat → Nat → Nat
  | 0, acc => acc
  | fuel + 1, acc => if need ≤ 256 * (counts.take (acc + 1)).foldl (· + ·) 0 then acc else leastBucket counts need fuel (acc + 1)

/-- One D request of an interface counted, with the trigger of R422 after it. -/
def State.countRequest (s : State) (die i lat : Nat) : State :=
  let c := s.dcsrAt die (histCfg i)
  if !c.bit 0 then s
  else
    let b := if lat / 2 ^ c.bits 12 4 < 31 then lat / 2 ^ c.bits 12 4 else 31
    let n := (s.dcsrAt die (histB i b)).toNat
    let s1 := s.setDcsr die (histB i b) (Word.ofN (if n < 2 ^ 32 - 1 then n + 1 else n))
    let counts := (List.range 32).map fun k => (s1.dcsrAt die (histB i k)).toNat
    let total := counts.foldl (· + ·) 0
    if c.bits 32 16 ≤ total ∧ leastBucket counts (c.bits 48 8 * total) 31 0 < b then
      let s2 := { s1 with trigs := s1.trigs ++ [(die, c.bits 16 2)] }
      if s2.capState die = 1 then s2.capture die 2 0 0 i 0 (Word.ofN (lat * 2 ^ 32 + b)) else s2
    else s1

/-- HISTCFG_WRITE: EN from 0 to 1 zeroes the buckets. -/
def execHistcfgWrite (die i : Nat) (w : Word) (s : State) : Out :=
  let old := s.dcsrAt die (histCfg i)
  let s1 := if !old.bit 0 && w.bit 0 then (List.range 32).foldl (fun s b => s.setDcsr die (histB i b) 0) s else s
  .next (s1.setDcsr die (histCfg i) (w &&& 0x00FFFFFF0003F001))

/-- TRCCTL_WRITE: STATE. -/
def execTrcctlWrite (die : Nat) (w : Word) (s : State) : Out := .next (s.setCap die (w.bits 0 2))

/-! ### `trace` (R424) -/

def execTrace (h : Hd) (a : Src) (imm : BitVec 16) (s : State) : Out :=
  let m := h.place.form
  .next (s.send (.trace h a imm) h [a] 0 false (fun _ _ => none) (fun _ _ => false)
    (fun s ops _ =>
      if s.capState s.cur.die = 1 ∧ (s.dcsrAt s.cur.die 0x8E90).bit s.cur.ctx then
        let v := opn ops 0
        let place : Word := match m with
          | .timed => s.nodeTag
          | .block => Word.ofN s.curBlk.addr
        s.capture s.cur.die 1 s.cur.ctx (flagNo v.p 0 + flagNo (m == .block) 1) imm.toNat place v.v
      else s) 1)

end Sys2Proof.Machine
end

