-- ==== Sys2Proof/Machine/Packets.lean ====
section
/-! DEFINITION. Packets: validation, the shadow, dispatch, and the meaning of each type (R318, R320, R324 to R328, R336). -/

namespace Sys2Proof.Machine

/-! ### A packet under dispatch -/

/-- A published packet, or one that a DELTA builds: its header and the body words W1 to W7. -/
structure Pkt where
  hdr : Word
  ws : List Word
deriving DecidableEq, Repr

def Pkt.w (p : Pkt) (k : Nat) : Word := p.ws.getD (k - 1) 0

def Pkt.typ (p : Pkt) : Nat := p.hdr.bits 0 8

def Pkt.ver (p : Pkt) : Nat := p.hdr.bits 8 8

/-- What becomes of a packet: it stops its queue with an error, it waits at dispatch, or it is dispatched. -/
inductive Disp where
  | bad (err code : Nat)
  | stay (s : State)
  | go (s : State)
deriving DecidableEq, Repr

/-- `QERR_PACKET` with a fault code behind it. -/
def Disp.packet (code : Nat) : Disp := .bad 4 code

/-- The words a type's body uses (R326). -/
def usedWords (typ : Nat) : List Nat :=
  match typ with
  | 0 => []
  | 1 => [1, 2, 3, 4, 7]
  | 2 => [1, 2, 3, 4, 5, 6, 7]
  | 3 => [1, 2, 3, 4, 7]
  | 4 => [1, 2, 3]
  | 5 => [1, 2, 3]
  | 6 => [1, 2]
  | 7 => [1, 2, 7]
  | 8 => [1, 2]
  | 9 => [1, 2, 7]
  | 10 => [1, 2, 3, 4, 5, 7]
  | _ => [1, 2, 7]

def unusedSet (p : Pkt) (typ : Nat) : Bool := ([1, 2, 3, 4, 5, 6, 7] : List Nat).any fun k => !(usedWords typ).contains k && p.w k != 0

/-- Whether a type's word W7 is a completion signal. -/
def hasCsig (typ : Nat) : Bool := typ == 1 || typ == 3 || typ == 7 || typ == 9 || typ == 10 || typ == 11

/-- The code with which an address of a packet fails validation: it does not fit 48 bits, it is misaligned, or `n` bytes from it fail
translation. -/
def State.vaBad (s : State) (q : Nat) (va : Word) (align n : Nat) (write : Bool) : Option Nat :=
  if va.bits 48 16 ≠ 0 then some 0
  else if va.toNat % align ≠ 0 then some ftAlign
  else if !s.vReach (s.qDie q) 2 (s.qCtx q) va.toNat n write then some ftPage else none

/-- The completion signal of a packet: 0, or an address that can be written. -/
def State.csigBad (s : State) (q : Nat) (va : Word) : Option Nat := if va = 0 then none else s.vaBad q va 8 8 true

/-! ### Jobs of packets (R320) -/

/-- A job opened by the packet at RDX. -/
def State.openJob (s : State) (q : Nat) (p : Pkt) : Option (Nat × State) :=
  let ctx := s.qCtx q
  (freeSlot s.jobs ctx fun j => j.final.isSome).map fun k =>
    let n := s.nextSerial ctx lvJob
    (k, n.2.setJob ctx k { Job.init with serial := n.1, queue := q, die := s.qDie q, tag := Word.ofN (p.hdr.bits 32 32),
                                         index := s.qRdx q, evt := p.hdr.bit 19, csig := (p.w 7).toNat })

/-- A packet without a job that is done. -/
def State.plain (s : State) (q : Nat) (p : Pkt) : State := s.packetDone q p.hdr 0 plainDone (s.qRdx q)

/-- A packet whose completion signal takes the code of its refusal, or plain success. -/
def State.ended (s : State) (q : Nat) (p : Pkt) (r : Except Nat State) : Disp :=
  match r with
  | .ok s1 => .go (s1.packetDone q p.hdr (p.w 7) plainDone (s.qRdx q))
  | .error c => .go (s.packetDone q p.hdr (p.w 7) (complWord stAborted c 0 0) (s.qRdx q))

/-! ### NOP and LAUNCH -/

def State.nopBody (s : State) (q : Nat) (p : Pkt) : Disp := .go (s.plain q p)

/-- The inline record of LFLAGS: its head, and two shadow words for each constant and seed from S8 on. -/
def State.inlineRecord (s : State) (q : Nat) (f : Word) : List Word :=
  Word.ofN (f.bits 8 4 + f.bits 4 4 * 2 ^ 16 + (if f.bit 2 then 2 ^ 32 else 0) + f.bits 12 8 * 2 ^ 40)
    :: ((s.qShadow q).drop 8).take (2 * (f.bits 4 4 + f.bits 8 4))

/-- The code with which a LAUNCH body fails validation. -/
def State.launchCode (s : State) (q : Nat) (p : Pkt) : Option Nat :=
  let f := p.w 4
  let seq := f.bit 0
  let inl := f.bit 1
  if f.bits 20 44 ≠ 0 ∨ f.bit 3 ∨ f.bits 16 3 ≠ 0 ∨ (p.ver = 1 ∧ f.bits 1 19 ≠ 0) ∨ (!inl ∧ f.bits 4 8 ≠ 0)
      ∨ (inl ∧ (p.w 3 ≠ 0 ∨ seq ∨ 12 < f.bits 4 4 + f.bits 8 4)) then some 0
  else if (p.w 3).bits 48 16 = 0 ∧ (p.w 3).bits 0 3 ≠ 0 then some ftAlign
  else if launchBad (p.w 1) (p.w 2) (p.w 3) seq then some 0
  else if p.w 3 ≠ 0 then (s.vaBad q (p.w 3) 8 8 false).orElse fun _ => s.csigBad q (p.w 7)
  else s.csigBad q (p.w 7)

/-- LAUNCH: a launch of the context at the queue's priority under a new job. NO_HANDLE and BUSY keep the packet at dispatch, and so
does an invalidation by the host's `CFGINV` that is not yet performed: the host's order is write, `CFGINV`, launch (R218). -/
def State.launchBody (s : State) (q : Nat) (p : Pkt) : Disp :=
  match s.launchCode q p with
  | some c => .packet c
  | none =>
    let ctx := s.qCtx q
    let f := p.w 4
    if s.cycle < (s.qRun q).retry ∨ s.cinvs.any (fun c => c.who.ctx == 64 && c.ctx == ctx) then .stay s
    else match s.openJob q p with
      | none => .stay s
      | some (k, s1) =>
        let r := s1.accept { ctx := ctx, op := p.w 1, n := (p.w 2).toNat, recAddr := (p.w 3).toNat, isSeq := f.bit 0,
                             die := s.physDie ctx ((p.w 1).bits 25 2), prio := s.qPrio q, queue := q, job := some k, graph := none, card := none,
                             inl := if f.bit 1 then some (s.inlineRecord q f) else none, lrel := f.bit 2,
                             lisl := if f.bit 19 then some (f.bits 12 4) else none }
        match r.1 with
        | 0 => .go r.2.2
        | 1 => .go ((s1.setJob ctx k { s1.job ctx k with cancelled := true, csig := 0 }).settleJob ctx k)
        | 2 => .stay (s.onQueue q fun r => { r with retry := s.cycle + 256 })
        | 3 => .stay (s.onQueue q fun r => { r with retry := s.cycle + 256 })
        | _ => .go ((s1.jobBegin ctx (some k)).jobEnd ctx (some k) stAborted ftAddr)

/-! ### COPY -/

/-- The code with which the operands of a stream instruction fail validation. -/
def State.copyCode (s : State) (q : Nat) (i : Instr) (a b c : Word) : Option Nat :=
  let ctx := s.qCtx q
  match i with
  | .scpyChk _ _ _ _ _ => if islBad a [0, 1] false then some 0 else if c.bits 0 2 ≠ 0 then some ftAlign else none
  | .sbind _ _ _ _ =>
    if copyBad i a b c ∨ (b.bits 8 2 = 3 ∧ (s.pkgCsr (0x8400 + c.bits 0 5)).bits 34 6 ≠ ctx) then some 0 else none
  | .spat _ _ _ =>
    if islBad a [] true ∨ c ≠ 0 then some 0
    else if b.bits 0 3 ≠ 0 then some ftAlign
    else match s.partOf ctx false b with
      | .error e => some (if e = ftPoison then ftPoison else 0)
      | .ok (_, off) => if 2 ^ 21 < off + 104 then some 0 else none
  | i => if copyBad i a b c then some 0 else none

/-- A setting, or `scan`, of the front end: performed at dispatch. -/
def State.copySetting (s : State) (q : Nat) (i : Instr) (a b c : Word) : State :=
  let ctx := s.qCtx q
  let k := 8 * s.qDie q + a.bits 0 4
  match i with
  | .sbind _ _ _ _ => s.setSisl k { s.sisl k with binds := tabPut (s.sisl k).binds (16 * ctx + a.bits 8 4) (bindOf b c) }
  | .spat _ _ _ => match s.partOf ctx false b with
    | .error _ => s
    | .ok (n, off) => s.setSisl k { s.sisl k with pats := tabPut (s.sisl k).pats (256 * ctx + a.bits 24 8) (s.patWords n off) }
  | _ => (s.scanCmds k fun x => x.ctx == ctx && (b == 0 || b == Word.ofN x.num)).2

/-- COPY: a setting acts at dispatch; a command opens a job and waits for room at its island. -/
def State.copyBody (s : State) (q : Nat) (p : Pkt) : Disp :=
  let op := (p.w 1).bits 0 8
  let ctx := s.qCtx q
  if (p.w 1).bits 13 51 ≠ 0 ∨ op < 0xD0 ∨ 0xD9 < op ∨ op = 0xD8 then .packet 0
  else match copyInstr op ((p.w 1).bits 8 5) (p.w 4) with
    | none => .packet 0
    | some i => match (s.copyCode q i (p.w 2) (p.w 3) (p.w 4)).orElse fun _ => s.csigBad q (p.w 7) with
      | some c => .packet c
      | none =>
        if op = 0xD0 ∨ op = 0xD7 ∨ op = 0xD9 then
          .go ((s.copySetting q i (p.w 2) (p.w 3) (p.w 4)).packetDone q p.hdr (p.w 7) plainDone (s.qRdx q))
        else
          let k := 8 * s.qDie q + (p.w 2).bits 0 4
          if s.streamFull k then .stay s
          else match s.openJob q p with
            | none => .stay s
            | some (j, s1) => .go (s1.streamAccept k i ctx (p.w 2) (p.w 3) (p.w 4) (s.qPrio q) (some j) none (feIssuer (s.qDie q) ctx) none).2

/-! ### WAIT, SIGNAL, FENCE -/

def State.waitBody (s : State) (q : Nat) (p : Pkt) : Disp :=
  let kind := (p.w 1).bits 0 2
  let level := (p.w 1).bits 2 2
  let code : Option Nat :=
    if (p.w 1).bits 4 60 ≠ 0 ∨ kind = 3 ∨ (kind ≠ 2 ∧ level ≠ 0) then some 0
    else match kind with
      | 0 => if (counterIdx (p.w 2)).isNone then some 0 else none
      | 1 => s.vaBad q (p.w 2) 8 8 false
      | _ => if identBad (p.w 2) level then some 0 else none
  match code with
  | some c => .packet c
  | none =>
    let w : QWait := { kind := kind, level := level, target := p.w 2, n := p.w 3, hdr := p.hdr }
    match s.waitHolds q w with
    | .error c => .packet c
    | .ok true => .go (s.plain q p)
    | .ok false => .go ((s.onQueue q fun r => { r with wait := some w, idle := s.cycle }).toState q qsWaiting)

def State.signalBody (s : State) (q : Nat) (p : Pkt) : Disp :=
  let ctx := s.qCtx q
  if (p.w 1).bits 2 62 ≠ 0 then .packet 0
  else match (p.w 1).bits 0 2 with
    | 0 => match counterIdx (p.w 2) with
      | none => .packet 0
      | some k => if (p.w 2).bits 11 3 ≠ 3 then .packet 0 else .go ((s.signal (counterKey ctx k) (p.w 3).toNat).plain q p)
    | 1 => match s.vaBad q (p.w 2) 8 8 true with
      | some c => .packet c
      | none => match s.vStore (s.qDie q) 2 ctx (p.w 2).toNat (bytesOfWord (p.w 3)) false with
        | .ok s1 => .go (s1.plain q p)
        | .error _ => .packet ftPage
    | 2 => .go ((s.sendEvent { kind := 8, code := 0, queue := q, ctx := ctx, die := s.qDie q, tag := Word.ofN (p.hdr.bits 32 32),
                               data0 := p.w 3, data1 := Word.ofN (s.qRdx q) }).plain q p)
    | _ => .packet 0

def State.fenceBody (s : State) (q : Nat) (p : Pkt) : Disp :=
  let w := p.w 1
  if w.bits 6 58 ≠ 0 ∨ w.bits 0 4 = 0 ∨ 4 < w.bits 0 4 ∨ (p.w 2).bits 10 54 ≠ 0 then .packet 0
  else
    let s1 := if w.bit 4 then s.cfgInvalidate (s.qCtx q) (if w.bit 5 then none else some ((p.w 2).bits 0 10)) else s
    .go (s1.plain q p)

/-! ### TABLE (R277, R278, R283, R285) -/

/-- The fields that every TABLE packet checks. -/
def State.tableCode (s : State) (q : Nat) (p : Pkt) : Option Nat :=
  let top := (p.w 1).bits 0 3
  if !(s.qField q 0x15 1).bit 0 ∨ (p.w 1).bit 3 ∨ (p.w 1).bits 6 58 ≠ 0 ∨ 4 < top ∨ (2 ≤ top ∧ p.w 2 ≠ 0) ∨ (top = 1 ∧ (p.w 2).bits 48 16 ≠ 0)
  then some 0 else s.csigBad q (p.w 7)

def Pkt.slot (p : Pkt) : Nat := (p.w 1).bits 4 2

/-- TOP 0. A placement of the same cycle on a page of the table comes first and refuses it (R301); any other placement on its dies leaves
the packet to the next cycle, since an allocator handles one event in each (R295). -/
def State.tableInstallBody (s : State) (q : Nat) (p : Pkt) : Disp :=
  match (s.tableCode q p).orElse fun _ => s.vaBad q (p.w 2) 8 8 false with
  | some c => .packet c
  | none => match s.readTable (s.qDie q) (s.qCtx q) (p.w 2).toNat with
    | (none, _) => .packet ftPage
    | (some img, s1) =>
      let dies := (zstTab img p.slot).dies
      let s2 := dies.foldl (fun s d => s.allocate d) s1
      match s2.install p.slot img with
      | .ok s3 => if dies.any fun d => tabFind s2.placed d == some s2.cycle then .stay s2 else s2.ended q p (.ok s3)
      | .error c => s2.ended q p (.error c)

/-- Whether a table is ARMED, RUNNING or AMBER. -/
def STab.active (t : STab) : Bool := t.st != .installed

/-- A table asked to start at an STC tick: the code of a refusal, or the state with it ARMED. -/
def State.startTable (s : State) (die slot tick : Nat) : Except Nat State :=
  match s.tableOn? die slot with
  | none => .error ftAddr
  | some (key, t) =>
    if s.tb.run ∧ tick ≤ s.stc.toNat then .error ftAddr
    else if t.active ∨ s.tabs.any (fun o => o.2.active && o.2.dies.any fun d => t.dies.contains d) then .error ecfgShape
    else .ok (s.setTab key { t with st := .armed, startAt := tick })

/-- A switch asked for at the running table's next mode-change point. -/
def State.switchTable (s : State) (die slot : Nat) : Except Nat State :=
  match s.tableOn? die slot with
  | none => .error ftAddr
  | some (_, t) => match s.tabs.find? fun o => o.2.runs && o.2.dies.contains die with
    | none => .error ecfgShape
    | some (key, r) => if t.active ∨ r.dies ≠ t.dies then .error ecfgShape else .ok (s.setTab key { r with switch := some slot })

def State.ackTable (s : State) (die slot : Nat) : Except Nat State :=
  match s.tableOn? die slot with
  | none => .error ftAddr
  | some (key, t) => .ok (if t.st = .amber then s.setTab key { t with ack := true } else s)

def State.removeTable (s : State) (die slot : Nat) : Except Nat State :=
  match s.tableOn? die slot with
  | none => .error ftAddr
  | some (key, t) => if t.active then .error ecfgShape else .ok (s.uninstall key)

/-- TOP 1 to 4. -/
def State.tableBody (s : State) (q : Nat) (p : Pkt) (act : State → Except Nat State) : Disp :=
  match s.tableCode q p with
  | some c => .packet c
  | none => s.ended q p (act s)

def State.tableStartBody (s : State) (q : Nat) (p : Pkt) : Disp := s.tableBody q p fun s => s.startTable (s.qDie q) p.slot (p.w 2).toNat

def State.tableSwitchBody (s : State) (q : Nat) (p : Pkt) : Disp := s.tableBody q p fun s => s.switchTable (s.qDie q) p.slot

def State.tableAckBody (s : State) (q : Nat) (p : Pkt) : Disp := s.tableBody q p fun s => s.ackTable (s.qDie q) p.slot

def State.tableRemoveBody (s : State) (q : Nat) (p : Pkt) : Disp := s.tableBody q p fun s => s.removeTable (s.qDie q) p.slot

/-! ### MODE -/

def State.modePrioBody (s : State) (q : Nat) (p : Pkt) : Disp :=
  if (p.w 1).bits 2 62 ≠ 0 ∨ p.w 2 < 2 ∨ 4 < p.w 2 then .packet 0 else .go ((s.setQField q 0x13 1 (p.w 2).toNat).plain q p)

def State.modePauseBody (s : State) (q : Nat) (p : Pkt) : Disp :=
  if (p.w 1).bits 2 62 ≠ 0 ∨ p.w 2 ≠ 0 then .packet 0
  else .go ((s.putQ q qsPaused ((s.qStat q).bit 57) ((s.qStat q).bits 48 8) ((s.qStat q).bits 40 8)).plain q p)

def State.modeField (s : State) (q : Nat) (p : Pkt) (off : Nat) : Disp :=
  if (p.w 1).bits 2 62 ≠ 0 ∨ (p.w 2).bits 32 32 ≠ 0 then .packet 0 else .go ((s.setQField q off 4 (p.w 2).toNat).plain q p)

def State.modePubtoBody (s : State) (q : Nat) (p : Pkt) : Disp := s.modeField q p 0x28

def State.modeReslimBody (s : State) (q : Nat) (p : Pkt) : Disp := s.modeField q p 0x2C

/-! ### GRAPH -/

/-- GRAPH: a decrement by a poster with no graph; what it posts opens a graph of the packet's job. -/
def State.graphBody (s : State) (q : Nat) (p : Pkt) : Disp :=
  let ctx := s.qCtx q
  let code := if (p.w 2).bits 1 63 ≠ 0 then some 0 else (s.vaBad q (p.w 1) 64 64 true).orElse fun _ => s.csigBad q (p.w 7)
  match code with
  | some c => .packet c
  | none => match s.openJob q p with
    | none => .stay s
    | some (k, s1) => match s1.xlate (s.qDie q) 2 ctx (p.w 1).toNat true with
      | (.error _, _) => .packet ftPage
      | (.ok pa, s2) =>
        .go ((s2.decrement ctx (p.w 1).toNat pa { graph := none, job := some k, queue := q, die := s.qDie q, prio := s.qPrio q,
                                                   finishing := false }).2.settleJob ctx k)

/-! ### CANCEL -/

def State.cancelBody (s : State) (q : Nat) (p : Pkt) : Disp :=
  let ctx := s.qCtx q
  let level := (p.w 2).bits 0 2
  let rel := (p.w 2).bit 2
  let all := (p.w 2).bit 3
  let code := if (p.w 2).bits 4 60 ≠ 0 ∨ (rel ∧ level ≠ 0) ∨ (all ∧ p.w 1 ≠ 0) ∨ (!all ∧ identBad (p.w 1) level) then some 0
    else s.csigBad q (p.w 7)
  match code with
  | some c => .packet c
  | none =>
    let r := if all then (0, (s.openJobs q).foldl (fun s k => s.cancelJob ctx k) s) else s.cancelWork (s.qDie q) ctx level (p.w 1) rel
    .go (r.2.packetDone q p.hdr (p.w 7) (Word.ofN r.1) (s.qRdx q))

/-! ### DEBUG (R336, R416 to R418) -/

/-- The fields of a DEBUG packet by DOP. -/
def State.debugCode (s : State) (q : Nat) (p : Pkt) : Option Nat :=
  let dop := (p.w 1).bits 0 3
  if (p.w 1).bits 3 61 ≠ 0 ∨ dbgTargetBad (p.w 2) then some 0
  else
    let code : Option Nat := match dop with
      | 0 => if p.w 5 ≠ 0 ∨ p.w 4 < 4 ∨ 12 < p.w 4 then some 0 else s.vaBad q (p.w 3) 1 (32 * 2 ^ (p.w 4).toNat) true
      | 4 => if dbgSelBad (p.w 3) ∨ (p.w 5).bits 0 3 ≠ 0 ∨ 2 ^ 18 < (p.w 5).toNat then some 0 else s.vaBad q (p.w 4) 1 (p.w 5).toNat true
      | 5 => if dbgSelBad (p.w 3) ∨ (p.w 5).bits 0 3 ≠ 0 ∨ 2 ^ 18 < (p.w 5).toNat then some 0 else s.vaBad q (p.w 4) 1 (p.w 5).toNat false
      | 6 => if p.w 5 ≠ 0 ∨ (p.w 3).bits 32 32 ≠ 0 ∨ (p.w 4).bits 32 32 ≠ 0 then some 0 else none
      | 7 => if p.w 5 ≠ 0 ∨ (p.w 3).bits 32 32 ≠ 0 ∨ (p.w 4).bits 32 32 ≠ 0 then some 0 else none
      | _ => if p.w 3 ≠ 0 ∨ p.w 4 ≠ 0 ∨ p.w 5 ≠ 0 then some 0 else none
    code.orElse fun _ => s.csigBad q (p.w 7)

def State.debugBody (s : State) (q : Nat) (p : Pkt) (act : State → Except Nat State) : Disp :=
  match s.debugCode q p with
  | some c => .packet c
  | none => s.ended q p (act s)

/-- An operation on the target that W2 names. -/
def State.onTarget (s : State) (q : Nat) (p : Pkt) (act : DbgAt → Except Nat State) : Except Nat State :=
  match s.dbgTarget (s.qCtx q) (p.w 2) with
  | .error c => .error c
  | .ok t => act t

def State.debugAttachBody (s : State) (q : Nat) (p : Pkt) : Disp :=
  s.debugBody q p fun s => s.dbgAttach (s.qCtx q) q (p.w 3).toNat (p.w 4).toNat

def State.debugDetachBody (s : State) (q : Nat) (p : Pkt) : Disp := s.debugBody q p fun s => .ok (s.dbgDetach (s.qCtx q))

def State.debugHaltBody (s : State) (q : Nat) (p : Pkt) : Disp := s.debugBody q p fun s => s.onTarget q p fun t => s.dbgHalt (s.qCtx q) t

def State.debugResumeBody (s : State) (q : Nat) (p : Pkt) : Disp := s.debugBody q p fun s => s.onTarget q p fun t => s.dbgResume (s.qCtx q) t

def State.debugReadBody (s : State) (q : Nat) (p : Pkt) : Disp :=
  s.debugBody q p fun s => s.onTarget q p fun t => s.dbgRead (s.qDie q) (s.qCtx q) t (dbgSel (p.w 3)) (p.w 4).toNat (p.w 5).toNat

def State.debugWriteBody (s : State) (q : Nat) (p : Pkt) : Disp :=
  s.debugBody q p fun s => s.onTarget q p fun t => s.dbgWrite (s.qDie q) (s.qCtx q) t (dbgSel (p.w 3)) (p.w 4).toNat (p.w 5).toNat

def State.debugSetBody (s : State) (q : Nat) (p : Pkt) : Disp :=
  s.debugBody q p fun s => s.dbgSet (s.qCtx q) (p.w 3).toNat (p.w 4).toNat

def State.debugClearBody (s : State) (q : Nat) (p : Pkt) : Disp :=
  s.debugBody q p fun s => .ok (s.dbgClear (s.qCtx q) (p.w 3).toNat (p.w 4).toNat)

/-! ### Validation and dispatch (R325, R327, R328) -/

/-- The meaning of a body by its type. -/
def State.bodyOf (s : State) (q typ : Nat) (p : Pkt) : Disp :=
  match typ with
  | 0 => s.nopBody q p
  | 1 => s.launchBody q p
  | 3 => s.copyBody q p
  | 4 => s.waitBody q p
  | 5 => s.signalBody q p
  | 6 => s.fenceBody q p
  | 7 => match (p.w 1).bits 0 3 with
    | 1 => s.tableStartBody q p
    | 2 => s.tableSwitchBody q p
    | 3 => s.tableAckBody q p
    | 4 => s.tableRemoveBody q p
    | _ => s.tableInstallBody q p
  | 8 => match (p.w 1).bits 0 2 with
    | 0 => s.modePrioBody q p
    | 1 => s.modePauseBody q p
    | 2 => s.modePubtoBody q p
    | _ => s.modeReslimBody q p
  | 9 => s.graphBody q p
  | 10 => match (p.w 1).bits 0 3 with
    | 0 => s.debugAttachBody q p
    | 1 => s.debugDetachBody q p
    | 2 => s.debugHaltBody q p
    | 3 => s.debugResumeBody q p
    | 4 => s.debugReadBody q p
    | 5 => s.debugWriteBody q p
    | 6 => s.debugSetBody q p
    | _ => s.debugClearBody q p
  | 11 => s.cancelBody q p
  | _ => .packet 0

/-- A body of a type checked for words it does not use, and held back while an earlier packet it waits for has not completed:
what a WAIT's condition reads is read at its dispatch, its words are checked before (R325, R326). -/
def State.runBody (s : State) (q typ : Nat) (p : Pkt) (body : State → Nat → Pkt → Disp) : Disp :=
  if unusedSet p typ then .packet 0
  else
    let early : Bool := (p.hdr.bit 18 || typ == 5 || typ == 6) && !(s.openJobs q).isEmpty
    match body s q p with
    | .go s1 => if early then .stay s else .go s1
    | .bad err code => if early ∧ typ = 4 ∧ code = ftPoison then .stay s else .bad err code
    | d => d

/-- The steps of R325 before the body's own: FVER, TYPE, and the header's reserved bits. -/
def State.headBad (s : State) (q : Nat) (p : Pkt) : Option Disp :=
  if p.ver = 0 ∨ (s.qField q 0x14 1).toNat < p.ver then some (.bad 5 0)
  else if 12 ≤ p.typ then some (.bad 1 0)
  else if p.hdr.bits 20 12 ≠ 0 ∨ p.hdr.bit 17 then some (.packet 0) else none

/-- A queue whose next packet may be dispatched: READY, in a slot, of a context that takes part, its die's pipeline ready. -/
def State.mayDispatch (s : State) (q : Nat) : Bool :=
  let c := s.ctxState (s.qCtx q)
  s.qState q == qsReady && s.resident q && (c == ctxActive || c == ctxFree) && decide (tabGet 0 s.fe (8 * s.qDie q) ≤ s.cycle)

/-- A packet of index RDX dispatched: RDX, the shadow `l`, the deficit, and the die's pipeline. A visit to the queue adds the quantum 4 to
its deficit, and ends when that falls below 1, when the queue has nothing to dispatch, or when another of its priority is served
(R318). -/
def State.dispatched (s : State) (q cost : Nat) (l : Option (List Word)) : State :=
  let die := s.qDie q
  let r := s.qRun q
  let d := (if r.visit then r.deficit else r.deficit + 4) - cost
  let leave (e : Nat × QRun) : Nat × QRun :=
    if e.1 ≠ q ∧ s.qDie e.1 = die ∧ s.qPrio e.1 = s.qPrio q then (e.1, { e.2 with visit := false }) else e
  let s1 := (match l with
    | some l => s.setShadow q l
    | none => s).setRdx q (s.qRdx q + 1)
  let s2 := if (tabFind s1.queues q).isSome then s1.onQueue q fun r =>
    { r with deficit := d, visit := decide (d ≠ 0), pub := none, retry := 0 } else s1
  { s2 with
    queues := s2.queues.map leave
    fe := tabPut (tabPut s2.fe (8 * die) (s2.cycle + 8)) (8 * die + s.qPrio q) (q + 1) }

/-- The next packet of a queue, when `mine` picks it, validated and dispatched by `body`: a queue that may not dispatch, an
unpublished slot and another packet are left alone. `save` gives the shadow after dispatch. -/
def State.packet (s : State) (q : Nat) (mine : Pkt → Bool) (body : State → Nat → Pkt → Disp) : State :=
  if !s.mayDispatch q then s
  else match s.qPeek q with
    | (.error (c, hdr), s1) => if mine { hdr := 0, ws := [] } then s1.queueError q 4 c hdr (s1.qRdx q) else s
    | (.ok none, _) => s
    | (.ok (some ws), s1) =>
      let p : Pkt := { hdr := ws.getD 0 0, ws := ws.drop 1 }
      if !mine p then s
      else
        let r := match s1.headBad q p with
          | some d => d
          | none => s1.runBody q p.typ p body
        match r with
        | .bad err code => s1.queueError q err code p.hdr (s1.qRdx q)
        | .stay s2 => s2
        | .go s2 => s2.dispatched q (if p.typ = 0 then 0 else 1)
          (if p.typ = 0 then none else some (p.ws ++ (s1.qShadow q).drop 7))

/-- A packet of one type. -/
def ofType (t : Nat) (p : Pkt) : Bool := p.typ == t

/-- The packets that no other constructor takes: NOP, and a slot that cannot be read or holds an undefined type. -/
def isNop (p : Pkt) : Bool := p.typ == 0 || decide (12 ≤ p.typ)

def execNopPacket (q : Nat) (s : State) : Out := .next (s.packet q isNop State.nopBody)

def execLaunchPacket (q : Nat) (s : State) : Out := .next (s.packet q (ofType 1) State.launchBody)

def execCopyPacket (q : Nat) (s : State) : Out := .next (s.packet q (ofType 3) State.copyBody)

def execWaitPacket (q : Nat) (s : State) : Out := .next (s.packet q (ofType 4) State.waitBody)

def execSignalPacket (q : Nat) (s : State) : Out := .next (s.packet q (ofType 5) State.signalBody)

def execFencePacket (q : Nat) (s : State) : Out := .next (s.packet q (ofType 6) State.fenceBody)

def ofTop (ts : List Nat) (p : Pkt) : Bool := ofType 7 p && ts.contains ((p.w 1).bits 0 3)

/-- TOP 0; a TOP beyond 4 is refused here too. -/
def execTableInstall (q : Nat) (s : State) : Out := .next (s.packet q (ofTop [0, 5, 6, 7]) State.tableInstallBody)

def execTableStart (q : Nat) (s : State) : Out := .next (s.packet q (ofTop [1]) State.tableStartBody)

def execTableSwitch (q : Nat) (s : State) : Out := .next (s.packet q (ofTop [2]) State.tableSwitchBody)

def execTableAcknowledge (q : Nat) (s : State) : Out := .next (s.packet q (ofTop [3]) State.tableAckBody)

def execTableRemove (q : Nat) (s : State) : Out := .next (s.packet q (ofTop [4]) State.tableRemoveBody)

def ofMop (k : Nat) (p : Pkt) : Bool := ofType 8 p && (p.w 1).bits 0 2 == k

def execModePrio (q : Nat) (s : State) : Out := .next (s.packet q (ofMop 0) State.modePrioBody)

def execModePause (q : Nat) (s : State) : Out := .next (s.packet q (ofMop 1) State.modePauseBody)

def execModePubto (q : Nat) (s : State) : Out := .next (s.packet q (ofMop 2) State.modePubtoBody)

def execModeReslim (q : Nat) (s : State) : Out := .next (s.packet q (ofMop 3) State.modeReslimBody)

def execGraphPacket (q : Nat) (s : State) : Out := .next (s.packet q (ofType 9) State.graphBody)

def ofDop (k : Nat) (p : Pkt) : Bool := ofType 10 p && (p.w 1).bits 0 3 == k

def execDebugAttach (q : Nat) (s : State) : Out := .next (s.packet q (ofDop 0) State.debugAttachBody)

def execDebugDetach (q : Nat) (s : State) : Out := .next (s.packet q (ofDop 1) State.debugDetachBody)

def execDebugHalt (q : Nat) (s : State) : Out := .next (s.packet q (ofDop 2) State.debugHaltBody)

def execDebugResume (q : Nat) (s : State) : Out := .next (s.packet q (ofDop 3) State.debugResumeBody)

def execDebugReadState (q : Nat) (s : State) : Out := .next (s.packet q (ofDop 4) State.debugReadBody)

def execDebugWriteState (q : Nat) (s : State) : Out := .next (s.packet q (ofDop 5) State.debugWriteBody)

def execDebugSetBreakpoint (q : Nat) (s : State) : Out := .next (s.packet q (ofDop 6) State.debugSetBody)

def execDebugClearBreakpoint (q : Nat) (s : State) : Out := .next (s.packet q (ofDop 7) State.debugClearBody)

def execCancelPacket (q : Nat) (s : State) : Out := .next (s.packet q (ofType 11) State.cancelBody)

/-! ### DELTA (R327) -/

/-- The shadow with the values of a DELTA merged in: bit k of the mask takes the next value. -/
def mergeShadow (l : List Word) (mask : Nat) (vals : List Word) : List Word :=
  ((List.range 32).foldl (fun (acc : List Word × List Word) k =>
    if mask.testBit k then (acc.1.set k (acc.2.getD 0 0), acc.2.drop 1) else acc) (l, vals)).1

/-- Whether a DELTA breaks its layout. -/
def deltaBad (p : Pkt) : Bool :=
  let w := p.w 1
  let mask := w.bits 0 32
  let n := countBits 32 mask
  let bt := w.bits 32 8
  w.bits 41 23 != 0 || decide (6 < n) || mask.testBit 7 || ((p.ws.drop 1).drop n).any (fun v => v != 0)
    || (w.bit 40 && !(bt == 1 || (decide (3 ≤ bt) && decide (bt ≤ 11))))

/-- A DELTA: the merged shadow, and with GO the packet that it builds under the same header. -/
def State.delta (s : State) (q : Nat) (p : Pkt) : Disp × List Word :=
  let w := p.w 1
  let l := mergeShadow (s.qShadow q) (w.bits 0 32) (p.ws.drop 1)
  if deltaBad p then (.packet 0, l)
  else if !w.bit 40 then (if p.hdr.bit 18 ∧ s.openJobs q ≠ [] then .stay s else .go (s.plain q p), l)
  else
    let b : Pkt := { hdr := p.hdr, ws := l.take 7 }
    let typ := w.bits 32 8
    ((s.setShadow q l).runBody q typ b fun s q p => s.bodyOf q typ p, l)

/-- DELTA_PACKET: the merge and the dispatch are one step; a built packet that fails, or that waits, leaves the shadow as it was. -/
def execDeltaPacket (q : Nat) (s : State) : Out :=
  .next (if !s.mayDispatch q then s
    else match s.qPeek q with
      | (.ok (some ws), s1) =>
        let p : Pkt := { hdr := ws.getD 0 0, ws := ws.drop 1 }
        if p.typ ≠ 2 then s
        else
          let r := match s1.headBad q p with
            | some d => (d, [])
            | none => s1.delta q p
          match r.1 with
          | .bad err code => s1.queueError q err code p.hdr (s1.qRdx q)
          | .stay s2 => s2.setShadow q (s1.qShadow q)
          | .go s2 => s2.dispatched q (if (p.w 1).bit 40 then 1 else 0) (some r.2)
      | _ => s)

/-- The event that dispatches the packet at RDX of a queue, by its type. -/
def State.packetEvent (s : State) (q : Nat) : Ev :=
  match (s.qPeek q).1 with
  | .ok (some ws) =>
    let p : Pkt := { hdr := ws.getD 0 0, ws := ws.drop 1 }
    match p.typ with
    | 1 => .launchPacket q
    | 2 => .deltaPacket q
    | 3 => .copyPacket q
    | 4 => .waitPacket q
    | 5 => .signalPacket q
    | 6 => .fencePacket q
    | 7 => match (p.w 1).bits 0 3 with
      | 1 => .tableStart q
      | 2 => .tableSwitch q
      | 3 => .tableAcknowledge q
      | 4 => .tableRemove q
      | _ => .tableInstall q
    | 8 => match (p.w 1).bits 0 2 with
      | 0 => .modePrio q
      | 1 => .modePause q
      | 2 => .modePubto q
      | _ => .modeReslim q
    | 9 => .graphPacket q
    | 10 => match (p.w 1).bits 0 3 with
      | 0 => .debugAttach q
      | 1 => .debugDetach q
      | 2 => .debugHalt q
      | 3 => .debugResume q
      | 4 => .debugReadState q
      | 5 => .debugWriteState q
      | 6 => .debugSetBreakpoint q
      | _ => .debugClearBreakpoint q
    | 11 => .cancelPacket q
    | _ => .nopPacket q
  | _ => .nopPacket q

end Sys2Proof.Machine
end

