-- ==== Sys2Proof/Machine/Links.lean ====
section
/-! DEFINITION. Die links and peer ports: training and states (R15, R16, R384, R389 to R391, R393, R394). A link is numbered
4 · die + l. -/

namespace Sys2Proof.Machine

/-! ### `LNKSTAT` (R389) -/

/-- Field [lo + n - 1 : lo] of `LNKSTAT` set. -/
def State.setLnk (s : State) (k lo n v : Nat) : State :=
  let w := s.lnk k
  s.setDcsr (k / 4) (0x8600 + k % 4) (Word.ofN (w.toNat - w.bits lo n * 2 ^ lo + v % 2 ^ n * 2 ^ lo))

def State.setLnkState (s : State) (k st : Nat) : State := s.setLnk k 60 4 st

/-- A saturating count of `n` bits at `lo` stepped. -/
def State.stepLnk (s : State) (k lo n : Nat) : State :=
  let v := (s.lnk k).bits lo n
  s.setLnk k lo n (if v + 1 < 2 ^ n then v + 1 else v)

def State.linkRun (s : State) (k : Nat) : LinkRun := tabGet LinkRun.init s.links k

def State.setLinkRun (s : State) (k : Nat) (r : LinkRun) : State := { s with links := tabPut s.links k r }

/-- Whether a die has the link: the peer ports are on dies 0 and 2 (R384). -/
def linkThere (k : Nat) : Bool := decide (k < 16) && (k % 4 != 3 || k / 4 % 2 == 0)

/-- Whether a link joins another package. -/
def isPeer (k : Nat) : Bool := k % 4 == 3

/-- Cycles of training and of retraining (R390). -/
def trainLimit : Nat := 10000000

def retrainLimit : Nat := 20000

/-- A link that changes its state: the Umber core learns of it, and the host when the link has failed (R408). -/
def State.moveLnk (s : State) (k st : Nat) : State :=
  let code := if st = lnkFailed then ftLink else 0
  let s1 := (s.setLnkState k st).umberEvent evFault 0 code 0 (Word.ofN (k % 4)) (k / 4)
  if st = lnkFailed then s1.hostEvent evFault 0 code 0 (Word.ofN (k % 4)) (k / 4) else s1

/-- A link that begins to train. -/
def State.trainLink (s : State) (k : Nat) : State :=
  ((s.moveLnk k lnkTraining).setLnk k 0 8 0).setLinkRun k { LinkRun.init with limit := s.cycle + trainLimit }

/-- A record for the log of the configuration record, which keeps 256 (R429). -/
def State.logEvent (s : State) (code die : Nat) (d0 d1 : Word) : State :=
  let l := s.recLog ++ [{ kind := evFault, code := code, queue := 0xFFFF, ctx := 0, die := die, tag := 0, data0 := d0, data1 := d1 }]
  { s with recLog := l.drop (l.length - 256) }

/-- A link that has failed, with its code (R390): a die whose link to HB has failed takes no part in work (R16, R393). -/
def State.failLink (s : State) (k code : Nat) : State :=
  let s1 := ((s.moveLnk k lnkFailed).setLnk k 0 8 code).setLinkRun k { s.linkRun k with ahead := [] }
  if k % 4 = 2 then { s1 with downDies := setIns s1.downDies (k / 4) }.logEvent ftLink (k / 4) (Word.ofN k) (Word.ofN code) else s1

/-- The number that the storage port has among the links: its root port trains with its partner (R15, log entry 103). -/
def storageLink : Nat := 16

/-- LINK_TRAINING_DONE: the partner's options, its highest version, its ring position and the modules in service. At the storage port a
partner that offers an unlisted option is refused, and the port is reported down (R15). -/
def execLinkTrainingDone (link ver : Nat) (optOk posOk : Bool) (mods : Nat) (s : State) : Out :=
  .next (if link = storageLink then { s with storageUp := optOk }
    else if !linkThere link ∨ s.lnkState link ≠ lnkTraining ∨ s.cycle > (s.linkRun link).limit then s
    else if !optOk then s.failLink link 1
    else if ver = 0 then s.failLink link 2
    else if isPeer link && !posOk then s.failLink link 5
    else
      let v := if ver < 2 then ver else 2
      ((s.moveLnk link lnkUp).setLnk link 56 4 v).setLnk link 52 4 mods)

/-- LINK_TRAINING_TIMEOUT: 10 ms without success. -/
def execLinkTrainingTimeout (link : Nat) (s : State) : Out :=
  .next (if s.lnkState link = lnkTraining ∧ (s.linkRun link).limit ≤ s.cycle then s.failLink link 3 else s)

/-- LINK_LANE_FAILURE: a spare lane of the module takes over; without one the module fails, which is its own event. -/
def execLinkLaneFailure (link : Nat) (spare : Bool) (s : State) : Out :=
  .next (if s.lnkState link = lnkUp ∧ spare then s.stepLnk link 8 8 else s)

/-- LINK_MODULE_FAILURE: the module's positions go; with the last one the link fails (R393). -/
def execLinkModuleFailure (link mod : Nat) (s : State) : Out :=
  .next (if s.lnkState link ≠ lnkUp then s
    else
      let m := (s.lnk link).bits 52 4
      let m1 := if m.testBit mod then m - 2 ^ mod else m
      let s1 := s.setLnk link 52 4 m1
      if m1 = 0 then s1.failLink link 0 else s1)

/-! ### `PEERCFG` (R394) -/

def peer0 : Nat := 3
def peer1 : Nat := 11

/-- PEERCFG_WRITE: accepted while both peer ports are OFF or FAILED and POS is below NPKG + 1; EN trains the ports that are OFF. -/
def execPeercfgWrite (w : Word) (s : State) : Out :=
  let idle (k : Nat) : Bool := s.lnkState k == lnkOff || s.lnkState k == lnkFailed
  .next (if !idle peer0 ∨ !idle peer1 ∨ w.bits 8 3 < w.bits 4 3 then s
    else
      let s1 := s.setPkgCsr 0x8680 (w &&& 0x771)
      if !w.bit 0 then s1
      else [peer0, peer1].foldl (fun s k => if s.lnkState k = lnkOff then s.trainLink k else s) s1)

end Sys2Proof.Machine
end

