-- ==== Sys2Proof/Machine/Wire.lean ====
section
/-! DEFINITION. f32 values as they cross a link: groups with a common exponent base (R36, R37, R398). A bit string is the list of its
bits, the lowest first. -/

namespace Sys2Proof.Machine

/-! ### Bit strings -/

/-- The low `n` bits of a number. -/
def wireBits (n v : Nat) : List Bool := (List.range n).map v.testBit

/-- The number that a bit string is. -/
def wireNat : List Bool → Nat
  | [] => 0
  | b :: r => (if b then 1 else 0) + 2 * wireNat r

/-- A bit string as bytes, padded with zero bits to a byte boundary. -/
def packBytes : Nat → List Bool → List Byte
  | 0, _ => []
  | fuel + 1, l => if l.isEmpty then [] else BitVec.ofNat 8 (wireNat (l.take 8)) :: packBytes fuel (l.drop 8)

def unpackBytes (bs : List Byte) : List Bool := bs.flatMap fun b => wireBits 8 b.toNat

/-! ### Groups (R36) -/

/-- The exponent field of an f32. -/
def expField (v : Nat) : Nat := v / 2 ^ 23 % 256

/-- BASE of a group, unless it is raw: its smallest exponent field. -/
def groupBase (vs : List Nat) : Nat := vs.foldl (fun m v => if expField v < m then expField v else m) 255

def groupTop (vs : List Nat) : Nat := vs.foldl (fun m v => if m < expField v then expField v else m) 0

/-- KW: the smallest width of 4 or less that holds every delta, else 7. -/
def groupWidth (vs : List Nat) : Nat :=
  (([0, 1, 2, 3, 4] : List Nat).find? fun k => decide (groupTop vs - groupBase vs ≤ 2 ^ k - 1)).getD 7

/-- The bits of a record: the delta, the fraction, the sign; or the raw value. -/
def recordLen (k : Nat) : Nat := if k = 7 then 32 else 24 + k

def packRecord (k base v : Nat) : List Bool :=
  wireBits (recordLen k) (if k = 7 then v else (expField v - base) + v % 2 ^ 23 * 2 ^ k + v / 2 ^ 31 % 2 * 2 ^ (23 + k))

/-- The value of a record's bits. -/
def recordValue (k base w : Nat) : Nat :=
  if k = 7 then w else w / 2 ^ k % 2 ^ 23 + (base + w % 2 ^ k) % 256 * 2 ^ 23 + w / 2 ^ (23 + k) % 2 * 2 ^ 31

/-- A group of 1 to 32 values: the header, then a record each. -/
def packGroup (vs : List Nat) : List Bool :=
  let k := groupWidth vs
  let base := if k = 7 then 0 else groupBase vs
  wireBits 16 (base * 256 + k * 32 + (vs.length - 1)) ++ vs.flatMap (packRecord k base)

/-- Values in groups of 32, the last one with what remains (R398). -/
def packVals : Nat → List Nat → List Bool
  | 0, _ => []
  | fuel + 1, vs => if vs.isEmpty then [] else packGroup (vs.take 32) ++ packVals fuel (vs.drop 32)

/-- The bytes of a node's values. -/
def packNode (vs : List Nat) : List Byte :=
  let l := packVals vs.length vs
  packBytes l.length l

/-! ### What a receiver reads (R37) -/

/-- What a receiver makes of a string: its values, a string that goes on in later flits, or a group whose KW is 5 or 6. -/
inductive Unpacked where
  | vals (l : List Nat)
  | short
  | bad
deriving DecidableEq, Repr

/-- The records of a group. -/
def unpackRecords (k base : Nat) : Nat → List Bool → List Nat
  | 0, _ => []
  | n + 1, l => recordValue k base (wireNat (l.take (recordLen k))) :: unpackRecords k base n (l.drop (recordLen k))

/-- `n` values from a string of groups. -/
def unpackVals : Nat → Nat → List Bool → Unpacked
  | _, 0, _ => .vals []
  | 0, _ + 1, _ => .short
  | fuel + 1, n, l =>
    let h := wireNat (l.take 16)
    let k := h / 32 % 8
    let cnt := h % 32 + 1
    let body := l.drop 16
    if l.length < 16 then .short
    else if k = 5 ∨ k = 6 then .bad
    else if body.length < cnt * recordLen k then .short
    else match unpackVals fuel (n - cnt) (body.drop (cnt * recordLen k)) with
      | .vals r => .vals (unpackRecords k (h / 256 % 256) cnt body ++ r)
      | x => x

/-- The values of a node's bytes, of which it has `n`. -/
def unpackNode (n : Nat) (bs : List Byte) : Unpacked := unpackVals n n (unpackBytes bs)

/-- Values as they arrive over a link (R37): each is the 32 bits that were sent. -/
def crossWire (vs : List Nat) : List Nat :=
  match unpackNode vs.length (packNode vs) with
  | .vals l => l
  | _ => []

end Sys2Proof.Machine
end

