-- ==== Sys2Proof/Machine/Collect.lean ====
section
/-! DEFINITION. The collective engines: barriers across dies and packages, reductions, broadcasts, gathers and messages (R366, R367,
R394 to R403). -/

namespace Sys2Proof.Machine

/-! ### Members (R366, R394, R395) -/

def State.ringPos (s : State) : Nat := (s.pkgCsr 0x8680).bits 4 3

def State.ringSize (s : State) : Nat := (s.pkgCsr 0x8680).bits 8 3 + 1

/-- The members of a member operand in rank order: package position and logical die. -/
def members (a : Word) : List (Nat × Nat) :=
  ((bitsBelow 8 (a.bits 16 8)).map fun p => (bitsBelow 4 (a.bits 8 4)).map fun d => (p, d)).flatten

/-- Whether a member operand breaks its limits for an issuer of logical die `ld`. -/
def State.memberBad (s : State) (a : Word) (ld : Nat) : Bool :=
  a.bits 24 40 != 0 || a.bits 12 4 != 0 || a.bits 4 4 != 0 || !(a.bits 8 4).testBit ld || !(a.bits 16 8).testBit s.ringPos
    || (bitsBelow 8 (a.bits 16 8)).any fun p => decide (s.ringSize ≤ p)

/-- The peer port by which traffic goes to another ring position, and whether it has failed (R393, R394). -/
def State.peerPort (s : State) (p : Nat) : Option Nat :=
  let n := s.ringSize
  let there := (p + n - s.ringPos) % n
  let back := (s.ringPos + n - p) % n
  if there = 0 then none else some (if there ≤ back then peer0 else peer1)

def State.peerFailed (s : State) (p : Nat) : Bool :=
  match s.peerPort p with
  | none => false
  | some k => s.lnkState k == lnkFailed

/-- Whether that port carries flits: it is UP. -/
def State.peerUp (s : State) (p : Nat) : Bool :=
  match s.peerPort p with
  | none => true
  | some k => s.lnkState k == lnkUp

def State.rankOf (s : State) (c : CCmd) : Nat := (members c.a).findIdx fun m => m == (s.ringPos, c.ld)

def CCmd.id (c : CCmd) : Nat := c.a.bits 0 4

/-- Members in other packages. -/
def State.remote (s : State) (c : CCmd) : List (Nat × Nat) := (members c.a).filter fun m => m.1 != s.ringPos

/-- Whether a collective has a member across a failed port: it ends with `FT_LINK` (R393). -/
def State.cutOff (s : State) (c : CCmd) : Bool := (s.remote c).any fun m => s.peerFailed m.1

/-! ### Descriptors (R396) -/

def CCmd.word (c : CCmd) (k : Nat) : Word := c.desc.getD k 0

def CCmd.len (c : CCmd) : Nat := (c.word 2).bits 0 32

def CCmd.leaves (c : CCmd) : Nat := (c.word 2).bits 32 32

def CCmd.first (c : CCmd) : Nat := (c.word 3).bits 0 32

def CCmd.nleaf (c : CCmd) : Nat := (c.word 3).bits 32 32

/-- Whether an instruction is one of the three that carry data in a generation, `ccbar`, or a message. -/
def isPair : Instr → Bool
  | .ccsend _ _ _ _ _ => true
  | .ccrecv _ _ _ _ _ => true
  | _ => false

def isBar : Instr → Bool
  | .ccbar _ _ _ _ => true
  | _ => false

def redOp : Instr → Option CcOp
  | .ccred _ _ _ _ op => some op
  | _ => none

def isBc : Instr → Bool
  | .ccbc _ _ _ _ => true
  | _ => false

def isSend : Instr → Bool
  | .ccsend _ _ _ _ _ => true
  | _ => false

/-- The kind of an instruction, as one generation's members must agree on it (R395). -/
def ccKind (i : Instr) : Nat :=
  match i with
  | .ccred _ _ _ _ .fadd => 0
  | .ccred _ _ _ _ .fmin => 1
  | .ccred _ _ _ _ .fmax => 2
  | .ccred _ _ _ _ .iadd => 3
  | .ccbc _ _ _ _ => 4
  | .ccag _ _ _ _ => 5
  | .ccsend _ _ _ _ _ => 6
  | .ccrecv _ _ _ _ _ => 7
  | _ => 8

/-- A bad field of a descriptor: the command ends with `FT_CHECK` before any data moves. -/
def CCmd.fieldBad (c : CCmd) : Bool :=
  !isBar c.i && ((c.word 4).bits 2 30 != 0 || c.word 5 != 0 || c.len == 0 || (match redOp c.i with
    | some _ => decide (2 ^ 24 < c.len ∨ c.leaves = 0 ∨ 65536 < c.leaves ∨ c.leaves < c.first + c.nleaf)
    | none => decide (2 ^ 30 < c.len) || c.leaves != 0 || c.nleaf != 0
        || (if isBc c.i then decide ((members c.a).length ≤ c.first) else c.first != 0)))

/-- The timeout in cycles: of `ccbar` its operand, of the others TMO; 0 for none. -/
def CCmd.timeout (c : CCmd) : Nat := 1000 * (if isBar c.i then c.b.bits 0 32 else (c.word 4).bits 32 32)

/-! ### Buffers: bytes of space D or P -/

/-- The physical die of a command's member. -/
def State.ccDie (s : State) (c : CCmd) : Nat := s.physDie c.ctx c.ld

/-- `n` bytes of a space with their poison, or a fault code. -/
def State.ccGet (s : State) (die ctx space : Nat) (a : Word) (n : Nat) : Except Nat Obj × State :=
  if space = 0 then
    if a.bits 48 16 ≠ 0 then (.error ftAddr, s)
    else match s.vGetAll die 0 ctx a.toNat n with
      | (.ok bs, s1) => (.ok bs, s1)
      | (.error _, s1) => (.error ftPage, s1)
  else match s.partOf ctx false a with
    | .error c => (.error c, s)
    | .ok (p, off) =>
      if 2 ^ 21 < off + n then (.error ftAddr, s)
      else (.ok ((List.range n).map fun k =>
        let v := s.pdb.load 8 (partKey p (off + k)) 1
        (BitVec.ofNat 8 v.v.toNat, v.p)), s.correct spP (partKey p off) n)

/-- Bytes with their poison stored in a space. -/
def State.ccPut (s : State) (die ctx space : Nat) (a : Word) (bs : Obj) : Except Nat State :=
  if space = 0 then
    if a.bits 48 16 ≠ 0 then .error ftAddr
    else match s.vPutAll die 0 ctx a.toNat bs with
      | .ok s1 => .ok s1
      | .error _ => .error ftPage
  else match s.partOf ctx false a with
    | .error c => .error c
    | .ok (p, off) =>
      if 2 ^ 21 < off + bs.length then .error ftAddr
      else .ok ((blockCut bs.length off bs).foldl (fun s c =>
        (List.range 4).foldl (fun s k =>
          let lo := 8 * (c.1 / 8 + k)
          let part := (List.range c.2.length).filterMap fun j => if lo ≤ c.1 + j ∧ c.1 + j < lo + 8 then c.2[j]? else none
          let at_ := if lo < c.1 then c.1 else lo
          if part.isEmpty then s else s.pPut (partKey p at_) (part.map Prod.fst) (part.any Prod.snd)) s) s)

/-! ### The canonical tree (R397) -/

/-- Op on two elements of a node. -/
def ccApply (op : CcOp) (x y : Val) : Val × Flags :=
  let r : Word × Flags := match op with
    | .fadd => sredOp .add .f32 false x.v y.v
    | .fmin => sredOp .min .f32 false x.v y.v
    | .fmax => sredOp .max .f32 false x.v y.v
    | .iadd => (x.v + y.v, 0)
  ({ v := r.1, p := x.p || y.p }, r.2)

/-- A node of the tree: the die of the member that holds all its leaves, none once it has crossed a link or spans members, and its
vector. -/
structure CcNode where
  own : Option Nat
  vals : List Val
deriving DecidableEq, Repr

/-- Whether the values of an operation are f32. -/
def ccFloat (op : CcOp) : Bool := op != .iadd

/-- A vector as its links carry it: compressed where one runs VER 2 (R398). Poison goes with its element. -/
def ccCross (op : CcOp) (packed : Bool) (vs : List Val) : List Val :=
  if ccFloat op && packed then
    List.zipWith (fun v n => { v with v := Word.ofN n }) vs (crossWire (vs.map fun v => v.v.bits 0 32))
  else vs

/-- A node as another member has it. -/
def CcNode.sent (op : CcOp) (packed : Nat → Bool) (n : CcNode) : List Val :=
  match n.own with
  | some d => ccCross op (packed d) n.vals
  | none => n.vals

/-- The node over two nodes: the member that holds both computes it, else both are sent and the engines combine them. -/
def ccJoin (op : CcOp) (packed : Nat → Bool) (x y : CcNode) : CcNode × Flags :=
  let mine := x.own.isSome && x.own == y.own
  let rs := List.zipWith (ccApply op) (if mine then x.vals else x.sent op packed) (if mine then y.vals else y.sent op packed)
  ({ own := if mine then x.own else none, vals := rs.map Prod.fst }, rs.foldl (fun f r => f ||| r.2) 0)

/-- One level of the tree from the level below; an odd last node is carried up unchanged. -/
def ccLevel (op : CcOp) (packed : Nat → Bool) : List CcNode → List CcNode × Flags
  | x :: y :: r =>
    let a := ccJoin op packed x y
    let b := ccLevel op packed r
    (a.1 :: b.1, a.2 ||| b.2)
  | l => (l, 0)

/-- The root of the tree over a list of leaves. -/
def ccTree (op : CcOp) (packed : Nat → Bool) : Nat → List CcNode → CcNode × Flags
  | 0, l => (l.headD { own := none, vals := [] }, 0)
  | fuel + 1, l => match l with
    | [] => ({ own := none, vals := [] }, 0)
    | [x] => (x, 0)
    | l =>
      let a := ccLevel op packed l
      let b := ccTree op packed fuel a.1
      (b.1, a.2 ||| b.2)

def ccWidth (op : CcOp) : Nat := if op = .iadd then 8 else 4

/-- The members in other packages that a command's generation, or its pair, waits for. -/
def State.partners (s : State) (c : CCmd) : List (Nat × Nat) :=
  if isPair c.i then ((members c.a)[c.peer]?).toList.filter fun m => m.1 != s.ringPos else s.remote c

/-! ### Ends -/

def State.ccList (s : State) (die : Nat) : List CCmd := tabGet [] s.ccs die

/-- A command ends at its engine: the counter, and its poison mark after a fault. -/
def State.ccEnd (s : State) (die : Nat) (c : CCmd) (fault : Option Nat) : State :=
  let s1 := { s with ccs := tabPut s.ccs die ((s.ccList die).filter fun e => !(e.ctx == c.ctx && e.num == c.num)) }
  s1.finishNo (s1.engKey c.ctx die 24) c.num fault.isSome

/-- What a command joins: the generation of its ID, or the place of its pair. -/
def State.ccGroup (s : State) (c : CCmd) : Nat × Nat :=
  if isPair c.i then
    let me := s.rankOf c
    let key := if isSend c.i then me * 32 + c.peer else c.peer * 32 + me
    (16 + c.id * 1024 + key, c.gen)
  else (c.id, c.gen)

/-- The commands that stand in a command's generation or pair, with their dies. -/
def State.ccMates (s : State) (c : CCmd) : List (Nat × CCmd) :=
  ((s.ccs.map fun e => (e.2.filter fun x => x.ctx == c.ctx && s.ccGroup x == s.ccGroup c).map fun x => (e.1, x))).flatten

/-- A generation or pair ends in a fault: at every member that stands in it now, and at those that join it later. -/
def State.ccFault (s : State) (c : CCmd) (code : Nat) : State :=
  let g := s.ccGroup c
  let s1 := { s with ccDead := s.ccDead ++ [(c.ctx, g.1, g.2, code)] }
  (s.ccMates c).foldl (fun s e => s.ccEnd e.1 e.2 (some code)) s1

/-- It ends well at every member here. -/
def State.ccDone (s : State) (c : CCmd) : State := (s.ccMates c).foldl (fun s e => s.ccEnd e.1 e.2 none) s

/-! ### What a complete generation does -/

/-- Members of a generation that are of this package, and whether all of them have started. -/
def State.ccAll (s : State) (c : CCmd) : Bool :=
  if isPair c.i then
    match (members c.a)[c.peer]? with
    | some m => m.1 != s.ringPos || decide (2 ≤ (s.ccMates c).length)
    | none => true
  else
    let here := (members c.a).filter fun m => m.1 == s.ringPos
    here.all fun m => (s.ccMates c).any fun e => e.2.ld == m.2

/-- Whether the members here disagree: on the masks, which is `FT_BAR`, or on the instruction and its lengths, which is `FT_CHECK`. -/
def State.ccDiffer (s : State) (c : CCmd) : Option Nat :=
  let l := (s.ccMates c).map Prod.snd
  if isPair c.i then (if l.any fun x => x.len != c.len then some ftCheck else none)
  else if l.any fun x => x.a != c.a then some ftBar
  else if l.any fun x => ccKind x.i != ccKind c.i || (!isBar c.i && (x.len != c.len || x.leaves != c.leaves
      || (isBc c.i && x.first != c.first))) then some ftCheck
  else none

/-- The next `n` free words (log entry 31). -/
def State.freeWords (s : State) (n : Nat) : List Word × State :=
  ((List.range n).map fun k => Config.freeWord (s.free + k), { s with free := s.free + n })

/-- Bytes that another package sends: free values, each with a free poison bit (log entry 31). -/
def State.freeBytes (s : State) (n : Nat) : Obj × State :=
  let w := s.freeWords n
  (w.1.map fun v => (BitVec.ofNat 8 v.toNat, v.bit 8), w.2)

/-- The leaves of `ccred` here, by number with their member's die, or a fault: each member's own, which must not overlap. -/
def State.ccLeaves (s : State) (op : CcOp) (l : List (Nat × CCmd)) : Except Nat (List (Nat × Nat × Obj)) × State :=
  l.foldl (fun acc e =>
    let c := e.2
    let size := c.len * ccWidth op
    (List.range c.nleaf).foldl (fun (acc : Except Nat (List (Nat × Nat × Obj)) × State) k => match acc with
      | (.error x, s) => (.error x, s)
      | (.ok got, s) =>
        if (c.word 0).toNat % ccWidth op ≠ 0 then (.error ftAlign, s)
        else match s.ccGet e.1 c.ctx ((c.word 4).bits 0 1) (c.word 0 + Word.ofN (k * size)) size with
          | (.error x, s1) => (.error x, s1)
          | (.ok bs, s1) =>
            (if got.any (fun g => g.1 == c.first + k) then .error ftCheck else .ok (got ++ [(c.first + k, e.1, bs)]), s1)) acc) (.ok [], s)

/-- Whether a die sends over a link of VER 2, on which f32 values travel compressed (R391, R398). -/
def State.packs (s : State) (die : Nat) : Bool := (s.lnk (4 * die)).bits 56 4 == 2 || (s.lnk (4 * die + 1)).bits 56 4 == 2

/-- The result vector of `ccred` and its flags; leaves that are not here come from other packages, free values. The root of a single
member is sent to the others. -/
def State.ccReduce (s : State) (op : CcOp) (len leaves : Nat) (got : List (Nat × Nat × Obj)) : Obj × Flags × State :=
  let w := ccWidth op
  let node (own : Option Nat) (o : Obj) : CcNode := { own := own, vals := (List.range len).map fun j => objVal o (j * w) w }
  let all := (List.range leaves).foldl (fun (acc : List CcNode × State) k => match got.find? fun g => g.1 == k with
    | some g => (acc.1 ++ [node (some g.2.1) g.2.2], acc.2)
    | none =>
      let f := acc.2.freeBytes (len * w)
      (acc.1 ++ [node none f.1], f.2)) ([], s)
  let r := ccTree op s.packs 17 all.1
  (((r.1.sent op s.packs).map fun v => valBytes v w).flatten, r.2, all.2)

/-- A result written at DST of each member here. -/
def State.ccWrite (s : State) (l : List (Nat × CCmd)) (off : CCmd → Nat) (bs : Obj) : Except Nat State :=
  l.foldl (fun acc e => match acc with
    | .error c => .error c
    | .ok s => s.ccPut e.1 e.2.ctx ((e.2.word 4).bits 1 1) (e.2.word 1 + Word.ofN (off e.2)) bs) (.ok s)

/-- `CFLAG` of a context with flags raised (R397). -/
def State.addCflag (s : State) (ctx : Nat) (f : Flags) : State :=
  s.setCcsr ctx 0x1040 (Word.ofN (s.ccsrAt ctx 0x1040 ||| Word.ofN f.toNat).toNat)

/-- LEN bytes of the member of rank `r`: its SRC, or, in another package, free values. -/
def State.ccSource (s : State) (l : List (Nat × CCmd)) (r len : Nat) : Except Nat Obj × State :=
  match l.find? fun e => s.rankOf e.2 == r with
  | some e => s.ccGet e.1 e.2.ctx ((e.2.word 4).bits 0 1) (e.2.word 0) len
  | none =>
    let f := s.freeBytes len
    (.ok f.1, f.2)

/-- The data of a generation or pair whose members have all started, moved. -/
def State.ccMove (s : State) (c : CCmd) : Except Nat State :=
  let l := s.ccMates c
  match c.i with
  | .ccred _ _ _ _ op =>
    match s.ccLeaves op l with
    | (.error x, _) => .error x
    | (.ok got, s) =>
      if (s.remote c).isEmpty ∧ got.length ≠ c.leaves then .error ftCheck
      else
        let r := s.ccReduce op c.len c.leaves got
        if l.any fun e => (e.2.word 1).toNat % ccWidth op != 0 then .error ftAlign
        else match r.2.2.ccWrite l (fun _ => 0) r.1 with
          | .error x => .error x
          | .ok s1 => .ok (s1.addCflag c.ctx r.2.1)
  | .ccbc _ _ _ _ => match s.ccSource l c.first c.len with
    | (.error x, _) => .error x
    | (.ok bs, s1) => s1.ccWrite l (fun _ => 0) bs
  | .ccag _ _ _ _ =>
    let all := (List.range (members c.a).length).foldl (fun (acc : Except Nat (List Obj) × State) r => match acc with
      | (.error x, s) => (.error x, s)
      | (.ok os, s) => match s.ccSource l r c.len with
        | (.error x, s1) => (.error x, s1)
        | (.ok bs, s1) => (.ok (os ++ [bs]), s1)) (.ok [], s)
    match all with
    | (.error x, _) => .error x
    | (.ok os, s1) => s1.ccWrite l (fun _ => 0) os.flatten
  | .ccbar _ _ _ _ => .ok s
  | _ =>
    match l.find? (fun e => isSend e.2.i), l.find? (fun e => !isSend e.2.i) with
    | some a, some b => match s.ccGet a.1 a.2.ctx ((a.2.word 4).bits 0 1) (a.2.word 0) c.len with
      | (.error x, _) => .error x
      | (.ok bs, s1) => s1.ccPut b.1 b.2.ctx ((b.2.word 4).bits 1 1) (b.2.word 1) bs
    | some _, none => .ok s
    | none, some b =>
      let f := s.freeBytes c.len
      f.2.ccPut b.1 b.2.ctx ((b.2.word 4).bits 1 1) (b.2.word 1) f.1
    | none, none => .ok s

/-- A fault that a member in another package brings: a free choice of none, `FT_BAR`, `FT_CHECK` or `FT_LINK` (log entry 31). -/
def State.remoteFault (s : State) (c : CCmd) : Option Nat × State :=
  if (s.partners c).isEmpty then (none, s)
  else
    let f := s.freeWords 1
    let w := f.1.headD 0
    (match w.bits 0 2 with
      | 0 => none
      | 1 => some ftBar
      | 2 => some ftCheck
      | _ => some ftLink, f.2)

/-- Whether the links between the members here, from them to the peer ports that their partners lie behind, and to the partitions of
their buffers are UP: what crosses another link waits there (R9, R393). -/
def State.ccWays (s : State) (c : CCmd) : Bool :=
  let l := s.ccMates c
  let near (e : Nat × CCmd) (space : Nat) (a : Word) : Bool := space == 0 || (match s.partOf e.2.ctx false a with
    | .ok (p, _) => s.engReach e.1 (p / 48)
    | .error _ => true)
  l.all fun e => l.all (fun x => s.dieReach e.1 x.1)
    && (s.partners c).all (fun m => s.peerUp m.1 && (match s.peerPort m.1 with
      | some k => s.dieReach e.1 (k / 4)
      | none => true))
    && (isBar c.i || near e ((e.2.word 4).bits 0 1) (e.2.word 0) && near e ((e.2.word 4).bits 1 1) (e.2.word 1))

/-- Whether a command may complete now. -/
def State.ccReady (s : State) (c : CCmd) : Bool :=
  s.ctxWorks c.ctx && (c.fault.isSome || s.cutOff c
    || ((s.ccMates c).all (fun e => decide (e.2.due ≤ s.cycle)) && s.ccAll c && s.ccWays c))

/-- A generation or pair settled: its fault, or its data and its completion at every member here. -/
def State.ccSettle (s : State) (c : CCmd) : State :=
  let code : Option Nat := match c.fault with
    | some x => some x
    | none => if s.cutOff c then some ftLink else s.ccDiffer c
  match code with
  | some x => s.ccFault c x
  | none =>
    let r := s.remoteFault c
    match r.1 with
    | some x => r.2.ccFault c x
    | none => match r.2.ccMove c with
      | .ok s1 => s1.ccDone c
      | .error x => r.2.ccFault c x

/-- COLLECTIVE_COMPLETE: the oldest command of a die's engine that can complete does so, with its generation or pair. -/
def execCollectiveComplete (die : Nat) (s : State) : Out :=
  .next (match (s.ccList die).find? s.ccReady with
    | none => s
    | some c => s.ccSettle c)

/-- CCBAR_TIMEOUT: a command that has not completed within its timeout ends with `FT_BAR`, and so does its generation or pair
(R367, R403). -/
def execCcbarTimeout (die num ctx : Nat) (s : State) : Out :=
  .next (match (s.ccList die).find? fun c => c.ctx == ctx && c.num == num with
    | none => s
    | some c => if c.timeout ≠ 0 ∧ c.started + c.timeout ≤ s.cycle ∧ s.ctxWorks ctx then s.ccFault c ftBar else s)

/-! ### Issue (R366, R400) -/

/-- The logical die of the issuer. -/
def State.curLd (s : State) : Nat := s.logDie s.cur.ctx s.cur.die

/-- The checks of a descriptor address: six words in a plain partition. -/
def State.descAddr (s : State) (b : Word) : Bool × Bool × Bool :=
  match s.partOf s.cur.ctx false b with
  | .error c => (c != ftPoison, b.bits 0 3 != 0, c == ftPoison)
  | .ok (_, off) => (decide (2 ^ 21 < off + 48), b.bits 0 3 != 0, false)

/-- The checks of R366 and R400: operands are the members, then the descriptor or the timeout, then the peer's rank. -/
def State.ccCheck (s : State) (bar pair : Bool) (ops : List Val) : Option Nat :=
  let a := (opn ops 0).v
  let b := (opn ops 1).v
  let c := (opn ops 2).v
  let ld := s.curLd
  let own := (members a).findIdx fun m => m == (s.ringPos, ld)
  let d := if bar then (b.bits 32 32 != 0, false, false) else s.descAddr b
  let peerBad := pair && (c.bits 5 59 != 0 || decide ((members a).length ≤ c.toNat) || c.toNat == own)
  firstCode (s.memberBad a ld || d.1 || peerBad) d.2.1 (d.2.2 || anyP ops)

/-- A command accepted: its number, its generation or place, and its descriptor, which is read now. A generation or pair that has
already ended in a fault ends it too. -/
def State.ccAccept (s : State) (i : Instr) (ops : List Val) : Nat × State :=
  let ctx := s.cur.ctx
  let die := s.cur.die
  let a := (opn ops 0).v
  let b := (opn ops 1).v
  let ld := s.curLd
  let desc : List Word := if isBar i then [] else match s.partOf ctx false b with
    | .ok (p, off) => (List.range 6).map fun k => (s.pdb.load 8 (partKey p (off + 8 * k)) 8).v
    | .error _ => []
  let n := s.takeNo (s.engKey ctx die 24)
  let read := if isBar i then n.2 else match s.partOf ctx false b with
    | .ok (p, off) => n.2.correct spP (partKey p off) 48
    | .error _ => n.2
  let d := read.delay
  let c0 : CCmd := { num := n.1, ctx := ctx, i := i, a := a, b := b, desc := desc, peer := (opn ops 2).v.toNat, ld := ld, gen := 0,
                     started := s.cycle, due := s.cycle + 1 + d.1, fault := none }
  let gkey := 64 * ctx + 4 * c0.id + ld
  let pkey := ((ctx * 16 + c0.id) * 1024 + (s.ccGroup c0).1 % 1024) * 2 + (if isSend i then 0 else 1)
  let g := if isPair i then tabGet 0 d.2.pairs pkey else tabGet 0 d.2.gens gkey
  let s1 := if isPair i then { d.2 with pairs := tabPut d.2.pairs pkey (g + 1) } else { d.2 with gens := tabPut d.2.gens gkey (g + 1) }
  let c1 := { c0 with gen := g }
  let grp := s1.ccGroup c1
  let dead := (s1.ccDead.find? fun e => e.1 == ctx && e.2.1 == grp.1 && e.2.2.1 == grp.2).map fun e => e.2.2.2
  let c2 := { c1 with fault := match dead with
    | some x => some x
    | none => if c1.fieldBad then some ftCheck else none }
  (n.1, { s1 with ccs := tabPut s1.ccs die (s1.ccList die ++ [c2]) })

/-- A collective command; the engine's queue holds 16 (R174). -/
def State.collective (s : State) (i : Instr) (h : Hd) (d : Dst) (srcs : List Src) : State :=
  s.command i h d srcs (fun s ops => s.ccCheck (isBar i) (isPair i) ops) (fun s _ => decide (16 ≤ (s.ccList s.cur.die).length))
    fun s ops => s.ccAccept i ops

def execCcred (h : Hd) (d : Dst) (a b : Src) (op : CcOp) (s : State) : Out := .next (s.collective (.ccred h d a b op) h d [a, b])

def execCcbc (h : Hd) (d : Dst) (a b : Src) (s : State) : Out := .next (s.collective (.ccbc h d a b) h d [a, b])

def execCcag (h : Hd) (d : Dst) (a b : Src) (s : State) : Out := .next (s.collective (.ccag h d a b) h d [a, b])

def execCcsend (h : Hd) (d : Dst) (a b c : Src) (s : State) : Out := .next (s.collective (.ccsend h d a b c) h d [a, b, c])

def execCcrecv (h : Hd) (d : Dst) (a b c : Src) (s : State) : Out := .next (s.collective (.ccrecv h d a b c) h d [a, b, c])

def execCcbar (h : Hd) (d : Dst) (a b : Src) (s : State) : Out := .next (s.collective (.ccbar h d a b) h d [a, b])

end Sys2Proof.Machine
end

