-- ==== Sys2Proof/Machine/Flits.lean ====
section
/-! DEFINITION. What a link's receiver takes: flits and replays, and the end of a retraining (R37, R386, R390, R392, R393, R398). -/

namespace Sys2Proof.Machine

/-! ### Flits (R386, R392) -/

/-- KIND of a flit's header. -/
def flitKind (h : Word) : Nat := h.bits 56 8

/-- Whether a receiver treats a flit as errored. -/
def flitBad (h : Word) (crcOk : Bool) : Bool :=
  let n := h.bits 8 8
  !crcOk || decide (8 ≤ flitKind h) || h.bits 0 8 != 0 || (if flitKind h = 0 then n != 0 else decide (n = 0 ∨ 56 < n))

/-- The cycle of the first spare slot of a position that follows the present cycle: frame time 15 (R385). -/
def State.nextSpare (s : State) (link : Nat) : Nat :=
  let ft := if isPeer link then 2 else 1
  let n := (s.cycle - s.tickAt) / ft
  s.tickAt + ft * (if n % 16 < 15 then n / 16 * 16 + 15 else n / 16 * 16 + 31)

/-- A replay asked for by the receiver: made in the next spare slot, or, where that is taken, a link overrun, which the Umber core
learns of. -/
def State.replay (s : State) (link pos : Nat) : State :=
  let r := s.linkRun link
  let at_ := s.nextSpare link
  if tabGet 0 r.spare pos = at_ then
    (s.stepLnk link 32 16).umberEvent evOverrun 0 0 0 (Word.ofN (link % 4)) (link / 4)
  else (s.setLinkRun link { r with spare := tabPut r.spare pos at_ }).stepLnk link 16 16

/-- The bytes of a KIND 4 flit join its command's string on a link of VER 2; a string whose groups hold a KW of 5 or 6 ends the command
with `FT_LINK` (R37, R398). CHAN is the low 16 bits of the command's number (log entry 101). -/
def State.takeString (s : State) (link : Nat) (f : Flit) : State :=
  let ch := f.head.bits 16 16
  match (s.ccList (link / 4)).find? fun c => c.num % 65536 == ch && (redOp c.i).any ccFloat with
  | none => s
  | some c =>
    let r := s.linkRun link
    let keep (l : List Byte) : State := s.setLinkRun link { r with strings := tabPut r.strings ch l }
    let bs := tabGet [] r.strings ch ++ (f.body.map bytesOfWord).flatten.take (f.head.bits 8 8)
    if (s.lnk link).bits 56 4 ≠ 2 then s
    else match unpackNode c.len bs with
      | .short => keep bs
      | .vals _ => keep []
      | .bad => (keep []).ccFault c ftLink

/-- A flit delivered in order: a replay request acts on the sending side, a collective's bytes are checked as they are decoded. What
else it carries belongs to the request, reply or beat that it moves (log entry 5). -/
def State.deliver (s : State) (link : Nat) (f : Flit) : State :=
  if flitKind f.head = 7 then s.replay link f.pos else if flitKind f.head = 4 then s.takeString link f else s

/-- Flits held behind a replayed one delivered as far as the sequence goes. -/
def State.deliverAhead (s : State) (link pos : Nat) : Nat → State
  | 0 => s
  | fuel + 1 =>
    let r := s.linkRun link
    let n := tabGet 0 r.expect pos
    match r.ahead.find? fun f => f.pos == pos && f.seq == n with
    | none => s
    | some f => ((s.setLinkRun link { r with ahead := r.ahead.erase f, expect := tabPut r.expect pos ((n + 1) % 2 ^ 17) }).deliver link f).deliverAhead
        link pos fuel

/-- FLIT_RECEIVED: an errored flit is asked for again, and after its 8th replay the link retrains; others are delivered in SEQ
order. -/
def execFlitReceived (link pos : Nat) (head : Word) (body : List Word) (crcOk : Bool) (s : State) : Out :=
  .next (if !linkThere link ∨ s.lnkState link ≠ lnkUp ∨ !decide (pos < linkPositions (link % 4)) ∨ !s.posAlive (link / 4) (link % 4) pos then s
    else
      let r := s.linkRun link
      if flitBad head crcOk then
        let n := tabGet 0 r.errors pos + 1
        let s1 := s.setLinkRun link { r with errors := tabPut r.errors pos n, limit := if 8 < n then s.cycle + retrainLimit else r.limit }
        if 8 < n then s1.moveLnk link lnkRetrain else s1
      else
        let f : Flit := { pos := pos, seq := head.bits 32 17, head := head, body := body }
        let n := tabGet 0 r.expect pos
        if f.seq ≠ n then s.setLinkRun link { r with ahead := r.ahead ++ [f] }
        else
          let s1 := s.setLinkRun link { r with expect := tabPut r.expect pos ((n + 1) % 2 ^ 17), errors := tabDel r.errors pos }
          (s1.deliver link f).deliverAhead link pos (r.ahead.length + 1))

/-! ### The end of a retraining (R390, R393) -/

/-- The state in which the ring link of an end had come UP again. -/
def State.linkBack (s : State) (link : Nat) : State :=
  (ringEnds (if link % 4 = 0 then link / 4 else link / 4 + 3)).foldl (fun s k => s.setLnkState k lnkUp) s

/-- Transfers that a ring link held in RETRAIN end with `FT_LINK` at their command when it fails (R393): commands that can do nothing now
and could go on if the link were UP. -/
def State.endHeld (s : State) (link : Nat) : State :=
  if 2 ≤ link % 4 then s
  else
    let up := s.linkBack link
    let strs := s.sisls.flatMap fun e => (e.2.cmds.filter fun c => c.started && !c.finished && !c.done && !c.stall
      && (s.strStep e.1 c).isNone && (up.strStep e.1 c).isSome).map fun c => (e.1, c)
    let ccs := s.ccs.flatMap fun e => e.2.filter fun c => !s.ccReady c && up.ccReady c
    let s1 := strs.foldl (fun s e => s.strFail e.1 e.2 (.code ftLink) true) s
    ccs.foldl (fun s c => s.ccFault c ftLink) s1

/-- LINK_RETRAIN_DONE: passed in time, or failed. -/
def execLinkRetrainDone (link : Nat) (passed : Bool) (s : State) : Out :=
  .next (if s.lnkState link ≠ lnkRetrain then s
    else if passed ∧ s.cycle ≤ (s.linkRun link).limit then (s.moveLnk link lnkUp).setLinkRun link { s.linkRun link with errors := [] }
    else (s.endHeld link).failLink link 4)

end Sys2Proof.Machine
end

