-- ==== Sys2Proof/Machine/Contexts.lean ====
section
/-! DEFINITION. Contexts: creation, the pre-emption ladder, save, restore and teardown (R214, R257, R293, R333, R334, R338 to R351,
R364). -/

namespace Sys2Proof.Machine

/-! ### `CTXSTAT` and `CTXSAVE` (R339) -/

def State.ctxStat (s : State) (ctx : Nat) : Word := s.pkgCsr (0x8B80 + ctx)

/-- `CTXSTAT` from its fields. -/
def State.putCtx (s : State) (ctx st rung map code : Nat) : State :=
  s.setPkgCsr (0x8B80 + ctx) (Word.ofN (st * 2 ^ 60 + rung % 4 * 2 ^ 58 + map * 2 ^ 50 + code))

def State.ctxMap (s : State) (ctx : Nat) : Nat := (s.ctxStat ctx).bits 50 8

/-- A new STATE, with RUNG, MAP and CODE as they were. -/
def State.toCtx (s : State) (ctx st : Nat) : State :=
  let w := s.ctxStat ctx
  s.putCtx ctx st (w.bits 58 2) (w.bits 50 8) (w.bits 0 8)

/-- CODE of a refused or failed operation. -/
def State.ctxCode (s : State) (ctx code : Nat) : State :=
  let w := s.ctxStat ctx
  s.putCtx ctx (w.bits 60 4) (w.bits 58 2) (w.bits 50 8) code

def State.ctxSave (s : State) (ctx : Nat) : Word := s.pkgCsr (0x8B40 + ctx)

/-- The first byte of the save area. -/
def State.saveBase (s : State) (ctx : Nat) : Nat := (s.ctxSave ctx).bits 12 28 * 4096

/-- Bytes of shadow storage that a `CTXSAVE` reserves on each die. -/
def quotaBytes (w : Word) : Nat := w.bits 56 8 * 0x20E000 + w.bits 52 4 * 143360

/-- Bytes of a die's shadow pool (R342). -/
def State.poolBytes (s : State) (die : Nat) : Nat := countBits 48 ((s.dcsrAt die 0x8BC0).bits 0 48) * 2 ^ 21

/-- CTXSAVE_WRITE: only while the context is FREE, with QF at most 23, and with the quotas of all contexts inside every pool. -/
def execCtxsaveWrite (ctx : Nat) (w : Word) (s : State) : Out :=
  let others := ((List.range 64).filter fun c => c != ctx).foldl (fun n c => n + quotaBytes (s.ctxSave c)) 0
  .next (if s.ctxState ctx ≠ ctxFree ∨ 23 < w.bits 56 8
      ∨ ([0, 1, 2, 3] : List Nat).any (fun d => decide (s.poolBytes d < others + quotaBytes w)) then s
    else s.setPkgCsr (0x8B40 + ctx) (Word.ofN (w.bits 52 12 * 2 ^ 52 + w.bits 4 36 * 2 ^ 4 + (if w.bit 0 then 1 else 0))))

/-- SHADOW_WRITE: ignored with more than 24 bits, or with a partition that a context's table names (R342). -/
def execShadowWrite (die : Nat) (w : Word) (s : State) : Out :=
  let m := w.bits 0 48
  let named (e : Word) : Bool := e.bit 63 && e.bits 6 2 == die && decide (e.bits 0 6 < 48) && m.testBit (e.bits 0 6)
  let inTable (c : Nat) : Bool := (s.ctxSave c).bit 0 && (List.range 256).any fun h => named (s.partEntry c h).v
  .next (if 24 < countBits 48 m ∨ (List.range 64).any inTable then s else s.setDcsr die 0x8BC0 (Word.ofN m))

/-! ### What a context has -/

def State.ctxQueues (s : State) (ctx : Nat) : List Nat := (s.queues.filter fun e => s.qCtx e.1 == ctx).map Prod.fst

/-- Its islands that no lane holds, OWNED or SAVING with their context. -/
def State.ownIslands (s : State) (ctx : Nat) : List Nat :=
  (s.misls.filter fun e => e.2.owner == ctx && (e.2.st == .owned || (e.2.st == .saving && e.2.before == .free)) && e.2.lane.isNone).map
    Prod.fst

/-- Counters, serials, generations and the like of a context as CREATE starts them (R163, R229, R364, R367). -/
def State.freshCtx (s : State) (ctx : Nat) : State :=
  { s with
    counters := s.counters.filter fun e => e.1 / 356 != ctx
    serials := s.serials.filter fun e => e.1 / 4 != ctx
    gens := s.gens.filter fun e => e.1 / 64 != ctx
    pairs := s.pairs.filter fun e => e.1 / 32768 != ctx
    ccDead := s.ccDead.filter fun e => e.1 != ctx
    acctSeq := tabDel s.acctSeq ctx
    jobs := s.jobs.filter fun e => e.1 / 1024 != ctx
    graphs := s.graphs.filter fun e => e.1 / 1024 != ctx }

/-- Partitions that the table of some context maps as versioned. -/
def State.versParts (s : State) : List Nat :=
  ((List.range 64).filter fun c => s.ctxState c != ctxFree).foldl (fun l c => (List.range 256).foldl (fun l h =>
    match s.partOf c true (Word.ofN (h * 2 ^ 21)) with
    | .ok p => setIns l p.1
    | .error _ => l) l) []

/-- The numbers of every versioned word of a partition that has come to be mapped are 0 (R165, log entry 84). -/
def State.mapVers (s : State) : State :=
  let l := s.versParts
  if l = s.vparts then s
  else { s with vparts := l, vers := s.vers.filter fun e => s.vparts.contains (e.1 / 2 ^ 21) || !l.contains (e.1 / 2 ^ 21) }

/-- CTXCTL_CREATE. -/
def execCtxctlCreate (ctx map : Nat) (s : State) : Out :=
  let w := s.ctxSave ctx
  .next (if s.ctxState ctx ≠ ctxFree then s
    else if !w.bit 0 ∨ w.bits 4 8 < 2 then s.ctxCode ctx ecfgField
    else
      let st := s.ctxStat ctx
      ((s.freshCtx ctx).putCtx ctx ctxActive (st.bits 58 2) (map % 256) (st.bits 0 8)).mapVers)

/-! ### The ladder (R333) -/

/-- A rung reached in this cycle; a rung is never left for a lower one. -/
def State.climb (s : State) (ctx rung : Nat) : State :=
  if rung ≤ (s.ladder ctx).rung then s else { s with ladders := tabPut s.ladders ctx { rung := rung, since := s.cycle } }

/-- CTXCTL_SAVE: rung 1 begins. -/
def execCtxctlSave (ctx : Nat) (s : State) : Out :=
  .next (if s.ctxState ctx ≠ ctxActive then s
    else { s with ladders := tabPut s.ladders ctx { rung := 1, since := s.cycle } }.toCtx ctx ctxSaving)

/-- Rung 1: no RUNNING region admits a further instance. -/
def State.drainOwn (s : State) (ctx : Nat) : State :=
  (s.ownRegions ctx fun r => r.st == .running).foldl (fun s e =>
    let r := s.regionOn ctx e.1 e.2
    s.setRegion ctx e.1 e.2 { r with n := if r.admission + 1 < r.n then r.admission + 1 else r.n }) s

/-- A running task of a context stops at a block boundary and goes to the head of its priority (R257); a commit that has begun
completes first. -/
def State.stopTasks (s : State) (ctx : Nat) : State :=
  (s.tasks.filter fun p => p.2.ctx == ctx && p.2.st == .running && !p.2.committing).foldl (fun s p =>
    (s.dropBlock p.1).leave p.1 p.2.addr fun s => s.post p.1 true) s

/-- DRAIN_LIMIT_EXPIRY: rung 2 begins. What runs freezes and is saved; a load is abandoned. -/
def execDrainLimitExpiry (ctx : Nat) (s : State) : Out :=
  let l := s.ladder ctx
  .next (if s.ctxState ctx ≠ ctxSaving ∨ l.rung ≠ 1 ∨ s.cycle < l.since + (s.pkgCsr 0x8A10).toNat ∨ !s.workLeft ctx then s
    else
      let s1 := (s.ownRegions ctx fun r => r.st == .loading || r.st == .arming).foldl (fun s e => s.abandonLoad ctx e.1 e.2) s
      let s2 := (s1.ownRegions ctx fun r => r.st == .running || r.st == .draining || r.st == .halted).foldl (fun s e =>
        (s.setRegion ctx e.1 e.2 { s.regionOn ctx e.1 e.2 with saving := true }).syncPages ctx e.1 e.2) s1
      s2.climb ctx 2)

/-- SAVE_LIMIT_EXPIRY: rung 3; what is not yet saved is discarded. -/
def execSaveLimitExpiry (ctx : Nat) (s : State) : Out :=
  let l := s.ladder ctx
  .next (if s.ctxState ctx ≠ ctxSaving ∨ l.rung ≠ 2 ∨ s.cycle < l.since + (s.pkgCsr 0x8A18).toNat ∨ !s.workLeft ctx then s
    else ((s.ownRegions ctx fun r => r.saving).foldl (fun s e => s.discardLaunch ctx e.1 e.2) s).climb ctx 3)

/-- A frozen region whose outside requests are answered is saved, or discarded for want of shadow storage (R342, R347). -/
def State.saveNow (s : State) (ctx h die : Nat) : State :=
  let r := s.regionOn ctx h die
  let s1 := s.saveRegion ctx h die
  if (s1.regionOn ctx h die).st = .saved then s1
  else if s.ctxState ctx = ctxSaving then s1.climb ctx 3 else s1.setRung r.queue 3

/-! ### The save area (R341) -/

def State.putArea (s : State) (ctx off : Nat) (bs : List Byte) : State := s.dStore (s.saveBase ctx + off) bs false

def State.areaWord (s : State) (ctx off : Nat) : Val := s.dLoad (s.saveBase ctx + off) 8

/-- The offset of the stream state of a logical die's island. -/
def streamOff (ld isl : Nat) : Nat := 0x2000 + 0x8000 * (8 * ld + isl)

/-- The pattern numbers of a context that an island holds. -/
def State.patNumbers (s : State) (k ctx : Nat) : List Nat :=
  ((s.sisl k).pats.filter fun e => e.1 / 256 == ctx).map fun e => e.1 % 256

/-- The records of the saved regions of a context, packed at the end of the save area: handle, die, offset and bytes (R341, R346). -/
def State.regionRecords (s : State) (ctx : Nat) : List (Nat × Nat × Nat × Nat) :=
  ((s.ownRegions ctx fun r => r.st == .saved).foldl (fun (a : Nat × List (Nat × Nat × Nat × Nat)) e =>
    let n := 0x100 + 0x39400 * ((s.regionOn ctx e.1 e.2).setw * (s.regionOn ctx e.1 e.2).seth)
    (a.1 + n, a.2 ++ [(e.1, e.2, a.1, n)])) (0x102000, [])).2

/-- Bytes of the save area in use (R346). -/
def State.areaUsed (s : State) (ctx : Nat) : Nat := (s.regionRecords ctx).foldl (fun n e => n + e.2.2.2) 0x102000

/-- Counters, patterns and `SFLAG` written; bindings, commands and region records, which the spec does not lay out whole, as free bytes
(R214, R346, log entry 32). -/
def State.writeArea (s : State) (ctx : Nat) : State :=
  let s1 := s.putArea ctx 0 (bytesOfNat 8 (0x5341 * 2 ^ 48 + 2 ^ 40 + s.areaUsed ctx % 2 ^ 32) ++ List.replicate 248 0)
  let s2 := (List.range 356).foldl (fun s i =>
    let c := s.counter (counterKey ctx i)
    s.putArea ctx (0x900 + 16 * i) (bytesOfNat 8 c.v ++ bytesOfNat 8 (c.mark.getD 0))) s1
  let s2 := (s.regionRecords ctx).foldl (fun s e =>
    let w := s.freeWords (e.2.2.2 / 8)
    w.2.putArea ctx e.2.2.1 (w.1.flatMap bytesOfWord)) s2
  (List.range 32).foldl (fun s n =>
    let k := 8 * s.physDie ctx (n / 8) + n % 8
    let off := streamOff (n / 8) (n % 8)
    let s' := (s.patNumbers k ctx).foldl (fun s p =>
      s.putArea ctx (off + 104 * p) ((tabGet [] (s.sisl k).pats (256 * ctx + p)).map bytesOfWord).flatten) s
    let n := 4 * ((s.sisl k).cmds.filter fun c => c.ctx == ctx && !c.done).length
    let binds := (if (s.sisl k).binds.any fun b => b.1 / 16 == ctx then s'.freeWords 32 else ([], s'))
    let recs := binds.2.freeWords n
    ((recs.2.putArea ctx (off + 0x6800) (binds.1.flatMap bytesOfWord)).putArea ctx (off + 0x6A00) (recs.1.flatMap bytesOfWord)).putArea ctx
      (off + 0x6900) (bytesOfNat 8 (s.sctx k ctx).sflag.toNat)) s2

/-- A word of the save area, or what the machine still holds where it is poisoned. -/
def State.reload (s : State) (ctx off old : Nat) : Nat :=
  let v := s.areaWord ctx off
  if v.p then old else v.v.toNat

/-- A region's record read by a restore: a word of it that reads poisoned is known when the region is to run again (R348). -/
def State.readRegionRecord (s : State) (ctx : Nat) (e : Nat × Nat × Nat × Nat) : State :=
  let k := regKey ctx e.1 e.2.1
  let s1 := s.correct spD (s.saveBase ctx + e.2.2.1) e.2.2.2
  if (List.range (e.2.2.2 / 8)).any fun j => (s.areaWord ctx (e.2.2.1 + 8 * j)).p then
    { s1 with saved := tabPut s1.saved k { tabGet Frame.empty s1.saved k with bad := some ftPoison } }
  else s1

/-- Step 1 of R349: counters, patterns, `SFLAG` and region records as the save area holds them; the numbers of saved commands bound I
(R364). -/
def State.readArea (s : State) (ctx : Nat) : State :=
  let s := (s.regionRecords ctx).foldl (fun s e => s.readRegionRecord ctx e) s
  let s1 := (List.range 356).foldl (fun s i =>
    let k := counterKey ctx i
    let c := s.counter k
    let v := s.reload ctx (0x900 + 16 * i) c.v
    let m := s.reload ctx (0x908 + 16 * i) (c.mark.getD 0)
    let s := s.correct spD (s.saveBase ctx + 0x900 + 16 * i) 16
    if i % 89 < 25 ∨ v ≠ c.v ∨ m ≠ c.mark.getD 0 then
      s.setCounter k { c with v := v, mark := if m = 0 then none else some m, issued := if c.issued < v then v else c.issued }
    else s) s
  (List.range 32).foldl (fun s n =>
    let k := 8 * s.physDie ctx (n / 8) + n % 8
    let off := streamOff (n / 8) (n % 8)
    if s.logDie ctx (k / 8) ≠ n / 8 then s
    else
      let s' := (s.patNumbers k ctx).foldl (fun s p =>
        let old := tabGet [] (s.sisl k).pats (256 * ctx + p)
        let ws := (List.range 13).map fun j => Word.ofN (s.reload ctx (off + 104 * p + 8 * j) (old.getD j 0).toNat)
        (s.correct spD (s.saveBase ctx + off + 104 * p) 104).setSisl k
          { s.sisl k with pats := tabPut (s.sisl k).pats (256 * ctx + p) ws }) s
      let f := (s'.sctx k ctx).sflag
      let g := BitVec.ofNat 6 (s'.reload ctx (off + 0x6900) f.toNat)
      let s' := s'.correct spD (s.saveBase ctx + off + 0x6900) 8
      if g = f then s' else s'.setSctx k ctx { s'.sctx k ctx with sflag := g }) s1

/-! ### The end of a save -/

/-- Whether a stream command of the context may still reach its next 1 KiB boundary (R214). -/
def State.streamsMove (s : State) (ctx : Nat) : Bool :=
  s.sisls.any fun e => e.2.cmds.any fun c => c.ctx == ctx && c.started && !c.done && (c.finished
    || (!c.stall && c.sent % 1024 != 0 && ({ s with busy := [], holds := [] }.strStep e.1 c).isSome))

/-- Whether every region, task, island and command of a context has stopped (R340). -/
def State.stopped (s : State) (ctx : Nat) : Bool :=
  !s.workLeft ctx && (s.ownRegions ctx fun r => r.saving).isEmpty
    && s.tasks.all (fun p => p.2.ctx != ctx || p.2.st != .running)
    && s.misls.all (fun e => e.2.owner != ctx || (e.2.st != .testing && e.2.st != .saving) || e.2.before != .owned || e.2.lane.isSome)
    && s.reqs.all (fun r => r.who.ctx != ctx || r.who.task == 0) && !s.streamsMove ctx

/-- An island's state as a frame keeps it: a refill under way is abandoned and left to its queue record (R187). -/
def MIsl.forFrame (m : MIsl) : MIsl :=
  let refill (c : MCmd) : Bool := match c.i with
    | .mxldb _ _ _ _ => c.started && !c.done
    | _ => false
  let m1 := m.landAll
  { m1 with queue := m1.queue.map fun (c : MCmd) => if refill c then { c with started := false } else c
            back := if m.queue.any refill then none else m.back }

/-- An island stops for a save of its context, or for a test: rows in flight land and the frame is written, within 143 and 560 cycles. -/
def State.beginIslSave (s : State) (k : Nat) (test : Bool) : State :=
  let m := s.misl k
  { s with free := s.free + 1 }.setMisl k { m with st := .saving, before := if test then .owned else .free,
                                                   until_ := s.cycle + 1 + Config.freeDelay s.free % 703 }

/-- Bytes of island frames that a context holds of a die. -/
def State.islBytes (s : State) (ctx die : Nat) : Nat :=
  (s.islSaves.filter fun e => e.1 / 64 == ctx && e.1 / 16 % 4 == die).foldl (fun n e => n + frameLen e.2.hasRecs) 0

/-- An island saved and freed. One that finds no shadow storage is discarded: its commands end with `FT_OVERRUN` (log entry 33). -/
def State.saveIsl (s : State) (ctx k : Nat) : State :=
  let m := s.misl k
  if (s.ctxSave ctx).bits 52 4 * 143360 < s.islBytes ctx (k / 16) + frameLen m.hasRecs then
    (m.queue.foldl (fun s c => s.mxEnd k { c with fault := some ftOverrun }) (s.climb ctx 3)).freeIsl k
  else { s with islSaves := tabPut s.islSaves (64 * ctx + k) m.forFrame }.freeIsl k

/-- The grants of a context given up, to be asked for again (R293). -/
def State.giveGrants (s : State) (ctx : Nat) : State :=
  (s.grants.filter fun g => g.1 == ctx).foldl (fun s g =>
    { s.powRelease ctx g.2.1 g.2.2 with owed := s.owed ++ [(ctx, s.logDie ctx g.2.1, g.2.2)] }) s

/-- A queue of a saved context: its whole state stands in its descriptor (R334). -/
def State.saveQueue (s : State) (rung q : Nat) : State :=
  let s1 := (s.writeFes q).onQueue q fun r => { r with before := s.qState q }
  let w := s.qStat q
  s1.setQstat q (qstatWord qsSaved rung false (s.qRun q).wait.isSome (w.bits 48 8) (w.bits 40 8))

/-- The context is SAVED. -/
def State.finishSave (s : State) (ctx : Nat) : State :=
  let s1 := ((s.ownIslands ctx).foldl (fun s k => s.saveIsl ctx k) s).giveGrants ctx
  let rung := (s1.ladder ctx).rung
  let s2 := ((s1.ctxQueues ctx).foldl (fun s q => s.saveQueue rung q) s1).writeArea ctx
  let w := s2.ctxStat ctx
  { s2 with ladders := tabDel s2.ladders ctx }.putCtx ctx ctxSaved rung (w.bits 50 8) (w.bits 0 8)

/-- CONTEXT_SAVE_COMPLETE: the regions drain; at rung 2, or once all have drained, the tasks stop too; once everything of the context
has stopped, it is SAVED. -/
def execContextSaveComplete (ctx : Nat) (s : State) : Out :=
  .next (if s.ctxState ctx ≠ ctxSaving then s
    else
      let s1 := s.drainOwn ctx
      if !s1.ctxStops ctx then s1
      else
        let s2 := s1.stopTasks ctx
        let isls := s2.ownIslands ctx
        if !s2.stopped ctx then s2
        else if isls.all fun k => (s2.misl k).st == .saving && decide ((s2.misl k).until_ ≤ s2.cycle) then s2.finishSave ctx
        else (isls.filter fun k => (s2.misl k).st == .owned).foldl (fun s k => s.beginIslSave k false) s2)

/-! ### Restore (R349) -/

/-- The physical die to which the work of a physical die goes: by the lowest logical die that ran on it. -/
def newDie (old new d : Nat) : Nat :=
  match ([0, 1, 2, 3] : List Nat).find? fun i => old / 4 ^ i % 4 == d with
  | some i => new / 4 ^ i % 4
  | none => d

/-- A region that waits, or is saved, with its die. -/
def State.reRegion (s : State) (ctx h die to_ : Nat) : State :=
  let r := s.regionOn ctx h die
  let a := regKey ctx h die
  let b := regKey ctx h to_
  let s1 := { s with regions := tabDel s.regions a }.setRegion ctx h to_ { r with die := to_ }
  match tabFind s.saved a with
  | none => s1
  | some f => { s1 with saved := tabPut (tabDel s1.saved a) b f }

/-- Regions placed on their mapped dies: saved ones at the head of their FIFOs, in the order in which they stood. -/
def State.reRegions (s : State) (ctx : Nat) (nd : Nat → Nat) : State :=
  let qs := s.ownRegions ctx fun r => r.st == .queued && r.was != .ready
  let s1 := qs.foldl (fun s e => s.reRegion ctx e.1 e.2 (nd e.2)) s
  (s1.ownRegions ctx fun r => r.st == .saved).reverse.foldl (fun s e =>
    let s' := s.reRegion ctx e.1 e.2 (nd e.2)
    s'.setRegion ctx e.1 (nd e.2) { s'.regionOn ctx e.1 (nd e.2) with back := true, order := s'.fifoNo true, waitAt := s'.cycle }) s1

/-- The entries of a context in an island's tables. -/
def ofCtx {α : Type} (n ctx : Nat) (t : Tab α) : Tab α := t.filter fun e => e.1 / n == ctx

/-- Patterns, bindings, flags and commands of a context carried to the islands of the mapped dies. -/
def State.reStreams (s : State) (ctx : Nat) (nd : Nat → Nat) : State :=
  let old := s.sisls
  let strip (v : SIsl) : SIsl := { v with
    pats := v.pats.filter fun e => e.1 / 256 != ctx
    binds := v.binds.filter fun e => e.1 / 16 != ctx
    ctxs := tabDel v.ctxs ctx
    cmds := v.cmds.filter fun c => c.ctx != ctx }
  let s1 := { s with sisls := s.sisls.map fun e => (e.1, strip e.2) }
  old.foldl (fun (s : State) (e : Nat × SIsl) =>
    let k := 8 * nd (e.1 / 8) + e.1 % 8
    let v := s.sisl k
    let mine := e.2.cmds.filter fun c => c.ctx == ctx
    let moved := mine.map fun (c : SCmd) => { c with who := { c.who with die := nd c.who.die } }
    if (ofCtx 256 ctx e.2.pats).isEmpty ∧ (ofCtx 16 ctx e.2.binds).isEmpty ∧ (tabFind e.2.ctxs ctx).isNone ∧ mine.isEmpty then s
    else s.setSisl k { v with
      pats := mergeTab v.pats (ofCtx 256 ctx e.2.pats)
      binds := mergeTab v.binds (ofCtx 16 ctx e.2.binds)
      ctxs := match tabFind e.2.ctxs ctx, tabFind v.ctxs ctx with
        | some c, none => tabPut v.ctxs ctx c
        | _, _ => v.ctxs
      cmds := moved ++ v.cmds }) s1

/-- Tasks, jobs, graphs, cards, collectives and waiters of a context carried to the mapped dies. -/
def State.reWork (s : State) (ctx : Nat) (nd : Nat → Nat) : State :=
  let isl (k : Nat) : Nat := 8 * nd (k / 8) + k % 8
  let waiter (w : Waiter) : Waiter := match w with
    | .task k => .task k
    | .cmd k n => .cmd (isl k) n
  let cc := s.ccs.map fun e => (e.1, e.2.filter fun c => c.ctx != ctx)
  { s with
    tasks := s.tasks.map fun e => if e.2.ctx = ctx then (e.1, { e.2 with die := nd e.2.die }) else e
    jobs := s.jobs.map fun e => if e.1 / 1024 = ctx then (e.1, { e.2 with die := nd e.2.die }) else e
    graphs := s.graphs.map fun e => if e.1 / 1024 = ctx then (e.1, { e.2 with die := nd e.2.die }) else e
    cards := s.cards.map fun e => if e.2.ctx = ctx then
      (e.1, { e.2 with die := nd e.2.die, copy := e.2.copy.map fun c => (isl c.1, c.2) }) else e
    ccs := s.ccs.foldl (fun t e => (e.2.filter fun c => c.ctx == ctx).foldl (fun t c =>
      tabPut t (nd e.1) (tabGet [] t (nd e.1) ++ [c])) t) cc
    islSaves := s.islSaves.foldl (fun t e => if e.1 / 64 = ctx then
      tabPut t (64 * ctx + 16 * nd (e.1 / 16 % 4) + e.1 % 16) e.2 else tabPut t e.1 e.2) []
    frecs := s.frecs.map fun e => if e.2.ctx = ctx then (e.1, { e.2 with waiters := e.2.waiters.map waiter }) else e
    fwait := s.fwait.map fun (m : PageMiss) => if m.ctx = ctx then { m with who := waiter m.who } else m }

/-- The queues of a context on the front ends of the mapped dies, still SAVED. -/
def State.reQueues (s : State) (ctx : Nat) (nd : Nat → Nat) : State :=
  (s.ctxQueues ctx).foldl (fun s q => s.setQField q 0x12 1 (nd (s.qDie q))) s

/-- CTXCTL_RESTORE: refused when a mapped die takes no part in work (R16, R351); else steps 1 to 3 of R349. -/
def execCtxctlRestore (ctx map : Nat) (s : State) : Out :=
  let new := map % 256
  .next (if s.ctxState ctx ≠ ctxSaved then s
    else if ([0, 1, 2, 3] : List Nat).any (fun i => s.downDies.contains (new / 4 ^ i % 4)) then s.ctxCode ctx ftLink
    else
      let w := s.ctxStat ctx
      let nd := newDie (w.bits 50 8) new
      let s1 := (((s.readArea ctx).reStreams ctx nd).reWork ctx nd).reQueues ctx nd
      (s1.reRegions ctx nd).putCtx ctx ctxRestoring (w.bits 58 2) new (w.bits 0 8))

/-- A saved island on the island of the same index of its die, once that is FREE: buffers are read from the stack there, and the
columns are the target's (R187). -/
def State.putIsl (s : State) (ctx key : Nat) (f : MIsl) : State :=
  let k := key % 64
  let m := s.misl k
  let tile (b : Option BTile) (ix : Nat) : Option BTile := b.map fun _ => s.stackTile k ix
  if m.st ≠ .free then s
  else
    ({ s with islSaves := tabDel s.islSaves key }.readTiles k f f.front.isSome f.back.isSome).setMisl k
      { f with st := .owned, owner := ctx, lane := none, front := tile f.front f.frontIx, back := tile f.back f.backIx,
               colmap := m.colmap, spares := m.spares, lastf := m.lastf }

/-- A grant asked for again: given when there is room and no earlier request waits; a class that can never be granted is given up
(log entry 34). -/
def State.askAgain (s : State) (ctx ld c : Nat) : State :=
  let die := s.physDie ctx ld
  let amt := s.leaveAmt die c
  let gone := { s with owed := s.owed.erase (ctx, ld, c) }
  if s.seeded die < amt then gone
  else if s.seeded die < s.suse die + amt then s
  else { gone.setSuse die (s.suse die + amt) with grants := s.grants ++ [(ctx, die, c)] }

/-- A restored queue returns to the state it had; it has no slot yet. -/
def State.restoreQueue (s : State) (q : Nat) : State :=
  if s.qState q ≠ qsSaved then s
  else (s.onQueue q fun r => { r with idle := s.cycle, out := s.cycle, pub := none, checkAt := s.cycle + 10000 }).toState q (s.qRun q).before

/-- Tasks whose siblinghood was cancelled while they were away end before they run a block (R376). -/
def State.endCancelled (s : State) (ctx : Nat) : State :=
  (s.tasks.filter fun p => p.2.ctx == ctx && p.2.cancelReq && p.2.st != .running).foldl (fun s p => s.cancelTask p.1) s

/-- CONTEXT_RESTORE_COMPLETE: islands and grants as they become free; with everything restored the context is ACTIVE and its
queues return to their states. -/
def execContextRestoreComplete (ctx : Nat) (s : State) : Out :=
  .next (if s.ctxState ctx ≠ ctxRestoring then s
    else
      let s1 := (s.islSaves.filter fun e => e.1 / 64 == ctx).foldl (fun s e => s.putIsl ctx e.1 e.2) s
      let s2 := (s1.owed.filter fun g => g.1 == ctx).foldl (fun s g => s.askAgain ctx g.2.1 g.2.2) s1
      if !(s2.ownRegions ctx fun r => r.st == .saved).isEmpty ∨ s2.islSaves.any (fun e => e.1 / 64 == ctx)
          ∨ s2.owed.any (fun g => g.1 == ctx) then s2
      else ((s2.ctxQueues ctx).foldl (fun s q => s.restoreQueue q) (s2.toCtx ctx ctxActive)).endCancelled ctx)

/-! ### Teardown (R350) -/

/-- Steps 1 and 2: queues DISABLED, tables of the context, or with a lane of it, FREE. -/
def State.tearQueues (s : State) (ctx : Nat) : State :=
  let s1 := (s.ctxQueues ctx).foldl (fun s q => s.disable q) s
  let hit (t : STab) : Bool := t.owner == ctx || t.lanes.any fun x => x.ctx == ctx
  (s1.tabs.filter fun e => hit e.2).foldl (fun (s : State) (e : Nat × STab) =>
    (if e.2.runs then s.stopTable e.1 else s).uninstall e.1) s1

/-- Step 3: every region frozen and discarded; its pages return, and its handle is FREE. -/
def State.tearRegions (s : State) (ctx : Nat) : State :=
  let mine := s.regions.filter fun e => e.1 / 4 / 256 == ctx
  let s1 := mine.foldl (fun s e =>
    let r := e.2
    let h := e.1 / 4 % 256
    let holds := r.st == .loading || r.st == .arming || r.st == .running || r.st == .draining || r.st == .ready || r.st == .halted
      || (r.st == .queued && r.was == .ready)
    let s1 := (s.discard ctx h r.die).giveLeave ctx h r.die
    if holds && r.lane.isNone then s1.freePages r ctx (s.laneCtx r.die) else s1) s
  { s1 with regions := s1.regions.filter fun e => e.1 / 4 / 256 != ctx
            saved := s1.saved.filter fun e => e.1 / 4 / 256 != ctx
            ladders := tabDel s1.ladders ctx }

/-- Jobs that are not over end CANCELLED with their words written. -/
def State.tearJobs (s : State) (ctx : Nat) : State :=
  (s.jobs.filter fun e => e.1 / 1024 == ctx && e.2.final.isNone).foldl (fun s e =>
    (s.setJob ctx (e.1 % 1024) { s.job ctx (e.1 % 1024) with kids := 0, cancelled := true }).settleJob ctx (e.1 % 1024)) s

/-- Steps 4 to 6: tasks and cards end with nothing written; engines forget the context's commands; islands are zeroed and freed;
groups, collectives and fault records end. A task that waits for a record's place goes with them. -/
def State.tearWork (s : State) (ctx : Nat) : State :=
  let ts := (s.tasks.filter fun p => p.2.ctx == ctx).map Prod.fst
  let s1 := ts.foldl (fun s k => s.dropBlock k) s
  let s2 := { s1 with
    tasks := s1.tasks.filter fun p => p.2.ctx != ctx
    cards := s1.cards.filter fun e => e.2.ctx != ctx
    reqs := s1.reqs.filter fun r => r.who.ctx != ctx
    replies := s1.replies.filter fun r => r.who.ctx != ctx
    groups := s1.groups.filter fun e => e.2.ctx != ctx
    ccs := s1.ccs.map fun (e : Nat × List CCmd) => (e.1, e.2.filter fun c => c.ctx != ctx)
    frecs := s1.frecs.filter fun e => e.2.ctx != ctx
    fwait := s1.fwait.filter fun m => m.ctx != ctx
    cinvs := s1.cinvs.filter fun c => c.ctx != ctx
    islSaves := s1.islSaves.filter fun (e : Nat × MIsl) => e.1 / 64 != ctx
    sisls := s1.sisls.map fun (e : Nat × SIsl) => (e.1, { (e.2 : SIsl) with
      pats := e.2.pats.filter fun p => p.1 / 256 != ctx
      binds := e.2.binds.filter fun p => p.1 / 16 != ctx
      ctxs := tabDel e.2.ctxs ctx
      cmds := e.2.cmds.filter fun c => c.ctx != ctx }) }
  let s3 := { s2 with groupEnds := s2.groupEnds.filter fun g => s2.gWaited g.num }
  (s3.misls.filter fun (e : Nat × MIsl) => e.2.owner == ctx && e.2.st != IslSt.free).foldl (fun (s : State) (e : Nat × MIsl) =>
    if (s.misl e.1).lane.isNone then s.freeIsl e.1 else s.setMisl e.1 (s.misl e.1).zero) s3

/-- Steps 7 and 8: grants released, ingress channels disabled, translations and copies dropped. -/
def State.tearRest (s : State) (ctx : Nat) : State :=
  let s1 := (s.grants.filter fun g => g.1 == ctx).foldl (fun s g => s.powRelease ctx g.2.1 g.2.2) s
  let s2 := (List.range 32).foldl (fun s n =>
    let w := s.pkgCsr (0x8400 + n)
    if w.bit 32 ∧ w.bits 34 6 = ctx then s.setPkgCsr (0x8400 + n) (Word.ofN (w.toNat - 2 ^ 32)) else s) s1
  { s2 with
    owed := s2.owed.filter fun g => g.1 != ctx
    tlb := s2.tlb.filter fun e => e.ctx != ctx
    ccache := s2.ccache.filter fun c => c.ctx != ctx
    vinvs := s2.vinvs.filter fun v => v.ctx != ctx
    dbgs := tabDel s2.dbgs ctx
    stalls := tabDel s2.stalls ctx }

/-- CTXCTL_TEARDOWN: the context is ENDING, and R350's steps are taken in their order. -/
def execCtxctlTeardown (ctx : Nat) (s : State) : Out :=
  let st := s.ctxState ctx
  .next (if st = ctxFree ∨ st = ctxEnding then s
    else ((((s.toCtx ctx ctxEnding).tearQueues ctx).tearRegions ctx).tearWork ctx |>.tearJobs ctx).tearRest ctx)

/-- CONTEXT_TEARDOWN_COMPLETE. -/
def execContextTeardownComplete (ctx : Nat) (s : State) : Out :=
  .next (if s.ctxState ctx ≠ ctxEnding then s else (s.freshCtx ctx).toCtx ctx ctxFree)

end Sys2Proof.Machine
end

