-- ==== Sys2Proof/Machine/Csr.lean ====
section
/-! DEFINITION. CSRs: what each number names, rights, reads and writes by programs and by the host, the writes that act, and `trap`
(R13, R212, R216, R217, R239, R300, R305, R308, R317, R330, R331, R409 to R414, R430, R431). -/

namespace Sys2Proof.Machine

/-- The state a step leaves. -/
def Out.after (o : Out) (s : State) : State :=
  match o with
  | .next t => t
  | _ => s

/-! ### Which numbers name a CSR -/

/-- Numbers from `base` to `base + n - 1`. -/
def numIn (num base n : Nat) : Bool := decide (base ≤ num) && decide (num < base + n)

/-- CSRs of a PE, or of a block's values (R63, R84). -/
def peCsr (num : Nat) : Bool := numIn num 1 3

/-- Context CSRs: `CFGTAB`, `TKC0` to `TKC3`, `TLCLR`, `CFLAG`, `ACCTBASE`. -/
def ctxCsr (num : Nat) : Bool := num == 0x1010 || numIn num 0x1020 4 || num == 0x1030 || num == 0x1040 || num == 0x1050

def feCsr (num : Nat) : Bool := num == 0x4008 || num == 0x4020

/-- The histogram CSRs of the nine interfaces (R422). -/
def histCsr (num : Nat) : Bool := numIn num 0x8C00 0x240 && decide (num % 0x40 ≤ 0x20)

def devCsr (num : Nat) : Bool :=
  num == 0x8020 || numIn num 0x8030 4 || num == 0x8040 || numIn num 0x8100 64 || num == 0x8140 || num == 0x8210 || num == 0x8220
    || num == 0x8300 || num == 0x8308 || numIn num 0x8310 4 || num == 0x8320 || num == 0x8328 || num == 0x8330 || numIn num 0x8341 15
    || numIn num 0x8400 32 || numIn num 0x8600 4 || num == 0x8680 || num == 0x8700 || num == 0x8708 || num == 0x8720
    || numIn num 0x8740 4 || num == 0x8760 || numIn num 0x8800 64 || num == 0x8840 || num == 0x8848 || num == 0x8850 || num == 0x8860
    || num == 0x8900 || num == 0x8908 || num == 0x8910 || num == 0x8A00 || num == 0x8A10 || num == 0x8A18 || numIn num 0x8B00 64
    || numIn num 0x8B40 64 || numIn num 0x8B80 64 || num == 0x8BC0 || histCsr num || num == 0x8E80 || num == 0x8E88 || num == 0x8E90

def csrNamed (num : Nat) : Bool := peCsr num || ctxCsr num || feCsr num || devCsr num

/-- Device CSRs of which the package holds one; they are kept with die 0's (log entry 13). -/
def pkgNum (num : Nat) : Bool :=
  num == 0x8040 || num == 0x8320 || numIn num 0x8400 32 || num == 0x8680 || numIn num 0x8800 64 || num == 0x8848
    || numIn num 0x8900 17 || num == 0x8A00 || num == 0x8A10 || num == 0x8A18 || numIn num 0x8B00 192

def homeDie (die num : Nat) : Nat := if pkgNum num then 0 else die

/-! ### Words that are computed -/

def PageSt.number : PageSt → Nat
  | .free => 0
  | .reserved => 1
  | .lent => 2
  | .allocated => 3
  | .loading => 4
  | .running => 5
  | .draining => 6
  | .saving => 7
  | .moving => 8
  | .testing => 9
  | .retired => 10
  | .pool => 11

/-- `PGSTAT` (R294). -/
def FPage.word (p : FPage) : Word :=
  Word.ofN (p.handle % 256 * 2 ^ 24 + p.ctx % 64 * 2 ^ 18 + p.lctx % 64 * 2 ^ 12 + bit01 p.lv * 2 ^ 11
    + (match p.rsv with
      | some r => r.1 % 4 * 2 ^ 9 + 2 ^ 8
      | none => 0) + bit01 p.retp * 2 ^ 7 + p.st.number)

def TabSt.number : TabSt → Nat
  | .installed => 1
  | .armed => 2
  | .running => 3
  | .amber => 4

/-- `TBLSTAT` (R278). -/
def State.tblWord (s : State) (die slot : Nat) : Word :=
  match s.tableOn? die slot with
  | none => 0
  | some (_, t) => Word.ofN (t.ambers % 2 ^ 16 * 2 ^ 48 + t.lastLane % 16 * 2 ^ 44 + t.st.number * 2 ^ 40 + t.pos % 2 ^ 24 * 2 ^ 16
      + t.periods % 2 ^ 16)

/-- A write-only CSR reads as 0 (R414). -/
def woCsr (num : Nat) : Bool :=
  num == 0x1030 || feCsr num || num == 0x8140 || num == 0x8308 || num == 0x8840 || num == 0x8850 || numIn num 0x8B00 64

/-- What a CSR above the PE's range reads as; 0 where the number names none. -/
def State.csrRead (s : State) (die ctx num : Nat) : Word :=
  if !csrNamed num ∨ woCsr num then 0
  else if ctxCsr num then s.ccsrAt ctx num
  else if numIn num 0x8030 4 then Config.fusedKey (num - 0x8030) &&& 0xFF0000000000000F
  else if numIn num 0x8100 64 then (s.page die (num - 0x8100)).word
  else if num = 0x8300 then s.tb.word
  else if numIn num 0x8310 4 then s.tblWord die (num - 0x8310)
  else if num = 0x8328 then (if s.tb.run then Word.ofN (2 ^ 63) else 0)
  else s.dcsrAt (homeDie die num) num

/-! ### Plain writes (R414) -/

/-- The RW bits of a CSR whose write does nothing else. -/
def rwMask (num : Nat) : Nat :=
  if num = 0x1010 then 0x0000FFFFFFFFF3FF
  else if numIn num 0x1020 4 then 2 ^ 64 - 1
  else if num = 0x1050 then 0x0000FFFFFFFFFFCF
  else if num = 0x8020 then 2 ^ 64 - 1
  else if num = 0x8040 then 0x000000FFFFFFFFC0
  else if num = 0x8320 then 2 ^ 64 - 1
  else if num = 0x8700 then 2 ^ 64 - 1
  else if num = 0x8708 then 0xFFFF
  else if numIn num 0x8740 4 then 0xFFFF0000
  else if numIn num 0x8800 64 then 0x000000FFFFFFF001
  else if num = 0x8860 then 0x000000FFFFFF8001
  else if num = 0x8900 then 0x000000FFFFFFF00F
  else if num = 0x8A00 then 0x000000FFFFE00001
  else if num = 0x8A10 ∨ num = 0x8A18 then 0xFFFFFFFF
  else if num = 0x8E80 then 0x000000FFFFFFF00F
  else if num = 0x8E90 then 2 ^ 64 - 1
  else 0

/-- The W1C bits. -/
def w1cMask (num : Nat) : Nat := if num = 0x1040 then 0x3F else if numIn num 0x8740 4 then 1 else 0

/-- A word after a write of `w` (R414). -/
def csrMerge (num : Nat) (old w : Word) : Word :=
  let rw := Word.ofN (rwMask num)
  let wc := Word.ofN (w1cMask num)
  ((old &&& ~~~rw) ||| (w &&& rw)) &&& ~~~(w &&& wc)

/-- CSR_WRITE_OTHER: RW fields take the word's bits, W1C fields are cleared by ones, the rest stays. With `QDTAB.EN` at 0 every
queue is DISABLED (R312). -/
def execCsrWriteOther (die ctx num : Nat) (w : Word) (s : State) : Out :=
  .next (if ctxCsr num then s.setCcsr ctx num (csrMerge num (s.ccsrAt ctx num) w)
    else if !devCsr num then s
    else
      let d := homeDie die num
      let s1 := if rwMask num = 0 ∧ w1cMask num = 0 then s else s.setDcsr d num (csrMerge num (s.dcsrAt d num) w)
      if num = 0x8A00 ∧ !w.bit 0 then { s1 with queues := [] }
      else if num = 0x8900 then s1.flushEvents
      else s1)

/-! ### Invalidations (R217, R305) -/

/-- CFGINV_CSR_WRITE: outstanding for its writer, the host or the agent whose `csrw` it is. -/
def execCfginvCsrWrite (w : Word) (s : State) : Out :=
  let d := s.delay
  .next { d.2 with cinvs := d.2.cinvs ++ [{ at_ := s.cycle + 1 + d.1 % 200, ctx := w.bits 50 6,
                                            handle := if w.bit 63 then none else some (w.bits 0 10), who := s.cur }] }

/-- `VMINVST` from its fields. -/
def State.setVminv (s : State) (done refused pend : Nat) : State :=
  s.setPkgCsr 0x8848 (Word.ofN (done % 2 ^ 32 * 2 ^ 32 + (if refused < 65535 then refused else 65535) * 2 ^ 16 + pend % 2 ^ 16))

/-- VMINV_WRITE: the invalidation is on its way. -/
def execVminvWrite (w : Word) (s : State) : Out :=
  let d := s.delay
  let st := s.pkgCsr 0x8848
  let v : VmInv := { at_ := s.cycle + 1 + d.1, ctx := w.bits 50 6, va := if w.bit 63 then none else some (w.bits 16 32 * 2 ^ 16) }
  .next ({ d.2 with vinvs := d.2.vinvs ++ [v] }.setVminv (st.bits 32 32) (st.bits 16 16) (st.bits 0 16 + 1))

/-- The entries that an invalidation names. -/
def VmInv.hits (v : VmInv) (e : TlbEnt) : Bool :=
  e.ctx == v.ctx && (match v.va with
    | none => true
    | some a => decide (e.va ≤ a) && decide (a < e.va + e.leaf.size))

/-- The physical addresses that an agent's instruction keeps translated until it is performed. -/
def keptPa (i : Instr) (ops : List Val) : List Nat :=
  match i with
  | .dqld _ _ _ _ _ => [keptAt ops]
  | .dqst _ _ _ _ _ => [keptAt ops]
  | .jpost _ _ _ _ => [keptAt ops]
  | .futset _ _ _ _ => [keptAt ops]
  | .futsetClr _ _ _ => [keptAt ops]
  | _ => []

/-- The translated addresses of a context's accesses that are neither performed nor discarded: requests on their way, and what
blocks hold for their commits. -/
def State.keptPas (s : State) (ctx : Nat) : List Nat :=
  let held (d : Deferred) : List Nat := keptPa d.i d.who.ops
  ((s.reqs.filter fun r => r.who.ctx == ctx).flatMap fun r => keptPa r.i r.who.ops)
    ++ (s.tasks.filter fun t => t.2.ctx == ctx).flatMap fun t => t.2.commit.flatMap held ++ (match t.2.blk with
      | some b => b.stores.flatMap held ++ b.sends.flatMap held ++ (match b.exit with
        | some (.jwait pa _) => [pa]
        | some (.futwt pa _ _) => [pa]
        | _ => [])
      | none => [])

/-- An invalidation whose time has come and through whose entries no access has been translated that is still to be performed. -/
def State.vinvDue (s : State) (v : VmInv) : Bool :=
  let es := s.tlb.filter fun e => v.hits e && !e.locked
  decide (v.at_ ≤ s.cycle) && (s.keptPas v.ctx).all fun pa => !es.any fun e => decide (e.leaf.pa ≤ pa ∧ pa < e.leaf.pa + e.leaf.size)

/-- VM_INVALIDATION_PERFORMED: unlocked entries are dropped on every die, locked ones counted in REFUSED. -/
def execVmInvalidationPerformed (s : State) : Out :=
  .next (match s.vinvs.find? s.vinvDue with
    | none => s
    | some v =>
      let st := s.pkgCsr 0x8848
      let kept := (s.tlb.filter fun e => v.hits e && e.locked).length
      { s with vinvs := s.vinvs.erase v, tlb := s.tlb.filter fun e => !v.hits e || e.locked }.setVminv
        (st.bits 32 32 + 1) (st.bits 16 16 + kept) (st.bits 0 16 - 1))

/-! ### `FUTSET` (R308, R311) -/

/-- FUTSET_CSR_WRITE: a future at a physical address, or at a virtual one of CTX; an address that cannot be reached is ignored. -/
def execFutsetCsrWrite (w : Word) (s : State) : Out :=
  let a := w.bits 3 45 * 8
  .next (if w.bit 49 then (if 2 ^ 40 ≤ a then s else (s.futureOp a (some (w.bits 56 8))).2)
    else match s.xlate 0 2 (w.bits 50 6) a true with
      | (.ok pa, s1) => (s1.futureOp pa (some (w.bits 56 8))).2
      | (.error _, _) => s)

/-! ### Pages: retirement and the executor pool (R239, R300) -/

/-- Tasks on the executors of a page are to requeue at the head of their priority at their next commit. -/
def State.requeuePage (s : State) (die n : Nat) : State :=
  (s.tasks.filter fun p => match p.2.tile with
    | some t => tileDie t == die && pageOf (tileX t) (tileY t) == n
    | none => false).foldl (fun s p => s.setTask p.1 { s.task p.1 with requeue := some true }) s

/-- A page that has left the pool returns once its tasks are gone. -/
def State.leavePool (s : State) (die n : Nat) : State :=
  let p := s.page die n
  let busy := s.tasks.any fun e => match e.2.tile with
    | some t => tileDie t == die && pageOf (tileX t) (tileY t) == n
    | none => false
  if p.st = .pool ∧ (p.retp ∨ !s.pooled die n) ∧ !busy then s.freed die n p else s

/-- Every page that may leave the pool does. -/
def State.leavePools (s : State) : State :=
  (List.range 256).foldl (fun s k => s.leavePool (k / 64) (k % 64)) s

/-- A page marked for retirement: FREE it is RETIRED at once; under a seeded region the region is moved when a place is free; in
the pool its executors stop. -/
def State.markPage (s : State) (die n : Nat) : State :=
  let p := s.page die n
  if p.st = .retired then s
  else
    let s1 := s.setPage die n ({ p with retp := true } : FPage).settle
    match p.st with
    | .free => s1
    | .pool => (s1.requeuePage die n).leavePool die n
    | _ =>
      let hit (e : Nat × Region) : Bool := e.2.die == die && s1.movable e.2 && e.2.pageList.contains n
      match s1.regions.find? hit with
      | none => s1
      | some e =>
        if p.st = .lent then s1
        else match s1.findPlace die e.2.setw e.2.seth e.2.ports e.2.isl with
          | none => s1
          | some o => (execRegionMove (e.1 / 4 / 256) (e.1 / 4 % 256) o.1 o.2 s1).after s1

/-- PGRETIRE_WRITE. -/
def execPgretireWrite (w : Word) (s : State) : Out := .next (s.markPage (w.bits 6 2) (w.bits 0 6))

/-- EXPOOL_WRITE: FREE pages enter the pool; the executors of the others that leave it stop. A placement of the same cycle comes first
(R301). -/
def execExpoolWrite (die : Nat) (w : Word) (s : State) : Out :=
  let s := s.allocate die
  .next ((List.range 64).foldl (fun s n =>
    let p := s.page die n
    if w.bit n ∧ p.st = .free then s.setPage die n { p with st := .pool }
    else if !w.bit n ∧ p.st = .pool then (s.requeuePage die n).leavePool die n
    else s) (s.setDcsr die 0x8210 w))

/-! ### The configuration cache, ingress channels, the event ring -/

/-- CFGCACHE_WRITE: ignored while any copy is in use; the cache starts empty in its new place. -/
def execCfgcacheWrite (die : Nat) (w : Word) (s : State) : Out :=
  .next (if s.ccache.any fun c => c.die == die && s.copyUsed c then s
    else { s with ccache := s.ccache.filter fun c => c.die != die }.setDcsr die 0x8220 (w &&& 0x000000FFFFF00FFF))

/-- INGRESS_CHANNEL_WRITE: DROP is zeroed when EN goes from 0 to 1. -/
def execIngressChannelWrite (n : Nat) (w : Word) (s : State) : Out :=
  let old := s.pkgCsr (0x8400 + n)
  let drop := if !old.bit 32 && w.bit 32 then 0 else old.bits 48 16
  .next (if 32 ≤ n then s
    else s.setPkgCsr (0x8400 + n) (Word.ofN (drop * 2 ^ 48 + (w &&& 0x000000FD0000FFFF).toNat)))

/-- EVIDX_WRITE: RIDX; held events are written where there is room now. -/
def execEvidxWrite (w : Word) (s : State) : Out :=
  .next (s.setPkgCsr 0x8908 (Word.ofN ((s.pkgCsr 0x8908).bits 32 32 * 2 ^ 32 + w.bits 0 32))).flushEvents

/-! ### `ATTCTL` (R428) -/

/-- ATTCTL_GO: BUF is written, and a quote begins unless one is in progress. -/
def execAttctlGo (w : Word) (s : State) : Out :=
  let old := s.pkgCsr 0x8040
  .next (s.setPkgCsr 0x8040 (Word.ofN ((csrMerge 0x8040 old w).toNat + (if w.bit 0 && !old.bit 1 then 2 else 0))))

/-! ### `CHRETIRE` (R435, R436) -/

/-- CHRETIRE_WRITE: new channels begin to migrate; a bit once set stays. -/
def execChretireWrite (die : Nat) (w : Word) (s : State) : Out :=
  let o := s.dcsrAt die 0x8720
  let ret := o.bits 0 16 ||| w.bits 0 16
  let new := ret &&& (0xFFFF - o.bits 0 16)
  .next (s.setDcsr die 0x8720 (Word.ofN ((o.bits 32 16 ||| new) * 2 ^ 32 + o.bits 16 16 * 2 ^ 16 + ret)))

/-! ### A write by number -/

/-- What a write of `QCTL` does: the event it is (R316, R317). -/
def qctlExec (w : Word) (host : Bool) (s : State) : Out :=
  let q := w.bits 0 12
  match w.bits 60 4 with
  | 1 => execQctlEnable q s
  | 2 => execQctlDisable q s
  | 3 => execQctlRestart q (w.bit 59) host s
  | 4 => execQctlResume q s
  | 5 => execQctlDoorbell q s
  | _ => .next s

/-- What a write of `CTXCTL` does. -/
def ctxctlExec (ctx : Nat) (w : Word) (s : State) : Out :=
  match w.bits 60 4 with
  | 1 => execCtxctlCreate ctx (w.bits 44 8) s
  | 2 => execCtxctlSave ctx s
  | 3 => execCtxctlRestore ctx (w.bits 44 8) s
  | 4 => execCtxctlTeardown ctx s
  | _ => .next s

/-- A write of CSR `num` from die `die` and, in the context range, of context `ctx`: a number that acts is the event of its name. -/
def csrExec (die ctx num : Nat) (w : Word) (host : Bool) (s : State) : Out :=
  if num = 0x1030 then execTlclrWrite ctx w s
  else if num = 0x4008 then qctlExec w host s
  else if num = 0x4020 then execCfginvCsrWrite w s
  else if num = 0x8040 then (if w.bit 0 then execAttctlGo w s else execCsrWriteOther die ctx num w s)
  else if num = 0x8140 then execPgretireWrite w s
  else if num = 0x8210 then execExpoolWrite die w s
  else if num = 0x8220 then execCfgcacheWrite die w s
  else if num = 0x8308 then execTbadjWrite w s
  else if num = 0x8328 then (if w.bits 0 2 = 1 then execTbctlSettime s else if w.bits 0 2 = 2 then execTbctlStart s else .next s)
  else if num = 0x8330 ∨ numIn num 0x8341 15 then execLeaveBudgetWrite die num w s
  else if numIn num 0x8400 32 then execIngressChannelWrite (num - 0x8400) w s
  else if num = 0x8680 then execPeercfgWrite w s
  else if num = 0x8720 then execChretireWrite die w s
  else if num = 0x8840 then execVminvWrite w s
  else if num = 0x8850 then execFutsetCsrWrite w s
  else if num = 0x8908 then execEvidxWrite w s
  else if numIn num 0x8B00 64 then ctxctlExec (num - 0x8B00) w s
  else if numIn num 0x8B40 64 then execCtxsaveWrite (num - 0x8B40) w s
  else if num = 0x8BC0 then execShadowWrite die w s
  else if histCsr num ∧ num % 0x40 = 0x20 then execHistcfgWrite die ((num - 0x8C20) / 0x40) w s
  else if num = 0x8E88 then execTrcctlWrite die w s
  else execCsrWriteOther die ctx num w s

def State.csrWrite (s : State) (die ctx num : Nat) (w : Word) (host : Bool) : State := (csrExec die ctx num w host s).after s

/-! ### `csrr`, `csrw` (R410, R411, R414) -/

/-- The fault of an access without the right, or to a number that names no CSR. -/
def State.csrCheck (s : State) (num : Nat) (write : Bool) (w : Word) : Option Nat :=
  let sys := s.sysCtx s.cur.ctx s.cur.die
  let q := w.bits 0 12
  let op := w.bits 60 4
  if (0x8000 ≤ num ∧ !sys) ∨ (write ∧ 0x4000 ≤ num ∧ num < 0x5000 ∧ num ≠ 0x4008 ∧ !sys) then some ftPriv
  else if write ∧ num = 0x4008 ∧ !(decide (3 ≤ op) && decide (op ≤ 5) && s.tableOn && s.qCtx q == s.cur.ctx) then some ftPriv
  else if !csrNamed num then some ftAddr
  else none

/-- Predicates p7 to p1 of the PE or the block, and their poison. -/
def State.predWord (s : State) (m : Form) (pois : Bool) : Nat :=
  (List.range 7).foldl (fun n k =>
    let p := s.readPred m (k + 1)
    n + bit01 (if pois then p.2 else p.1) * 2 ^ (k + 1)) 0

/-- `PFLAG`, `PPRED` and `PPOIS` (R63, R83, R84). -/
def State.peRead (s : State) (m : Form) (num : Nat) : Word :=
  match num with
  | 1 => Word.ofN (match m with
    | .timed => (s.pe s.curPe).flags
    | .block => blkFlags s.curBlk s.cur.idx).toNat
  | 2 => Word.ofN (s.predWord m false + 1)
  | _ => Word.ofN (s.predWord m true)

def csrLat (num : Nat) : Nat := if num < 0x1000 then 1 else if num < 0x2000 then 8 else 16

def execCsrr (h : Hd) (d : Dst) (num : BitVec 16) (s : State) : Out :=
  let m := h.place.form
  let n := num.toNat
  .next (if n < 0x1000 then
      s.act h [] 0 (fun s _ => s.csrCheck n false 0) (fun _ _ => false) fun s _ _ =>
        s.complete m 1 true (ResW.one d (Val.clean (s.peRead m n)) 0)
    else s.query h [] 1 (fun s _ => s.csrCheck n false 0) (fun _ _ => false)
      (fun s _ _ => s.queryResult m d (Val.clean (s.csrRead s.cur.die s.cur.ctx n))) (csrLat n))

/-- What `csrw` of a PE CSR writes: of the predicates it writes the values or the poison, and leaves the other to other results of
its cycle (R85). A predicate written under a poisoned one is poisoned (R84). -/
def State.peWrite (s : State) (m : Form) (num : Nat) (w : Word) (pp : Bool) : ResW :=
  match num with
  | 1 => { clear := BitVec.ofNat 6 w.toNat }
  | 2 => { allPreds := some (BitVec.ofNat 8 (w.bits 1 7 * 2), if pp then 0xFE else BitVec.ofNat 8 (s.predWord m true)),
           half := if pp then none else some false }
  | _ => { allPreds := some (BitVec.ofNat 8 (s.predWord m false), BitVec.ofNat 8 (w.bits 1 7 * 2)), half := some true }

def execCsrw (h : Hd) (a : Src) (num : BitVec 16) (s : State) : Out :=
  let m := h.place.form
  let n := num.toNat
  let check (s : State) (ops : List Val) : Option Nat := match s.csrCheck n true (opn ops 0).v with
    | some c => some c
    | none => if (opn ops 0).p then some ftPoison else none
  .next (if n < 0x1000 then
      s.act h [a] 0 check (fun _ _ => false) fun s ops pp => s.complete m 1 true (s.peWrite m n (opn ops 0).v pp)
    else s.send (.csrw h a num) h [a] 0 true check (fun _ _ => false)
      (fun s ops _ => s.csrWrite s.cur.die s.cur.ctx n (opn ops 0).v false) (csrLat n))

/-! ### `trap` (R412) -/

def execTrap (h : Hd) (a : Src) (code : BitVec 8) (s : State) : Out :=
  .next (s.act h [a] 0 (fun _ _ => none) (fun _ _ => false) fun s ops _ => s.raise h.place.form code.toNat (some (opn ops 0).v))

/-! ### The host's windows (R430, R431) -/

/-- What a physical address of the host's CSR windows names: die, context and number. -/
def hostCsr (pa : Nat) : Option (Nat × Nat × Nat) :=
  let a := pa - 0xFF00000000
  let b := pa - 0xFF00400000
  if pa < 0xFF00000000 then none
  else if a < 0x400000 then (if a % 0x100000 / 8 < 65536 then some (a / 0x100000, 64, a % 0x100000 / 8) else none)
  else if b < 0x200000 then some (0, b / 0x8000, 0x1000 + b % 0x8000 / 8)
  else none

/-- Whether a number is reached through its window: no PE and no context CSR through a die's. -/
def hostNamed (ctx num : Nat) : Bool := csrNamed num && (if ctx < 64 then ctxCsr num else decide (0x2000 ≤ num))

/-- The host's access to device memory, of up to 8 bytes, at the physical address that the memory interfaces use (R13); one of another
length is none. A poisoned value comes as its stored bits (log entry 102). -/
def State.hostMem (s : State) (pa len : Nat) (write : Bool) (w : Word) : State :=
  if len = 0 ∨ 8 < len then { s with busErr := true }
  else if write then s.dStore pa (bytesOfNat len w.toNat) false
  else { s.correct spD pa len with busData := (s.dLoad pa len).v }

/-- An access in the host's windows: only aligned ones of 8 bytes are performed, any other ends in a bus error. -/
def State.hostReg (s : State) (pa len : Nat) (write : Bool) (w : Word) : State :=
  let s0 := { s with busErr := false, cur := Issuer.host }
  if pa % 8 ≠ 0 ∨ len ≠ 8 then { s with busErr := true }
  else match hostCsr pa with
    | none => if write then s0 else { s0 with busData := 0 }
    | some (die, ctx, num) =>
      if write then (if hostNamed ctx num then s0.csrWrite die ctx num w true else s0)
      else { s0 with busData := if hostNamed ctx num then s0.csrRead die ctx num else 0 }

/-- The die that an access of the host goes to over its link to HB: that of the memory or of the register; context CSRs are the
package's own. -/
def hostDie (pa : Nat) : Option Nat :=
  if pa < 0xFF00000000 then some (paDie pa)
  else match hostCsr pa with
    | some (die, ctx, _) => if ctx = 64 then some die else none
    | none => none

/-- HOST_CSR_ACCESS: an access of the host to device memory, or through its windows. It waits while the die's link to HB is not UP, and
ends in a bus error when that link has failed (R9, R393, log entry 102). -/
def execHostCsrAccess (pa len : Nat) (write : Bool) (w : Word) (s : State) : Out :=
  let st := (hostDie pa).elim lnkUp fun d => if 4 ≤ d then lnkUp else s.lnkState (4 * d + 2)
  .next (if st = lnkFailed then { s with busErr := true }
    else if st ≠ lnkUp then s
    else if pa < 0xFF00000000 then { s with busErr := false, cur := Issuer.host }.hostMem pa len write w
    else s.hostReg pa len write w)

end Sys2Proof.Machine
end

