-- ==== Sys2Proof/Machine/System.lean ====
section
/-! DEFINITION. Boot, attestation, the configuration record, self-test, ageing, retirement and the thermal trip (R15, R16, R178, R184,
R194, R295, R300, R409, R425 to R438). -/

namespace Sys2Proof.Machine

/-! ### Firmware images (R426, R427) -/

def byteNum (bs : List Byte) (off n : Nat) : Nat := ((bs.drop off).take n).foldr (fun b acc => b.toNat + 256 * acc) 0

def fwSvn (img : List Byte) : Nat := byteNum img 6 2

/-- Offset and length of the signature section, entry 3 of the directory. -/
def fwSig (img : List Byte) : Nat × Nat := (byteNum img 0x28 4, byteNum img 0x2C 4)

/-- The CRC of R59 over an image: its own field as 0, the signature left out. -/
def fwCrc (img : List Byte) : Nat :=
  let e := fwSig img
  let z := img.take 12 ++ [0, 0, 0, 0] ++ img.drop 16
  crc32c (z.take e.1 ++ z.drop (e.1 + e.2))

/-- Step 1 of boot: the header, the signature under slot 0, and SVN at least the rollback counter. -/
def fwOk (img : List Byte) (svn : Nat) : Bool :=
  let e := fwSig img
  let key := Config.fusedKey 0
  let sig := (img.drop (e.1 + 8)).take (byteNum img (e.1 + 4) 4)
  byteNum img 0 4 == 0x57465A51 && byteNum img 4 2 == 1 && byteNum img 8 4 == img.length && img.length % 8 == 0
    && decide (0x30 ≤ e.1) && e.1 + e.2 == img.length && decide (8 + byteNum img (e.1 + 4) 4 ≤ e.2)
    && fwCrc img == byteNum img 12 4 && decide (svn ≤ fwSvn img) && byteNum img e.1 4 == 0 && key.bit 0
    && decide (Config.lmsLevels sig ≤ key.bits 56 8) && Config.lmsVerifies 0 (img.take e.1) sig

/-! ### Boot (R425) -/

/-- An event of boot, service life or power; the spec gives its record no fields (log entry 35). -/
def State.serviceEvent (s : State) (code die : Nat) (d0 d1 : Word) : State := s.hostEvent evFault 0 code d0 d1 die

/-- The package after a reset: what stands in flash, in fuses and in the security unit stays, and so do the column maps of the matrix
islands (R168). -/
def State.afterReset (s : State) : State :=
  { State.reset with
    misls := (s.misls.filter fun e => !e.2.colmap.isEmpty || e.2.spares != MIsl.init.spares).map fun e =>
      (e.1, { MIsl.init with colmap := e.2.colmap, spares := e.2.spares })
    free := s.free, flash := s.flash, firmware := s.firmware, svn := s.svn, sigsUsed := s.sigsUsed }

/-- Step 3: the configuration record applied; factory values where no copy verifies, with an event. -/
def State.applyRecord (s : State) : State :=
  let r := (s.flash.head?).getD ConfRec.factory
  let s1 := { s with record := r, testFails := r.tests, recLog := r.log }
  let s2 := r.pages.foldl (fun s k => { s with pages := tabPut s.pages k { tabGet FPage.init s.pages k with st := .retired } }) s1
  let s3 := r.cols.foldl (fun s c =>
    let m := s.misl c.1
    if (tabFind m.colmap c.2.1).isSome then s else s.setMisl c.1 { m with colmap := tabPut m.colmap c.2.1 c.2.2 }) s2
  let s3 := r.spares.foldl (fun s c => s.setMisl c.1 { s.misl c.1 with spares := (s.misl c.1).spares.filter fun n => n != c.2 }) s3
  let s4 := r.chans.foldl (fun s c =>
    let w := s.dcsrAt (c / 16) 0x8720
    s.setDcsr (c / 16) 0x8720 (w ||| Word.ofN (2 ^ (c % 16) + 2 ^ (16 + c % 16)))) s3
  if s.flash.isEmpty then s4.serviceEvent ftCheck 0 0 0 else s4

/-- Step 4: device memory zeroed. A channel that fails is retired with no migration; which ones fail is free (log entry 36). -/
def State.zeroMemory (s : State) : State :=
  let bad := Config.freeWord s.free
  ([0, 1, 2, 3] : List Nat).foldl (fun s d =>
    let m := bad.bits (16 * d) 16
    if m = 0 then s
    else
      let w := s.dcsrAt d 0x8720
      s.setDcsr d 0x8720 (w ||| Word.ofN (m + m * 2 ^ 16))) ({ s with free := s.free + 1, dram := Mem.empty }.renewIn spD fun _ => true)

/-- The die links begin to train (R390). -/
def State.trainAll (s : State) : State :=
  (List.range 16).foldl (fun s k => if linkThere k && !isPeer k then s.trainLink k else s) s

/-- Boot with an image that step 1 has accepted; device time starts at 0 (R268). -/
def State.bootWith (s : State) (img : List Byte) : State :=
  let m := Config.sha256 (bytesOfNat 32 0 ++ bytesOfNat 32 (Config.sha256 img).toNat)
  let svn := if s.svn < fwSvn img then fwSvn img else s.svn
  let s1 := { s with meas0 := m, svn := svn, firmware := img, loader := [], boot := .done, tb := Timebase.init }
  (s1.trainAll.applyRecord).zeroMemory

/-- POWER_ON_RESET: copy A of the image, else copy B, else the minimal loader. -/
def execPowerOnReset (imgA imgB : List Byte) (fusedSvn : Nat) (s : State) : Out :=
  let s1 := { s.afterReset with svn := if s.svn < fusedSvn then fusedSvn else s.svn, firmware := imgA }
  .next (if fwOk imgA s1.svn then s1.bootWith imgA
    else if fwOk imgB s1.svn then { s1.bootWith imgB with firmware := imgA }
    else { s1 with boot := .loader, loader := [] })

/-- RECOVERY_IMAGE_FRAME: step 1R; the image is checked when its last frame has come. -/
def execRecoveryImageFrame (payload : List Byte) (last : Bool) (s : State) : Out :=
  let img := s.loader ++ payload
  .next (if s.boot ≠ .loader then s
    else if !last then { s with loader := img }
    else if fwOk img s.svn then s.bootWith img
    else { s with loader := [] })

/-! ### Attestation (R428) -/

/-- QUOTE_COMPLETE: the quote is written behind the nonce, LEN last, and BUSY is cleared. With no signature left LEN is 0. -/
def execQuoteComplete (s : State) : Out :=
  let w := s.pkgCsr 0x8040
  let base := w.bits 6 34 * 64
  .next (if !w.bit 1 then s
    else
      let left := Config.attSignatures - s.sigsUsed
      let put (s : State) (off : Nat) (bs : List Byte) : State := s.dStore (base + off) bs false
      let s1 := put (put (put (put s 0x20 (bytesOfNat 32 s.meas0.toNat)) 0x40 (bytesOfNat 32 s.meas1.toNat)) 0x60
        (bytesOfNat 8 s.stc.toNat)) 0x68 (bytesOfNat 8 left)
      let msg := (List.range 0x70).map fun k => BitVec.ofNat 8 (s1.dLoad (base + k) 1).v.toNat
      let sig := if left = 0 then [] else Config.lmsSign s.sigsUsed msg
      let s2 := put (put (s1.correct spD base 0x70) 0x78 sig) 0x70 (bytesOfNat 4 sig.length)
      { s2 with sigsUsed := s2.sigsUsed + (if left = 0 then 0 else 1) }.setPkgCsr 0x8040 (Word.ofN (w.toNat - 2)))

/-! ### The configuration record (R429) -/

/-- The record as it stands now. -/
def State.recordNow (s : State) (seq : Nat) : ConfRec :=
  { seq := seq
    cols := ((s.misls.map fun e => e.2.colmap.map fun c => (e.1, c.1, c.2))).flatten
    spares := s.misls.flatMap fun e => (([128, 129, 130, 131] : List Nat).filter fun n => !e.2.spares.contains n).map fun n => (e.1, n)
    pages := (s.pages.filter fun e => e.2.st == .retired).map Prod.fst
    chans := (List.range 64).filter fun k => (s.retired (k / 16)).testBit (k % 16)
    tests := s.testFails
    log := s.recLog }

/-- Whether the copy in flash is out of date. -/
def State.recordStale (s : State) : Bool :=
  match s.flash with
  | [] => s.recordNow 0 != ConfRec.factory
  | r :: _ => s.recordNow r.seq != r

/-- Whether the record is to be written in the next second: the copy in flash lacks a retirement, or a write has failed. A change of the
log alone is written once a minute. -/
def State.recordUrgent (s : State) : Bool :=
  let old := (s.flash.head?).getD ConfRec.factory
  let now := s.recordNow old.seq
  decide (old.seq < s.record.seq) || now.cols != old.cols || now.spares != old.spares || now.pages != old.pages || now.chans != old.chans

/-- CONFIG_RECORD_WRITE: the older copy takes the next sequence; a failed write leaves the record in HB memory. -/
def execConfigRecordWrite (ok : Bool) (s : State) : Out :=
  let r := s.recordNow (((s.flash.head?).map ConfRec.seq).getD 0 + 1)
  .next (if !s.recordStale then s
    else if ok then { s with record := r, flash := r :: s.flash.take 1 } else { s with record := r })

/-! ### Self-test (R178, R295, R432, R433) -/

def State.testOf (s : State) (k : Nat) : TestInfo := tabGet TestInfo.init s.testInfo k

def State.setTestOf (s : State) (k : Nat) (t : TestInfo) : State := { s with testInfo := tabPut s.testInfo k t }

/-- Whether a lane of a table that runs holds an island. -/
def State.laneHeld (s : State) (k : Nat) : Bool :=
  s.tabs.any fun t => t.2.runs && t.2.lanes.any fun x => x.island && x.isl == k

/-- Whether the die runs a test of that kind. -/
def State.testing (s : State) (die : Nat) (page : Bool) : Bool := s.tests.any fun t => t.die == die && t.page == page

/-- Cycles of a self-test: 40 µs. -/
def testTime : Nat := 40000

/-- SELF_TEST_START: a FREE page; or an island that is FREE or OWNED, which is saved first unless a lane holds it (R178). A lane's
island is tested in its own entries, whatever else the die tests. What the test disturbs is kept (log entry 37). -/
def execSelfTestStart (die : Nat) (page : Bool) (n : Nat) (s : State) : Out :=
  let run : TestRun := { die := die, page := page, n := n, due := s.cycle + testTime }
  .next (if page then
      let p := s.page die n
      if p.st = .free ∧ !p.retp ∧ !s.testing die true then
        { s with tests := s.tests ++ [run] }.setPage die n { p with st := .testing }
      else s
    else
      let k := 16 * die + n
      let m := s.misl k
      let s1 := s.setTestOf k { s.testOf k with asked := false }
      if (m.st ≠ .free ∧ m.st ≠ .owned) ∨ (!s.laneHeld k ∧ s.testing die false) then s
      else if m.st = .owned ∧ m.lane.isNone then
        let s2 := s1.beginIslSave k true
        { s2 with tests := s2.tests ++ [{ run with due := (s2.misl k).until_ + testTime }] }
      else { s1 with tests := s.tests ++ [run] }.setMisl k { m with st := .testing, before := m.st })

/-- Islands whose frame has been written go on to their test (R178). -/
def State.settleTests (s : State) : State :=
  (s.misls.filter fun e => e.2.st == .saving && e.2.before == .owned && decide (e.2.until_ ≤ s.cycle)).foldl (fun s e =>
    s.setMisl e.1 { e.2.forFrame with st := .testing }) s

/-- An island after its test: the state before, a frame's buffers refilled (R178, R187). -/
def State.endTest (s : State) (k : Nat) : State :=
  let m := s.misl k
  let tile (b : Option BTile) (ix : Nat) : Option BTile := b.map fun _ => s.stackTile k ix
  if m.st ≠ .testing then s
  else if m.before = .owned ∧ m.lane.isNone then
    (s.readTiles k m m.front.isSome m.back.isSome).setMisl k { m with st := .owned, before := .free, front := tile m.front m.frontIx, back := tile m.back m.backIx }
  else s.setMisl k { m with st := m.before, before := .free }

/-- A failing column of an island, remapped with no row to run again; with no spare the island is FAULTED (R184, R432). The test
does not say which column it is: it is free (log entry 37). -/
def State.testFailed (s : State) (k : Nat) : State :=
  let col := (Config.freeWord s.free).bits 0 7
  let r := { s with free := s.free + 1 }.retireCol k col 0 0
  if r.1 then r.2
  else (r.2.setMisl k ((r.2.misl k).faultAll (fun _ => true) r.2.cycle)).umberEvent evFault (r.2.misl k).owner ftCheck
    (Word.ofN (k % 16 * 2 ^ 16 + (r.2.misl k).phys col * 2 ^ 8)) 0 (k / 16)

/-- SELF_TEST_END. -/
def execSelfTestEnd (die : Nat) (page : Bool) (n : Nat) (passed : Bool) (s : State) : Out :=
  let mine (t : TestRun) : Bool := t.die == die && t.page == page && t.n == n
  let s0 := { s with tests := s.tests.filter fun t => !mine t }
  let k := if page then 64 * die + n else 16 * die + n
  let s1 := if passed then s0 else ({ s0 with testFails := s0.testFails ++ [(page, k)] }).logEvent ftCheck die (Word.ofN k) 0
  .next (if !s.tests.any mine then s
    else if page then
      let p := s1.page die n
      s1.freed die n { p with lv := false, retp := p.retp || !passed }
    else
      let t := s1.testOf k
      let s2 := (s1.endTest k).setTestOf k
        { t with stc := s1.stc.toNat % 2 ^ 32, result := if passed then 1 else 2, count := if t.count < 255 then t.count + 1 else 255,
                 last := s1.cycle, late := false }
      if passed then s2 else s2.testFailed k)

/-- SELF_TEST_OVERDUE: a lane-held island whose last test ended more than 100 ms ago; the lane is not pre-empted. -/
def execSelfTestOverdue (isl : Nat) (s : State) : Out :=
  let t := s.testOf isl
  .next (if !s.laneHeld isl ∨ t.late ∨ s.cycle < t.last + 100000000 then s
    else (s.setTestOf isl { t with late := true }).serviceEvent 0 (isl / 16) (Word.ofN (isl % 16)) 0)

/-- The operand check of `stest`. -/
def stestCheck (ops : List Val) : Option Nat := firstCode ((opn ops 0).v.bits 4 60 != 0) false (anyP ops)

def execStestRun (h : Hd) (d : Dst) (a : Src) (s : State) : Out :=
  .next (s.send (.stestRun h d a) h [a] 1 false
    (fun s ops => if !s.sysCtx s.cur.ctx s.cur.die then some ftPriv else stestCheck ops) (fun _ _ => false)
    (fun s ops pp =>
      let k := s.mislKey (opn ops 0)
      let m := s.misl k
      let r : Nat × State := if m.lane.isSome then (1, s) else if m.st = .faulted ∨ m.st = .retired then (2, s)
        else (0, s.setTestOf k { s.testOf k with asked := true })
      r.2.sendResult h.place.form (ResW.one d { v := Word.ofN r.1, p := pp } 0)) 16)

/-- The status word of an island's tests. -/
def TestInfo.word (t : TestInfo) : Word := Word.ofN (t.stc % 2 ^ 32 * 2 ^ 32 + t.result % 4 * 2 ^ 8 + t.count % 256)

def execStestSt (h : Hd) (d : Dst) (a : Src) (s : State) : Out :=
  .next (s.query h [a] 1 (fun _ ops => stestCheck ops) (fun _ _ => false)
    (fun s ops pp => s.queryResult h.place.form d { v := (s.testOf (s.mislKey (opn ops 0))).word, p := pp }) 16)

/-! ### Ageing and soft errors (R409, R434) -/

/-- AGEING_SAMPLE: the first sample below THR sets ALARM and sends an event. -/
def execAgeingSample (die quad ring margin : Nat) (s : State) : Out :=
  let num := 0x8740 + quad % 4
  let w := s.dcsrAt die num
  let thr := w.bits 16 16
  let low := thr ≠ 0 ∧ margin % 2 ^ 16 < thr
  let new := ring % 2 ^ 16 * 2 ^ 48 + margin % 2 ^ 16 * 2 ^ 32 + thr * 2 ^ 16
  .next (if low ∧ !w.bit 0 then (s.setDcsr die num (Word.ofN (new + 1))).serviceEvent 0 die (Word.ofN quad) (Word.ofN (margin % 2 ^ 16))
    else s.setDcsr die num (Word.ofN (new + bit01 (w.bit 0))))

/-- Errors corrected in a page's scratch within the last second of device time (R409). -/
def State.eccCount (s : State) (die page : Nat) : Nat :=
  (s.eccLog.filter fun e => e.1 == 64 * die + page && decide (elapsed e.2 s.tb.time < 10 ^ 9)).length

/-- Whether a page has reached the threshold at which it is marked for retirement; never with a threshold of 0. -/
def State.eccOver (s : State) (die page : Nat) : Bool :=
  let thr := (s.dcsrAt die 0x8708).bits 0 16
  thr != 0 && decide (page < 64) && decide (thr ≤ s.eccCount die page)

/-- ECC_THRESHOLD_RETIRE. -/
def execEccThresholdRetire (die page : Nat) (s : State) : Out :=
  .next (if s.eccOver die page then s.markPage die page else s)

/-! ### Memory channels (R435, R436) -/

/-- CHANNEL_MIGRATION_DONE: the new interleave takes effect at once when no table runs on the die, else at the next mode-change
point. -/
def execChannelMigrationDone (die : Nat) (s : State) : Out :=
  let o := s.dcsrAt die 0x8720
  let s1 := s.setDcsr die 0x8720 (Word.ofN (o.bits 0 32))
  .next (if o.bits 32 16 = 0 then s
    else if s.tabs.any fun t => t.2.runs && t.2.dies.contains die then s1 else s1.remap die)

/-! ### The thermal trip (R437) -/

/-- The launches of a die end ABORTED, and their pages return; a save that is under way is abandoned (R438). -/
def State.tripRegions (s : State) (die : Nat) : State :=
  let mine := s.regions.filter fun e => e.2.die == die && e.2.lane.isNone && e.2.live && e.2.st != .saved
  mine.foldl (fun s e =>
    let ctx := e.1 / 4 / 256
    let h := e.1 / 4 % 256
    let r := s.regionOn ctx h die
    match r.st with
    | .queued => s.dropLaunch ctx h die stAborted ftOverrun
    | .loading => s.dropLaunch ctx h die stAborted ftOverrun
    | .ready => s
    | _ => (s.setRegion ctx h die { r with saving := false }).stopLaunch ctx h die stAborted ftOverrun) s

/-- The lanes of a die end what they run, and run nothing more. -/
def State.tripLanes (s : State) (die : Nat) : State :=
  s.tabs.foldl (fun (s : State) (e : Nat × STab) => if !e.2.dies.contains die then s
    else (List.range e.2.lanes.length).foldl (fun s l => match e.2.lanes[l]? with
      | none => s
      | some x => if x.dies.contains die || (x.island && x.isl / 16 == die) then
          ((if x.island then s else s.stopLane x ftOverrun).onTab e.1 fun t =>
            { (t.onLane l fun y => { y with broken := some ftOverrun, run := none, fall := none }) with st := if t.runs then .amber else t.st })
        else s) s) s

/-- Tasks and commands of a die end ABORTED. -/
def State.tripWork (s : State) (die : Nat) : State :=
  let s1 := (s.tasks.filter fun p => p.2.dieNow == die).foldl (fun s p => s.faultTask p.1 ftOverrun (Word.ofN p.2.addr)) s
  let s2 := (List.range 8).foldl (fun s i =>
    ((s.sisl (8 * die + i)).cmds.filter fun c => !c.done).foldl (fun s c =>
      s.streamEndCmd (8 * die + i) { c with fault := some ftOverrun } false) s) s1
  let s3 := (List.range 16).foldl (fun s i =>
    (s.misl (16 * die + i)).queue.foldl (fun s c => s.mxEnd (16 * die + i) { c with fault := some ftOverrun }) s) s2
  (s3.ccList die).foldl (fun s c => s.ccFault c ftOverrun) s3

/-- THERMAL_TRIP: the die takes no part in work from now on; everything on it ends, with an event and an entry in the log. -/
def execThermalTrip (die : Nat) (s : State) : Out :=
  let w := s.dcsrAt die 0x8760
  let s1 := { s with downDies := setIns s.downDies die }.setDcsr die 0x8760 (w ||| 1)
  .next (if w.bit 0 then s
    else (((((s1.tripLanes die).tripRegions die).tripWork die).hostEvent evFault 0 ftOverrun (Word.ofN die) 0 die)).logEvent ftOverrun die
      (Word.ofN die) 0)

/-! ### Ethernet (R15) -/

/-- ETHERNET_AUTO_NEGOTIATION: a partner that offers an unlisted option is refused, and the port is reported down. -/
def execEthernetAutoNegotiation (port : Nat) (optOk : Bool) (s : State) : Out :=
  .next (if optOk then { s with ethDown := setDel s.ethDown port } else { s with ethDown := setIns s.ethDown port })

end Sys2Proof.Machine
end

