-- ==== Sys2Proof/Machine/Fabric.lean ====
section
/-! DEFINITION. One cycle of a region: the entries that fire, the accesses it performs and what they conflict in, sequencer beats,
the switches and the ports, and the writes at its end (R64, R66, R68, R71, R74 to R76, R85, R124 to R126, R134, R141, R198, R222,
R454). -/

namespace Sys2Proof.Machine

/-! ### Entries (R68) -/

/-- The faults of entries of the present cycle that are read with a parity error (R69). -/
def State.badEntries (s : State) (ctx h die : Nat) : List RFault :=
  (s.entriesAt ctx h die).filterMap fun e =>
    if (s.pe (peKey e.1.die e.1.x e.1.y e.1.pe)).bad.contains e.2.2 then
      some { rank := faultRank e.1.x e.1.y e.1.pe ftCheck, code := ftCheck, data1 := { s with cur := e.1 }.nodeTag }
    else none

/-- The accesses that a region performs in its present cycle (R121): write halves first, whose values the cycle's read halves of
the same word take (R141). -/
def Region.dueAcc (r : Region) : List Acc :=
  let now := r.acc.filter fun a => decide (a.at_ ≤ r.t)
  let half (a : Acc) : Bool := match a.claim with
    | .writeHalf _ _ => true
    | _ => false
  now.filter half ++ now.filter fun a => !half a

/-! ### Conflicts at a memory tile (R124 to R126, R141) -/

/-- The faults of a cycle's timed accesses: `FT_TIME` at each tile with a conflict. `s` is the state before the accesses are
performed, `s1` the one after. -/
def State.clashes (s s1 : State) (ctx h die : Nat) : List RFault :=
  let r := s.regionOn ctx h die
  let now := r.acc.filter fun a => decide (a.at_ ≤ r.t)
  let chans := s1.dueChans ctx h die
  let tiles := (now.map fun a => a.tile) ++ chans.map Prod.fst
  (tiles.foldl setIns []).filterMap fun tile =>
    let l := (now.filter fun a => a.tile == tile).map s.claimOf
      ++ ((chans.filter fun c => c.1 == tile).map fun c => s1.chanClaim c.1 c.2).flatten
    if clash l || portsOver l then some { rank := faultRank (tileX tile) (tileY tile) 0 ftTime, code := ftTime, data1 := 0 } else none

/-! ### Writes at the end of a cycle (R64, R66, R85, R454) -/

/-- Whether a result is written at the end of the present cycle. -/
def Region.writesNow (r : Region) (p : Pend) : Bool := decide (p.due ≤ r.t) && (!p.ext || p.arrived)

/-- An external result that is due and has not arrived: the region waits for it (R73). -/
def Region.waitsExt (r : Region) : Bool := r.pend.any fun p => decide (p.due ≤ r.t) && p.ext && !p.arrived

/-- Bank of the row-file entry that a result writes. -/
def Pend.bank (p : Pend) : Option Nat :=
  match p.wr with
  | .row e _ => some (e % 16)
  | _ => none

/-- The faults of variable-latency results that own no write port of their bank in this slot, or meet another write there. -/
def Region.badWrites (r : Region) : List RFault :=
  let now := r.pend.filter r.writesNow
  let slot := r.counter
  now.filterMap fun p => match p.bank with
    | none => none
    | some b =>
      let owns := r.plans.any fun w => w.tile == p.tile && w.slot == slot && w.bank == b && w.wr == some p.pe
      let others := (now.filter fun q => q.tile == p.tile && q.bank == some b).length
      if !p.fixed && (!owns || decide (1 < others)) then
        some { rank := faultRank (tileX p.tile) (tileY p.tile) p.pe ftTime, code := ftTime, data1 := 0 }
      else none

/-- Results in the order in which their instructions fired: the later one's latch and predicates stand (R85). -/
def insFired (l : List Pend) (p : Pend) : List Pend :=
  l.filter (fun q => decide (q.fired ≤ p.fired)) ++ p :: l.filter fun q => !decide (q.fired ≤ p.fired)

/-- A write to a PE. -/
def Pe.write (p : Pe) : Wr → Pe
  | .latch v => { p with latch := v }
  | .pred k v pois => if k = 0 ∨ 8 ≤ k then p else
    { p with pred := if v then p.pred ||| BitVec.ofNat 8 (2 ^ k) else p.pred &&& ~~~BitVec.ofNat 8 (2 ^ k)
             ppois := if pois then p.ppois ||| BitVec.ofNat 8 (2 ^ k) else p.ppois &&& ~~~BitVec.ofNat 8 (2 ^ k) }
  | .preds v pois => { p with pred := v &&& 0xFE#8, ppois := pois &&& 0xFE#8 }
  | .predVals v => { p with pred := v &&& 0xFE#8 }
  | .predPois pois => { p with ppois := pois &&& 0xFE#8 }
  | .flags f => { p with flags := p.flags ||| f }
  | .pflagClear f => { p with flags := p.flags &&& ~~~f }
  | _ => p

/-- One result written; a fault that follows a completion point is raised. Route outputs go through the switches. -/
def State.applyWr (s : State) (ctx h die : Nat) (p : Pend) : State :=
  match p.wr with
  | .row e v => s.setRow p.tile e v
  | .out _ _ => s
  | .waiting _ => s
  | .fault c =>
    let r := s.regionOn ctx h die
    s.setRegion ctx h die { r with faults := r.faults ++
      [{ rank := faultRank (tileX p.tile) (tileY p.tile) p.pe c, code := c, data1 := 0 }] }
  | w => s.setPe (p.tile * 16 + p.pe) ((s.pe (p.tile * 16 + p.pe)).write w)

def Wr.clears : Wr → Bool
  | .pflagClear _ => true
  | _ => false

/-- The results of the cycle written; flags are cleared before others are raised (R63). -/
def State.writeResults (s : State) (ctx h die : Nat) : State :=
  let r := s.regionOn ctx h die
  let now := (r.pend.filter r.writesNow).foldl insFired []
  let s1 := s.setRegion ctx h die { r with pend := r.pend.filter fun p => !r.writesNow p }
  let s2 := (now.filter fun p => p.wr.clears).foldl (fun s p => s.applyWr ctx h die p) s1
  (now.filter fun p => !p.wr.clears).foldl (fun s p => s.applyWr ctx h die p) s2

/-! ### Switches and ports (R74, R75, R172, R198, R222) -/

def Region.portTile (r : Region) (p : PortW) : Nat := tileKey r.die (4 * r.px + p.x) (4 * r.py + p.y)

def Region.portAt (r : Region) (tile edge : Nat) (out : Bool) : Option PortW :=
  r.ports.find? fun p => r.portTile p == tile && p.edge == edge && p.out == out

/-- The routes of the present cycle. -/
def Region.nowRoutes (r : Region) : List RouteW := r.routes.filter fun q => q.slot == r.t % (if q.len = 0 then 1 else q.len)

/-- The oldest beat that waits at an input port: seeds stand before what an island lane holds. -/
def State.portHead (s : State) (r : Region) (p : PortW) : Option Beat :=
  match tabGet [] r.inq p.idx with
  | b :: _ => some b
  | [] => if p.tgt = 0 then none else ((s.misl (16 * r.die + r.isl.getD 0)).outl.getD p.lane []).head?

/-- That beat taken. -/
def State.portTake (s : State) (ctx h die : Nat) (p : PortW) : State :=
  let r := s.regionOn ctx h die
  match tabGet [] r.inq p.idx with
  | _ :: rest => s.setRegion ctx h die { r with inq := tabPut r.inq p.idx rest }
  | [] =>
    let k := 16 * die + r.isl.getD 0
    let m := s.misl k
    s.setMisl k { m with outl := m.outl.set p.lane ((m.outl.getD p.lane []).drop 1) }

/-- Whether an output port has room for a beat. -/
def State.portRoom (s : State) (r : Region) (p : PortW) : Bool :=
  if p.tgt = 0 then decide ((tabGet [] r.outq p.idx).length < Config.portDepth + 1)
  else decide (((s.misl (16 * r.die + r.isl.getD 0)).inl.getD p.lane []).length < 16)

/-- A beat placed in it. -/
def State.portPut (s : State) (ctx h die : Nat) (p : PortW) (b : Beat) : State :=
  let r := s.regionOn ctx h die
  if p.tgt = 0 then s.setRegion ctx h die { r with outq := tabPut r.outq p.idx (tabGet [] r.outq p.idx ++ [b]) }
  else
    let k := 16 * die + r.isl.getD 0
    let m := s.misl k
    s.setMisl k { m with inl := m.inl.set p.lane (m.inl.getD p.lane [] ++ [b]) }

/-- A beat leaving a switch by one of its outputs. -/
def State.sendBeat (s : State) (ctx h die tile out : Nat) (b : Beat) : Option State :=
  let r := s.regionOn ctx h die
  if 8 ≤ out then some (s.setRouteIn tile (out - 8) b)
  else match r.portAt tile out true with
    | some p => if s.portRoom r p then some (s.portPut ctx h die p b) else none
    | none => match outFeeds tile out with
      | some (t, src) => some (s.setRegion ctx h die { r with flights := r.flights ++ [{ tile := t, src := src, b := b }] })
      | none => some s

/-- The input ports whose beat the switches take in the present cycle; a region that drains takes none. -/
def Region.wanted (r : Region) : List PortW :=
  if r.st = .running then
    r.ports.filter fun p => !p.out && r.nowRoutes.any fun q => q.tile == r.portTile p && q.src == p.edge
  else []

/-- One step of every switch of a region: the beats `fl` that have reached them, and those of the input ports. None where a port
has no beat or no room: the region waits (log entry 83). -/
def State.switchStep (s : State) (ctx h die : Nat) (fl : List Flight) : Option State :=
  let r := s.regionOn ctx h die
  let want := r.wanted
  if want.any fun p => (s.portHead r p).isNone then none
  else
    let ins : List Flight := want.map fun p => { tile := r.portTile p, src := p.edge, b := (s.portHead r p).getD Beat.zero }
    let s1 := want.foldl (fun s p => s.portTake ctx h die p) s
    r.nowRoutes.foldl (fun (acc : Option State) q => match acc with
      | none => none
      | some s => match (ins ++ fl).find? fun f => f.tile == q.tile && f.src == q.src with
        | none => some s
        | some f => s.sendBeat ctx h die q.tile q.out f.b) (some s1)

/-! ### The end of a cycle -/

/-- Everything of a cycle after its instructions and accesses: sequencer beats, switches, writes; then the next cycle comes. None
where a port holds the region. -/
def State.finishCycle (s : State) (ctx h die : Nat) : Option State :=
  let r := s.regionOn ctx h die
  let outs := (r.pend.filter r.writesNow).filterMap fun p => match p.wr with
    | .out n b => some ({ tile := p.tile, src := 8 + n, b := b } : Flight)
    | _ => none
  let s1 := s.setRegion ctx h die { r with flights := [] }
  let s2 := (s.dueChans ctx h die).foldl (fun s c =>
    (s.takePort c.1 ((s.chanClaim c.1 c.2).headD .nothing) false).chanBeat c.1 c.2) s1
  match s2.switchStep ctx h die (r.flights ++ outs) with
  | none => none
  | some s3 =>
    let s4 := s3.writeResults ctx h die
    let r4 := s4.regionOn ctx h die
    some (s4.setRegion ctx h die { r4 with t := r4.t + 1, acc := r4.acc.filter fun a => !decide (a.at_ ≤ r4.t) })

/-- The phase counters of R420: a cycle, frozen or not, counts in its phase. -/
def Region.count (r : Region) : Region :=
  if r.st = .draining ∨ r.pastEnd then { r with cDrain := r.cDrain + 1 }
  else if r.admission + 1 < r.stages then { r with cFill := r.cFill + 1 }
  else if r.admission < r.n then { r with cSteady := r.cSteady + 1 }
  else { r with cDrain := r.cDrain + 1 }

/-- The first breakpoint that an entry of the cycle matches, with the entry's tag: a region stops for it at the end of the cycle
(R418). -/
def State.bpOf (s : State) (ctx h die : Nat) : Option (Nat × Word) :=
  if !s.debugged ctx then none
  else (s.entries ctx h die).findSome? fun e =>
    let s1 := { s with cur := e.1 }
    match decodeWord .timed e.2 with
    | .error _ => none
    | .ok i => match i.hd with
      | none => none
      | some hd => if (s1.fires hd).1 then (s1.bpHit ctx s1.nodeTag).map fun n => (n, s1.nodeTag) else none

/-- A region stopped by `halt`, `brk` or a breakpoint: HALTED (R238, R418). -/
def State.haltRegion (s : State) (ctx h die : Nat) : State :=
  (s.setRegion ctx h die { s.regionOn ctx h die with st := .halted, stop := false }).syncPages ctx h die

/-- The record of a region's halt, sent in the cycle after it: a `cancel` in the cycle of the halt leaves none (R231). -/
def State.haltReport (s : State) (ctx h die : Nat) : State :=
  let r := s.regionOn ctx h die
  match r.haltTag with
  | none => s
  | some (tag, node) =>
    (s.setRegion ctx h die { r with haltTag := none }).debugEvent ctx
      { kind := evHalt, code := 0, queue := r.queue, ctx := ctx, die := die, tag := tag, data0 := workId r.serial h, data1 := node }

/-- The end of a cycle: a fault ends the launch, a halt or a breakpoint stops it (R406, R407, R419). -/
def State.endCycle (s : State) (ctx h die : Nat) : State :=
  let bp := s.bpOf ctx h die
  match s.finishCycle ctx h die with
  | none => s
  | some s1 =>
    let r := s1.regionOn ctx h die
    let c := (s.regionOn ctx h die).count
    let r1 := { r with cFill := c.cFill, cSteady := c.cSteady, cDrain := c.cDrain, frozen := false, quiet := none,
                       stop := r.stop || bp.isSome, haltTag := match r.haltTag, bp with
                         | some x, _ => some x
                         | none, some (n, node) => some (Word.ofN n, node)
                         | none, none => none }
    let s2 := s1.setRegion ctx h die r1
    if r1.faults ≠ [] then s2.regionFault ctx h die
    else if r1.stop ∧ r1.st = .running then s2.haltRegion ctx h die else s2

/-! ### ARMING (R224) -/

/-- One constant record, or else one seed, of a region in ARMING; with none left the gates open and the counter begins. The last seed
is placed first, each ahead of what its port holds, so that a port's seeds stand there in record order before all stream data. -/
def State.armStep (s : State) (ctx h die : Nat) : State :=
  let r := s.regionOn ctx h die
  match r.consts, r.seeds.getLast? with
  | (x, y, pe, k, w) :: rest, _ =>
    let key := tileKey die (4 * r.px + x) (4 * r.py + y) * 16 + pe
    (s.setPe key { s.pe key with k := (s.pe key).k.set k (Val.clean w) }).setRegion ctx h die { r with consts := rest }
  | [], some (idx, w) =>
    s.setRegion ctx h die { r with seeds := r.seeds.dropLast, inq := tabPut r.inq idx ({ v := Val.clean w, sb := 0 } :: tabGet [] r.inq idx) }
  | [], none => ((s.setRegion ctx h die { r with st := .running, t := 0, frozen := false, quiet := none }).syncPages ctx h die).cardRuns r.card

/-- A region that stands still in a cycle: `firstStc` keeps the tick count of the cycle in which its present cycle was first tried
(R292). -/
def State.standStill (s : State) (ctx h die : Nat) : State :=
  let r := s.regionOn ctx h die
  s.setRegion ctx h die { r.count with frozen := true, firstStc := if r.frozen then r.firstStc else s.stc.toNat }

end Sys2Proof.Machine
end

