-- ==== Sys2Proof/Machine/Ecc.lean ====
section
/-! DEFINITION. Errors of stored bits: how they arise, and the reads that correct those of a single bit (R53, R62, R69, R70, R78, R129,
R148, R181, R356, R409, R455). -/

namespace Sys2Proof.Machine

/-! ### Reads and stores (R129, R148, R455) -/

/-- Bytes of an element of 2^sz bytes as spans of offsets, and those of a line. -/
def elemSpans (col : Bool) (sz off : Nat) : List (Nat × Nat) :=
  if sz < 3 then [(off, 2 ^ sz)] else [(off, 4), (off + stride col, 4)]

def lineSpans (col : Bool) (off : Nat) : List (Nat × Nat) := (List.range 16).map fun k => (off + k * stride col, 4)

/-- What an access reads and stores of a memory tile's cells: spans of offsets. -/
def cellSpans (i : Instr) (ops : List Val) : List (Nat × Nat) × List (Nat × Nat) :=
  let a (k : Nat) : Word := (opn ops k).v
  let atom (w64 : Bool) : List (Nat × Nat) × List (Nat × Nat) := ([(sOff (a 0), if w64 then 8 else 4)], [])
  match i with
  | .ld _ _ _ col sz _ => (elemSpans col sz.toNat (sOff (a 0)), [])
  | .ldx _ _ _ _ col sz _ => (elemSpans col sz.toNat (sOff (indexed sz.toNat (opn ops 0) (opn ops 1))), [])
  | .ldl _ _ _ col => (lineSpans col (sOff (a 0)), [])
  | .ldt _ _ _ col _ => (lineSpans col (sOff (a 0)), [])
  | .st _ _ _ col sz => ([], elemSpans col sz.toNat (sOff (a 0)))
  | .stx _ _ _ _ col sz => ([], elemSpans col sz.toNat (sOff (indexed sz.toNat (opn ops 1) (opn ops 2))))
  | .stl _ _ _ col => ([], lineSpans col (sOff (a 0)))
  | .aadd _ _ _ _ w _ _ => atom w
  | .amin _ _ _ _ w _ _ => atom w
  | .amax _ _ _ _ w _ _ => atom w
  | .aminu _ _ _ _ w _ _ => atom w
  | .amaxu _ _ _ _ w _ _ => atom w
  | .aand _ _ _ _ w _ _ => atom w
  | .aor _ _ _ _ w _ _ => atom w
  | .axor _ _ _ _ w _ _ => atom w
  | .aswp _ _ _ _ w _ _ => atom w
  | .acas _ _ _ _ w _ _ => atom w
  | .ainc _ _ _ _ w _ _ => atom w
  | .adec _ _ _ _ w _ _ => atom w
  | .afadd _ _ _ _ _ _ _ => atom false
  | .redadd _ _ _ w _ _ => atom w
  | .redfadd _ _ _ _ _ _ => atom false
  | .redmax _ _ _ w _ _ => atom w
  | _ => ([], [])

/-- Whether an access to a partition or to device memory stores. -/
def storesAway : Instr → Bool
  | .stp _ _ _ _ => true
  | .pstx _ _ _ _ _ => true
  | .dqst _ _ _ _ _ => true
  | _ => false

/-- Single-bit errors that an access to a memory tile meets: those it reads are corrected, those it stores over are gone. -/
def State.checkTile (s : State) (tile : Nat) (i : Instr) (ops : List Val) : State :=
  if s.weak.isEmpty then s
  else
    let sp := cellSpans i ops
    let ring (k : Nat) : State := s.correct spS (sKey tile ((s.ring tile k).slotOff ((s.ring tile k).next (s.ring tile k).held))) 8
    match i with
    | .qpop _ _ _ _ => ring (ringNo (opn ops 0).v)
    | _ => sp.2.foldl (fun s e => s.renew spS (sKey tile e.1) e.2) (sp.1.foldl (fun s e => s.correct spS (sKey tile e.1) e.2) s)

/-- The same for a request where it is performed. -/
def State.checkReq (s : State) (r : Req) : State :=
  if s.weak.isEmpty then s
  else
    let go (sp : Nat) : State :=
      if storesAway r.i then s.renew sp (keptAt r.who.ops) (accBytes r.i) else s.correct sp (keptAt r.who.ops) (accBytes r.i)
    match r.place with
    | .tile k => s.checkTile k r.i r.who.ops
    | .part _ => go spP
    | .chan _ _ => go spD
    | .unit _ => s

/-! ### Errors that arise (log entry 60) -/

/-- The low `n` bytes of a memory at `a` with the bits of `m` flipped. -/
def Mem.flip (x : Mem) (a n : Nat) (m : Word) : Mem :=
  x.putBytes a (bytesOfNat n ((Word.ofN (x.num a n)) ^^^ m).toNat)

/-- An error that no code corrects: stored bits flip, and the granule reads poisoned (R129). -/
def Mem.break (x : Mem) (g k : Nat) (m : Word) : Mem := { x.flip (k * g) (if g < 8 then g else 8) m with pois := setIns x.pois k }

def State.breakCell (s : State) (sp k : Nat) (m : Word) : State :=
  let s1 := { s with weak := setDel s.weak (4 * k + sp) }
  if sp = spS then { s1 with mem := s1.mem.break 4 k m }
  else if sp = spP then { s1 with pdb := s1.pdb.break 8 k m }
  else if sp = spD then { s1 with dram := s1.dram.break 32 k m }
  else { s1 with wst := s1.wst.break 8 k m }

/-- A value whose parity is wrong: its stored bits, poisoned (R53). -/
def broken (v : Val) (m : Word) : Val := { v := v.v ^^^ m, p := true }

/-- What errs in a cycle: a granule that its code corrects, or one that it does not; a row-file entry; a constant; an entry of a timed
list; an accumulator; a barrier slot; a saved frame, which then fails its CRC (R348). -/
inductive Upset where
  | weak (sp k : Nat)
  | cell (sp k : Nat) (m : Word)
  | row (tile e : Nat) (m : Word)
  | konst (pe j : Nat) (m : Word)
  | entry (pe j : Nat)
  | accu (isl row col : Nat) (m : Word)
  | bar (tile k : Nat)
  | frame (n : Nat)
deriving DecidableEq, Repr

/-- Granules of a space on all dies. -/
def granulesIn (sp : Nat) : Nat :=
  if sp = spS then 4096 * 2 ^ 16 else if sp = spP then 192 * 2 ^ 18 else if sp = spD then Config.deviceBytes / 32 else 2 ^ 34

/-- What two free words say of a cycle; in most nothing errs. -/
def upsetOf (w m : Word) : Option Upset :=
  let n := w.bits 0 50
  let sp := w.bits 50 2
  if !w.bit 63 then none
  else match w.bits 56 3 with
    | 0 => some (.weak sp (n % granulesIn sp))
    | 1 => some (.cell sp (n % granulesIn sp) m)
    | 2 => some (.row (n / 192 % 4096) (n % 192) m)
    | 3 => some (.konst (n / 4 % 65536) (n % 4) m)
    | 4 => some (.entry (n / 256 % 65536) (n % 256))
    | 5 => some (.accu (n / 16384 % 64) (n / 128 % 128) (n % 128) m)
    | 6 => some (.bar (n / 16 % 4096) (n % 16))
    | _ => some (.frame n)

def State.err (s : State) : Upset → State
  | .weak sp k => { s with weak := setIns s.weak (4 * k + sp) }
  | .cell sp k m => s.breakCell sp k m
  | .row tile e m => if computeTile (tileX tile) (tileY tile) then s.setRow tile e (broken (s.row tile e) m) else s
  | .konst pe j m =>
    if computeTile (tileX (pe / 16)) (tileY (pe / 16)) then
      s.setPe pe { s.pe pe with k := (s.pe pe).k.set j (broken ((s.pe pe).k.getD j Val.zero) m) }
    else s
  | .entry pe j => if j < (s.pe pe).list.length then s.setPe pe { s.pe pe with bad := setIns (s.pe pe).bad j } else s
  | .accu isl row col m =>
    let x := s.misl isl
    s.setMisl isl { x with c := tabPut x.c (128 * row + col) (Nat.xor (tabGet 0 x.c (128 * row + col)) (m.bits 0 32)), rowP := setIns x.rowP row }
  | .bar tile k =>
    let b := s.bar tile k
    if b.st = 1 ∨ b.st = 2 then s.setBar tile k { b with st := 3 } else s
  | .frame n => match s.saved[n % s.saved.length]? with
    | some e => { s with saved := tabPut s.saved e.1 { e.2 with bad := some ftCheck } }
    | none => s

/-- The error of the present cycle, if there is one. -/
def State.upset (s : State) : State :=
  let s1 := { s with free := s.free + 2 }
  match upsetOf (Config.freeWord s.free) (Config.freeWord (s.free + 1)) with
  | some u => s1.err u
  | none => s1

end Sys2Proof.Machine
end

