-- ==== Sys2Proof/Machine/Arrive.lean ====
section
/-! DEFINITION. The arrival of external results, and the readiness of the instructions of a block (R66, R67, R72, R83, R240 to
R243, R263). -/

namespace Sys2Proof.Machine

/-! ### External results (R66) -/

/-- A result that has arrived takes its place among the results in flight of its region; it is written at the end of its due cycle. -/
def State.arriveTimed (s : State) (q : Reply) : State :=
  let r := s.regionOn q.who.ctx q.who.handle q.who.die
  let hit (p : Pend) : Bool := p.ext && !p.arrived && p.tag == q.who.tag && p.tile == q.tile
  let put (p : Pend) : List Pend :=
    if hit p then { p with arrived := true } :: q.wrs.map fun w => { p with arrived := true, wr := w } else [p]
  s.setRegion q.who.ctx q.who.handle q.who.die { r with pend := (r.pend.map put).flatten }

/-- The result of a reply, for a block. -/
def Reply.result (q : Reply) : ResW :=
  { dsts := q.dsts, latch := q.latch,
    preds := q.wrs.filterMap fun w => match w with
      | .pred p v pois => some (p, v, pois)
      | _ => none
    allPreds := q.wrs.findSome? fun w => match w with
      | .preds v pois => some (v, pois)
      | _ => none
    flags := q.wrs.foldl (fun f w => match w with
      | .flags g => f ||| g
      | _ => f) 0
    clear := q.wrs.foldl (fun f w => match w with
      | .pflagClear g => f ||| g
      | _ => f) 0 }

/-- A result that has arrived at a block: read from the next cycle on; a fault that comes with it discards the block. -/
def State.arriveBlock (s : State) (q : Reply) : State :=
  let k := q.who.task
  match (s.task k).blk with
  | none => s
  | some b =>
    let b1 := blkPut { b with out := b.out.filter (· != q.who.idx) } q.who.idx (s.cycle + 1) q.result
    let s1 := s.setTask k { s.task k with blk := some b1 }
    match q.wrs.findSome? fun w => match w with
      | .fault c => some c
      | _ => none with
    | some c => { s1 with cur := { q.who with phase := .perform } }.raise .block c
    | none => s1

/-- EXTERNAL_RESULT_ARRIVAL: the first reply to a compute tile whose time has come. -/
def execExternalResultArrival (tile : Nat) (s : State) : Out :=
  .next (match s.replies.find? fun q => q.tile == tile && decide (q.at_ ≤ s.cycle) with
    | none => s
    | some q =>
      let s1 := { s with replies := s.replies.erase q }
      match q.form with
      | .timed => s1.arriveTimed q
      | .block => s1.arriveBlock q)

/-! ### Readiness in a block (R243) -/

/-- Predicates that an instruction reads beside PS. -/
def predReads : Instr → List Nat
  | .adc _ _ _ _ cp => [cp.toNat]
  | .sbb _ _ _ _ cp => [cp.toNat]
  | .plog _ _ pa pb _ => [pa.toNat, pb.toNat]
  | .sel _ _ _ _ _ p => [p.toNat]
  | .pmovGet _ _ => [1, 2, 3, 4, 5, 6, 7]
  | _ => []

/-- Predicates that an instruction of a block writes before the commit. -/
def predWrites : Instr → List Nat
  | .adc _ _ _ _ cp => [cp.toNat]
  | .sbb _ _ _ _ cp => [cp.toNat]
  | .cmp _ pd _ _ _ => [pd.toNat]
  | .cmpi _ pd _ _ _ => [pd.toNat]
  | .plog _ pd _ _ _ => [pd.toNat]
  | .pmovPut _ _ => [1, 2, 3, 4, 5, 6, 7]
  | .csrw _ _ num => if num = 2 ∨ num = 3 then [1, 2, 3, 4, 5, 6, 7] else []
  | _ => []

/-- Accesses to a PE's own CSRs: they follow every instruction before them. -/
def ownCsr : Instr → Bool
  | .csrr _ _ num => decide (num.toNat < 0x1000)
  | .csrw _ _ num => decide (num.toNat < 0x1000)
  | _ => false

def isNul : Instr → Bool
  | .nulSt _ _ => true
  | .nulH _ _ => true
  | _ => false

def isFence : Instr → Bool
  | .fence _ _ _ => true
  | _ => false

/-- Whether the predicate `p` that a read at index `n + 1` names has been produced. -/
def predReady (is : List Instr) (b : Blk) (now p : Nat) : Nat → Bool
  | 0 => true
  | n + 1 => match is[n]? with
    | none => true
    | some i =>
      if p ≠ 0 ∧ (predWrites i).contains p then
        if b.off.contains (n + 1) then predReady is b now p n
        else match tabFind b.preds (8 * (n + 1) + p) with
          | some q => decide (q.2.2 ≤ now)
          | none => false
      else predReady is b now p n

/-- Whether the value of `d` that a read at index `n + 1` names has been produced. -/
def valReady (is : List Instr) (b : Blk) (now : Nat) (d : Dst) : Nat → Bool
  | 0 => true
  | n + 1 => match is[n]? with
    | none => true
    | some i =>
      if (destsOf i).contains d then
        if b.off.contains (n + 1) then valReady is b now d n
        else b.res.any fun q => q.1 / 16 == n + 1 && q.2.dst == some d && decide (q.2.from_ ≤ now)
      else valReady is b now d n

/-- Whether the latch result of index `n` has been produced (R72). -/
def latchReady (is : List Instr) (b : Blk) (now n : Nat) : Bool :=
  if n = 0 then true
  else if !b.fired.contains n then false
  else if b.off.contains n then match is[n - 1]? with
    | none => true
    | some i => match (destsOf i).head? with
      | some (.row e) => valReady is b now (.row e) (n - 1)
      | some (.h k) => valReady is b now (.h k) (n - 1)
      | _ => true
  else match tabFind b.res (16 * n + 15) with
    | some r => decide (r.from_ ≤ now)
    | none => !b.out.contains n

def srcReady (is : List Instr) (b : Blk) (now idx : Nat) (a : Src) : Bool :=
  match a with
  | .row n => valReady is b now (.row n) (idx - 1)
  | .h k => valReady is b now (.h k) (idx - 1)
  | a => latchBack a == 0 || latchReady is b now (idx - latchBack a)

/-- Whether everything before index `idx` has completed. -/
def beforeDone (b : Blk) (now idx : Nat) : Bool :=
  (List.range (idx - 1)).all fun j => b.fired.contains (j + 1) && !b.out.contains (j + 1)
    && b.res.all (fun r => r.1 / 16 != j + 1 || decide (r.2.from_ ≤ now)) && b.preds.all fun p => p.1 / 8 != j + 1 || decide (p.2.2.2 ≤ now)

/-- Whether the instruction of index `idx` is ready: it has not fired, every `nul` that names it has, its predicate is produced
unless it is nulled (R263), and, when it fires in full, everything it reads is. -/
def instrReady (is : List Instr) (b : Blk) (now idx : Nat) : Bool :=
  match is[idx - 1]? with
  | none => false
  | some i => match i.hd with
    | none => false
    | some h =>
      let named := (List.range (idx - 1)).all fun j => match is[j]? with
        | some n => !isNul n || b.fired.contains (j + 1) || !((nulNames is (j + 1) n).getD []).contains idx
        | none => true
      let ps := h.ps.toNat
      let on := ps == 0 || (blkPred b idx ps).1 != h.pn
      !b.fired.contains idx && named && (b.nulled.contains idx || predReady is b now ps (idx - 1) && (!on
        || ((predReads i).all (fun p => predReady is b now p (idx - 1)) && (sourcesOf i).all (srcReady is b now idx)
          && (!ownCsr i || beforeDone b now idx))))

/-- The ready instructions of a block, by PE and index. -/
def readyOn (is : List Instr) (b : Blk) (now pe : Nat) : List Nat :=
  (List.range is.length).filterMap fun j => if j % 16 = pe ∧ instrReady is b now (j + 1) then some (j + 1) else none

/-- The issuer of the instruction of index `idx` of a task's block. -/
def Task.issuer (t : Task) (k idx : Nat) : Issuer :=
  let tile := t.tile.getD 0
  { Issuer.init with die := tileDie tile, x := tileX tile, y := tileY tile, pe := (idx - 1) % 16, ctx := t.ctx, handle := 256, task := k,
                     idx := idx }

/-- A fence of a block stands at its boundary: nothing fires while an operation of an earlier block, an
invalidation of configurations included (R237), is still to be performed. -/
def State.fenced (s : State) (k : Nat) (is : List Instr) (b : Blk) : Bool :=
  is.any isFence && (s.reqs.any (fun r => r.who.task == k && decide (r.born < b.start)) || s.cinvs.any fun c => c.who.task == k)

end Sys2Proof.Machine
end

