-- ==== Sys2Proof/Machine/Atomic.lean ====
section
/-! DEFINITION. The sixteen atomics of space S (R141 to R144). -/

namespace Sys2Proof.Machine

/-- The plane and words of an atomic's read half. -/
def atomicClaim (sz : Nat) (_ : State) (off : Nat) (_ : List Val) : Claim :=
  .readHalf (off / 2 ^ 14) (off / 4 * 2 + (if sz = 3 then 1 else 0))

/-- The new value of an atomic: of a timed access within its page in the write half, a cycle later (R141); else at once. -/
def State.atomicWrite (s : State) (i : Instr) (m : Form) (tile off sz : Nat) (ops : List Val) (v : Val) : State :=
  if m = .timed ∧ s.cur.tag = 0 then
    s.addAcc { s.cur with ops := ops ++ [v] } i tile (s.curRegion.t + 1)
      (.writeHalf (off / 2 ^ 14) (off / 4 * 2 + (if sz = 3 then 1 else 0)))
  else s.sWrite tile off sz false v

/-- An atomic at the S address that is its first operand, on an element of 2^sz bytes. `f` gives the new value and its flags from
the old value and the operands; `d` receives the old value where there is one. A poisoned element is written back as poison, and
is reported in p[ST], or, for ST 0, by `FT_POISON` after the completion (R143). A write half carries the new value behind the
operands. -/
def State.atomic (s : State) (i : Instr) (h : Hd) (d : Option Dst) (srcs : List Src) (sz scp st : Nat)
    (f : Word → List Val → Word × Flags) : State :=
  let m := h.place.form
  s.scratch i h srcs (if d.isSome then 1 else 0) true true (fun ops => (opn ops 0).v)
    (fun _ ops => if !elemAligned false sz (sOff (opn ops 0).v) then some ftAlign
      else if ops.any (fun v => v.p) then some ftPoison else none)
    (atomicClaim sz) (fun s tile _ => s.orderWait tile (scp != 0)) fun s tile off ops pp =>
      if srcs.length < ops.length then s.sWrite tile off sz false (opn ops srcs.length)
      else
        let old := s.sRead tile off sz false
        let r := f old.v ops
        let s1 := s.atomicWrite i m tile off sz ops (if old.p then old else { v := r.1, p := pp })
        let v : Val := { v := old.v, p := old.p || pp }
        s1.scratchAnswer m
          { dsts := d.toList.map fun x => (x, v), latch := if d.isSome then some v else none,
            preds := if st = 0 then [] else [(st, old.p, pp)], flags := if old.p then 0 else r.2 }
          (if old.p && st == 0 then some ftPoison else none)

def szOf (w64 : Bool) : Nat := if w64 then 3 else 2

/-- A number as the low `sz`-sized bits of a word, zero-extended. -/
def low (sz : Nat) (w : Word) : Nat := w.toNat % 2 ^ (8 * 2 ^ sz)

/-- A number of 8 · 2^sz bits as a signed one. -/
def signedLow (sz : Nat) (w : Word) : Int :=
  if low sz w < 2 ^ (8 * 2 ^ sz - 1) then (low sz w : Int) else (low sz w : Int) - (2 ^ (8 * 2 ^ sz) : Nat)

/-- An integer operation on old and s = b at the element's width. -/
def State.atomicInt (s : State) (i : Instr) (h : Hd) (d : Option Dst) (a b : Src) (w64 : Bool) (scp : BitVec 2) (st : BitVec 3)
    (f : Nat → Word → Word → Word) : State :=
  s.atomic i h d [a, b] (szOf w64) scp.toNat st.toNat fun old ops =>
    (Word.ofN (low (szOf w64) (f (szOf w64) old (Word.ofN (low (szOf w64) (opn ops 1).v)))), 0)

def atomMin (sz : Nat) (x y : Word) : Word := if signedLow sz y < signedLow sz x then y else x

def atomMax (sz : Nat) (x y : Word) : Word := if signedLow sz x < signedLow sz y then y else x

def execAadd (h : Hd) (d : Dst) (a b : Src) (w64 : Bool) (scp : BitVec 2) (st : BitVec 3) (s : State) : Out :=
  .next (s.atomicInt (.aadd h d a b w64 scp st) h (some d) a b w64 scp st fun _ x y => x + y)

def execAmin (h : Hd) (d : Dst) (a b : Src) (w64 : Bool) (scp : BitVec 2) (st : BitVec 3) (s : State) : Out :=
  .next (s.atomicInt (.amin h d a b w64 scp st) h (some d) a b w64 scp st atomMin)

def execAmax (h : Hd) (d : Dst) (a b : Src) (w64 : Bool) (scp : BitVec 2) (st : BitVec 3) (s : State) : Out :=
  .next (s.atomicInt (.amax h d a b w64 scp st) h (some d) a b w64 scp st atomMax)

def execAminu (h : Hd) (d : Dst) (a b : Src) (w64 : Bool) (scp : BitVec 2) (st : BitVec 3) (s : State) : Out :=
  .next (s.atomicInt (.aminu h d a b w64 scp st) h (some d) a b w64 scp st fun _ x y => if y.toNat < x.toNat then y else x)

def execAmaxu (h : Hd) (d : Dst) (a b : Src) (w64 : Bool) (scp : BitVec 2) (st : BitVec 3) (s : State) : Out :=
  .next (s.atomicInt (.amaxu h d a b w64 scp st) h (some d) a b w64 scp st fun _ x y => if x.toNat < y.toNat then y else x)

def execAand (h : Hd) (d : Dst) (a b : Src) (w64 : Bool) (scp : BitVec 2) (st : BitVec 3) (s : State) : Out :=
  .next (s.atomicInt (.aand h d a b w64 scp st) h (some d) a b w64 scp st fun _ x y => x &&& y)

def execAor (h : Hd) (d : Dst) (a b : Src) (w64 : Bool) (scp : BitVec 2) (st : BitVec 3) (s : State) : Out :=
  .next (s.atomicInt (.aor h d a b w64 scp st) h (some d) a b w64 scp st fun _ x y => x ||| y)

def execAxor (h : Hd) (d : Dst) (a b : Src) (w64 : Bool) (scp : BitVec 2) (st : BitVec 3) (s : State) : Out :=
  .next (s.atomicInt (.axor h d a b w64 scp st) h (some d) a b w64 scp st fun _ x y => x ^^^ y)

def execAswp (h : Hd) (d : Dst) (a b : Src) (w64 : Bool) (scp : BitVec 2) (st : BitVec 3) (s : State) : Out :=
  .next (s.atomicInt (.aswp h d a b w64 scp st) h (some d) a b w64 scp st fun _ _ y => y)

/-- `acas`: the expected value is read through D. -/
def execAcas (h : Hd) (d : Dst) (a b : Src) (w64 : Bool) (scp : BitVec 2) (st : BitVec 3) (s : State) : Out :=
  .next (s.atomic (.acas h d a b w64 scp st) h (some d) [a, b, dstAsSrc d] (szOf w64) scp.toNat st.toNat fun old ops =>
    (if low (szOf w64) old = low (szOf w64) (opn ops 2).v then Word.ofN (low (szOf w64) (opn ops 1).v) else old, 0))

/-- `ainc`: up to s, then 0. -/
def execAinc (h : Hd) (d : Dst) (a b : Src) (w64 : Bool) (scp : BitVec 2) (st : BitVec 3) (s : State) : Out :=
  .next (s.atomicInt (.ainc h d a b w64 scp st) h (some d) a b w64 scp st fun _ x y => if y.toNat ≤ x.toNat then 0 else x + 1)

/-- `adec`: down from s, which 0 and values above s become. -/
def execAdec (h : Hd) (d : Dst) (a b : Src) (w64 : Bool) (scp : BitVec 2) (st : BitVec 3) (s : State) : Out :=
  .next (s.atomicInt (.adec h d a b w64 scp st) h (some d) a b w64 scp st
    fun _ x y => if x = 0 ∨ y.toNat < x.toNat then y else x - 1)

/-- `Round(old + s, f32, Rm(), X)` on the low 32 bits. -/
def State.atomicFadd (s : State) (i : Instr) (h : Hd) (d : Option Dst) (a b : Src) (scp : BitVec 2) (st : BitVec 3) (x : Bool) :
    State :=
  let rm := s.rmOf h.place.form
  s.atomic i h d [a, b] 2 scp.toNat st.toNat fun old ops =>
    let r := sumFp .f32 rm x [decodeF .f32 (low 2 old), decodeF .f32 (low 2 (opn ops 1).v)]
    (Word.ofN r.1, r.2)

def execAfadd (h : Hd) (d : Dst) (a b : Src) (scp : BitVec 2) (st : BitVec 3) (x : Bool) (s : State) : Out :=
  .next (s.atomicFadd (.afadd h d a b scp st x) h (some d) a b scp st x)

def execRedadd (h : Hd) (a b : Src) (w64 : Bool) (scp : BitVec 2) (st : BitVec 3) (s : State) : Out :=
  .next (s.atomicInt (.redadd h a b w64 scp st) h none a b w64 scp st fun _ x y => x + y)

def execRedfadd (h : Hd) (a b : Src) (scp : BitVec 2) (st : BitVec 3) (x : Bool) (s : State) : Out :=
  .next (s.atomicFadd (.redfadd h a b scp st x) h none a b scp st x)

def execRedmax (h : Hd) (a b : Src) (w64 : Bool) (scp : BitVec 2) (st : BitVec 3) (s : State) : Out :=
  .next (s.atomicInt (.redmax h a b w64 scp st) h none a b w64 scp st atomMax)

end Sys2Proof.Machine
end

