-- ==== Sys2Proof/Machine/Narrow.lean ====
section
/-! DEFINITION. Meanings of opcodes 0x70 to 0x77: block float elements, scales, the side band and packet headers (R112 to
R118). -/

namespace Sys2Proof.Machine

def execBexp (h : Hd) (d : Dst) (a : Src) (sf : Sbf) (ty : FTy) (x : Bool) (s : State) : Out :=
  .next (s.op1 h d a 4 (nfBexp sf ty x))

def execBenc (h : Hd) (d : Dst) (a : Src) (b : Src) (sf : Sbf) (ty : FTy) (x : Bool) (s : State) : Out :=
  .next (s.op2 h d a b 4 (nfBenc sf ty x))

def execBdec (h : Hd) (d : Dst) (a : Src) (b : Src) (sf : Sbf) (ty : FTy) (x : Bool) (s : State) : Out :=
  .next (s.compute h [a, b] 4 fun s ops pp => res2 d ops pp (nfBdec sf ty (s.rmOf h.place.form) x))

/-- The beat a leaves on route output `o` with its side band byte; the latch takes a (R115). -/
def execScput (h : Hd) (o : BitVec 3) (a b : Src) (f32 : Bool) (s : State) : Out :=
  .next (s.compute h [a, b] 4 fun _ ops pp =>
    let g := nfSideByte f32 (opn ops 1).v
    let v : Val := { v := (opn ops 0).v, p := anyPois ops pp }
    { dsts := [(.route o, v)], latch := some v, side := g.1, flags := g.2 })

/-- The side band byte of route input `i`; a block's inputs read 0 (R241). -/
def State.sideOf (s : State) (m : Form) (i : BitVec 3) : Byte :=
  match m with
  | .timed => (s.routeIn s.curTile i.toNat).sb
  | .block => 0

def execScget (h : Hd) (d : Dst) (i : BitVec 3) (f32 : Bool) (s : State) : Out :=
  .next (s.compute h [.route i] 4 fun s ops pp =>
    ResW.one d { v := nfSideVal f32 (s.sideOf h.place.form i), p := anyPois ops pp } 0)

def execScpair (h : Hd) (d : Dst) (i : BitVec 3) (b : Src) (s : State) : Out :=
  .next (s.compute h [.route i, b] 4 fun s ops pp =>
    ResW.one d { v := nfPair (opn ops 1).v (s.sideOf h.place.form i), p := anyPois ops pp } 0)

def execHdrw (h : Hd) (d : Dst) (a : Src) (b : Src) (s : State) : Out :=
  .next (s.op2 h d a b 4 (fun a b => (nfHdrw a b, 0)))

def execHdrrFmt (h : Hd) (d : Dst) (a : Src) (s : State) : Out :=
  .next (s.op1 h d a 4 (fun a => (Word.ofN (a.bits 0 8), 0)))

def execHdrrScale (h : Hd) (d : Dst) (a : Src) (s : State) : Out :=
  .next (s.op1 h d a 4 (fun a => (Word.ofN (a.bits 32 32), 0)))

end Sys2Proof.Machine
end

