-- ==== Sys2Proof/Machine/Vector.lean ====
section
/-! DEFINITION. Meanings of opcodes 0x40 to 0x6D: vector instructions (R101 to R111). The lanes' results and flags are those of
Flags.lean. -/

namespace Sys2Proof.Machine

/-! ### Latencies (R65, R101) -/

def vLat (t : Ty) : Nat := if t.isFloat then 4 else 1

def vMulLat (t : Ty) : Nat := if t.isFloat then 4 else 3

/-! ### Lane-wise arithmetic (R102) -/

def execVadd (h : Hd) (d : Dst) (a : Src) (b : Src) (ty : Ty) (x : Bool) (s : State) : Out :=
  .next (s.compute h [a, b] (vLat ty) fun s ops pp => res2 d ops pp (vAdd ty (s.rmOf h.place.form) x))

def execVsub (h : Hd) (d : Dst) (a : Src) (b : Src) (ty : Ty) (x : Bool) (s : State) : Out :=
  .next (s.compute h [a, b] (vLat ty) fun s ops pp => res2 d ops pp (vSub ty (s.rmOf h.place.form) x))

def execVmul (h : Hd) (d : Dst) (a : Src) (b : Src) (ty : Ty) (x : Bool) (s : State) : Out :=
  .next (s.compute h [a, b] (vMulLat ty) fun s ops pp => res2 d ops pp (vMul ty (s.rmOf h.place.form) x))

/-- x × y + z, rounded once. -/
def execVfma (h : Hd) (d : Dst) (a : Src) (b : Src) (c : Src) (ty : FTy) (x : Bool) (s : State) : Out :=
  .next (s.compute h [a, b, c] 4 fun s ops pp => res3 d ops pp (vFma ty (s.rmOf h.place.form) x false false))

/-- x × y − z, rounded once. -/
def execVfms (h : Hd) (d : Dst) (a : Src) (b : Src) (c : Src) (ty : FTy) (x : Bool) (s : State) : Out :=
  .next (s.compute h [a, b, c] 4 fun s ops pp => res3 d ops pp (vFma ty (s.rmOf h.place.form) x false true))

/-- −(x × y) + z, rounded once. -/
def execVfnma (h : Hd) (d : Dst) (a : Src) (b : Src) (c : Src) (ty : FTy) (x : Bool) (s : State) : Out :=
  .next (s.compute h [a, b, c] 4 fun s ops pp => res3 d ops pp (vFma ty (s.rmOf h.place.form) x true false))

def execVdiv (h : Hd) (d : Dst) (a : Src) (b : Src) (ty : FTy) (x : Bool) (s : State) : Out :=
  .next (s.compute h [a, b] 12 fun s ops pp => res2 d ops pp (laneFp2 ty (divF ty (s.rmOf h.place.form) x)))

def execVsqrt (h : Hd) (d : Dst) (a : Src) (ty : FTy) (x : Bool) (s : State) : Out :=
  .next (s.compute h [a] 12 fun s ops pp => res1 d ops pp (laneFp1 ty (sqrtF ty (s.rmOf h.place.form) x)))

/-- 1/x (R24). -/
def execVrcp (h : Hd) (d : Dst) (a : Src) (ty : FTy) (x : Bool) (s : State) : Out :=
  .next (s.compute h [a] 12 fun s ops pp => res1 d ops pp (laneFp1 ty (divF ty (s.rmOf h.place.form) x (.fin false 1 0))))

def execVrsq (h : Hd) (d : Dst) (a : Src) (ty : FTy) (x : Bool) (s : State) : Out :=
  .next (s.compute h [a] 12 fun s ops pp => res1 d ops pp (laneFp1 ty (rsqF ty (s.rmOf h.place.form) x)))

def execVexp2 (h : Hd) (d : Dst) (a : Src) (ty : FTy) (x : Bool) (s : State) : Out :=
  .next (s.compute h [a] 12 fun s ops pp => res1 d ops pp (laneFp1 ty (exp2F ty (s.rmOf h.place.form) x)))

def execVlog2 (h : Hd) (d : Dst) (a : Src) (ty : FTy) (x : Bool) (s : State) : Out :=
  .next (s.compute h [a] 12 fun s ops pp => res1 d ops pp (laneFp1 ty (log2F ty (s.rmOf h.place.form) x)))

def execVtanh (h : Hd) (d : Dst) (a : Src) (ty : FTy) (x : Bool) (s : State) : Out :=
  .next (s.compute h [a] 12 fun s ops pp => res1 d ops pp (laneFp1 ty (tanhF ty (s.rmOf h.place.form) x)))

def execVscale (h : Hd) (d : Dst) (a : Src) (b : Src) (ty : FTy) (x : Bool) (s : State) : Out :=
  .next (s.compute h [a, b] 4 fun s ops pp => res2 d ops pp (vScale ty (s.rmOf h.place.form) x))

def execVabs (h : Hd) (d : Dst) (a : Src) (ty : Ty) (x : Bool) (s : State) : Out :=
  .next (s.op1 h d a (vLat ty) (vAbs ty x))

def execVneg (h : Hd) (d : Dst) (a : Src) (ty : Ty) (x : Bool) (s : State) : Out :=
  .next (s.op1 h d a (vLat ty) (vNeg ty x))

def execVcpsgn (h : Hd) (d : Dst) (a : Src) (b : Src) (ty : FTy) (s : State) : Out :=
  .next (s.op2 h d a b 4 (fun a b => (vCpsgn ty a b, 0)))

def execVmulh (h : Hd) (d : Dst) (a : Src) (b : Src) (ty : ITy) (s : State) : Out :=
  .next (s.op2 h d a b 3 (fun a b => (vMulh ty a b, 0)))

def execVmad (h : Hd) (d : Dst) (a : Src) (b : Src) (c : Src) (ty : ITy) (x : Bool) (s : State) : Out :=
  .next (s.op3 h d a b c 3 (vMad ty x))

def execVavg (h : Hd) (d : Dst) (a : Src) (b : Src) (ty : ITy) (s : State) : Out :=
  .next (s.op2 h d a b 1 (fun a b => (vAvg ty a b, 0)))

def execVshl (h : Hd) (d : Dst) (a : Src) (b : Src) (ty : ITy) (s : State) : Out :=
  .next (s.op2 h d a b 1 (fun a b => (vShl ty a b, 0)))

def execVshr (h : Hd) (d : Dst) (a : Src) (b : Src) (ty : ITy) (s : State) : Out :=
  .next (s.op2 h d a b 1 (fun a b => (vShr ty a b, 0)))

def execVsar (h : Hd) (d : Dst) (a : Src) (b : Src) (ty : ITy) (s : State) : Out :=
  .next (s.op2 h d a b 1 (fun a b => (vSar ty a b, 0)))

/-- Bitwise on the whole word; the type fixes the latency only. -/
def execVand (h : Hd) (d : Dst) (a : Src) (b : Src) (ty : Ty) (s : State) : Out :=
  .next (s.op2 h d a b (vLat ty) (fun a b => (a &&& b, 0)))

def execVor (h : Hd) (d : Dst) (a : Src) (b : Src) (ty : Ty) (s : State) : Out :=
  .next (s.op2 h d a b (vLat ty) (fun a b => (a ||| b, 0)))

def execVxor (h : Hd) (d : Dst) (a : Src) (b : Src) (ty : Ty) (s : State) : Out :=
  .next (s.op2 h d a b (vLat ty) (fun a b => (a ^^^ b, 0)))

/-! ### Minimum, maximum, comparison (R103, R104) -/

def execVmin (h : Hd) (d : Dst) (a : Src) (b : Src) (ty : Ty) (s : State) : Out :=
  .next (s.op2 h d a b (vLat ty) (vMinMax ty false))

def execVmax (h : Hd) (d : Dst) (a : Src) (b : Src) (ty : Ty) (s : State) : Out :=
  .next (s.op2 h d a b (vLat ty) (vMinMax ty true))

def execVclamp (h : Hd) (d : Dst) (a : Src) (b : Src) (c : Src) (ty : Ty) (s : State) : Out :=
  .next (s.op3 h d a b c (vLat ty) (vClamp ty))

def execVcmp (h : Hd) (d : Dst) (a : Src) (b : Src) (cond : Cond) (ty : Ty) (s : State) : Out :=
  .next (s.op2 h d a b (vLat ty) (vCmp ty cond))

/-! ### Lane movement (R105) -/

def execVsel (h : Hd) (d : Dst) (a : Src) (b : Src) (c : Src) (ty : Ty) (s : State) : Out :=
  .next (s.op3 h d a b c (vLat ty) (fun a b c => (vSel ty.width a b c, 0)))

def execVshuf (h : Hd) (d : Dst) (a : Src) (b : Src) (c : Src) (ty : Ty) (s : State) : Out :=
  .next (s.op3 h d a b c (vLat ty) (fun a b c => (vShuf ty.width a b c, 0)))

def execVbcast (h : Hd) (d : Dst) (a : Src) (j : BitVec 3) (ty : Ty) (s : State) : Out :=
  .next (s.op1 h d a (vLat ty) (fun a => (vBcast ty.width j.toNat a, 0)))

def execVins (h : Hd) (d : Dst) (a : Src) (b : Src) (j : BitVec 3) (ty : Ty) (s : State) : Out :=
  .next (s.op2 h d a b (vLat ty) (fun a b => (vIns ty.width j.toNat a b, 0)))

def execVext (h : Hd) (d : Dst) (a : Src) (j : BitVec 3) (ty : Ty) (s : State) : Out :=
  .next (s.op1 h d a (vLat ty) (fun a => (vExt ty j.toNat a, 0)))

/-! ### Packing and conversion (R106 to R110) -/

def execVpack (h : Hd) (d : Dst) (a : Src) (b : Src) (ty : ITy) (x : Bool) (s : State) : Out :=
  .next (s.op2 h d a b 1 (vPack ty x))

def execVunpk (h : Hd) (d : Dst) (a : Src) (hi : Bool) (ty : Ty) (s : State) : Out :=
  .next (s.op1 h d a (vLat ty) (vUnpk ty hi))

def execVcvt (h : Hd) (d : Dst) (a : Src) (dst : Ty) (ty : Ty) (x : Bool) (s : State) : Out :=
  .next (s.compute h [a] 4 fun s ops pp => res1 d ops pp (vCvt ty dst (s.rmOf h.place.form) x))

def execVrnd (h : Hd) (d : Dst) (a : Src) (mode : BitVec 3) (ty : FTy) (s : State) : Out :=
  .next (s.compute h [a] 4 fun s ops pp => res1 d ops pp (vRnd ty (rndMode mode (s.rmOf h.place.form))))

def execVclass (h : Hd) (d : Dst) (a : Src) (ty : FTy) (s : State) : Out :=
  .next (s.op1 h d a 4 (fun a => (vClass ty a, 0)))

def execVsatn (h : Hd) (d : Dst) (a : Src) (n : BitVec 8) (ty : ITy) (s : State) : Out :=
  .next (s.op1 h d a 1 (vSatn ty n.toNat))

/-! ### Horizontal operations (R111) -/

def execVsum (h : Hd) (d : Dst) (a : Src) (ty : Ty) (x : Bool) (s : State) : Out :=
  .next (s.compute h [a] (vLat ty) fun s ops pp => res1 d ops pp (vSum ty (s.rmOf h.place.form) x))

def execVmaxh (h : Hd) (d : Dst) (a : Src) (ty : Ty) (s : State) : Out :=
  .next (s.op1 h d a (vLat ty) (vHoriz ty true))

def execVminh (h : Hd) (d : Dst) (a : Src) (ty : Ty) (s : State) : Out :=
  .next (s.op1 h d a (vLat ty) (vHoriz ty false))

def execVsumw (h : Hd) (d : Dst) (a : Src) (ty : Ty) (x : Bool) (s : State) : Out :=
  .next (s.compute h [a] (vLat ty) fun s ops pp => res1 d ops pp (vSumw ty (s.rmOf h.place.form) x))

def execVdot (h : Hd) (d : Dst) (a : Src) (b : Src) (c : Src) (ty : Ty) (x : Bool) (s : State) : Out :=
  .next (s.compute h [a, b, c] (vMulLat ty) fun s ops pp => res3 d ops pp (vDot ty (s.rmOf h.place.form) x))

end Sys2Proof.Machine
end

