-- ==== Sys2Proof/Machine/Dispatch.lean ====
section
/-! DEFINITION. One arm per constructor of `Instr`: each calls the meaning of its instruction or step. -/

namespace Sys2Proof.Machine

def exec (i : Instr) (s : State) : Host.Outcome State Fault Refusal :=
  match i with
  | .nop h => Sys2Proof.Machine.execNop h s
  | .add h d a b => Sys2Proof.Machine.execAdd h d a b s
  | .addi h d a imm => Sys2Proof.Machine.execAddi h d a imm s
  | .sub h d a b => Sys2Proof.Machine.execSub h d a b s
  | .adc h d a b cp => Sys2Proof.Machine.execAdc h d a b cp s
  | .sbb h d a b cp => Sys2Proof.Machine.execSbb h d a b cp s
  | .mul h d a b => Sys2Proof.Machine.execMul h d a b s
  | .mulh h d a b => Sys2Proof.Machine.execMulh h d a b s
  | .mulhu h d a b => Sys2Proof.Machine.execMulhu h d a b s
  | .mad h d a b c => Sys2Proof.Machine.execMad h d a b c s
  | .div h d a b => Sys2Proof.Machine.execDiv h d a b s
  | .divu h d a b => Sys2Proof.Machine.execDivu h d a b s
  | .rem h d a b => Sys2Proof.Machine.execRem h d a b s
  | .remu h d a b => Sys2Proof.Machine.execRemu h d a b s
  | .min h d a b => Sys2Proof.Machine.execMin h d a b s
  | .max h d a b => Sys2Proof.Machine.execMax h d a b s
  | .minu h d a b => Sys2Proof.Machine.execMinu h d a b s
  | .maxu h d a b => Sys2Proof.Machine.execMaxu h d a b s
  | .abs h d a => Sys2Proof.Machine.execAbs h d a s
  | .and h d a b => Sys2Proof.Machine.execAnd h d a b s
  | .andi h d a imm => Sys2Proof.Machine.execAndi h d a imm s
  | .or h d a b => Sys2Proof.Machine.execOr h d a b s
  | .ori h d a imm => Sys2Proof.Machine.execOri h d a imm s
  | .xor h d a b => Sys2Proof.Machine.execXor h d a b s
  | .xori h d a imm => Sys2Proof.Machine.execXori h d a imm s
  | .andn h d a b => Sys2Proof.Machine.execAndn h d a b s
  | .shl h d a b => Sys2Proof.Machine.execShl h d a b s
  | .shli h d a imm => Sys2Proof.Machine.execShli h d a imm s
  | .shr h d a b => Sys2Proof.Machine.execShr h d a b s
  | .shri h d a imm => Sys2Proof.Machine.execShri h d a imm s
  | .sar h d a b => Sys2Proof.Machine.execSar h d a b s
  | .sari h d a imm => Sys2Proof.Machine.execSari h d a imm s
  | .rol h d a b => Sys2Proof.Machine.execRol h d a b s
  | .clz h d a => Sys2Proof.Machine.execClz h d a s
  | .ctz h d a => Sys2Proof.Machine.execCtz h d a s
  | .popc h d a => Sys2Proof.Machine.execPopc h d a s
  | .brev h d a => Sys2Proof.Machine.execBrev h d a s
  | .bfx h d a b => Sys2Proof.Machine.execBfx h d a b s
  | .bfi h d a b c => Sys2Proof.Machine.execBfi h d a b c s
  | .sext h d a w => Sys2Proof.Machine.execSext h d a w s
  | .zext h d a w => Sys2Proof.Machine.execZext h d a w s
  | .movh h d imm => Sys2Proof.Machine.execMovh h d imm s
  | .movi h d imm => Sys2Proof.Machine.execMovi h d imm s
  | .movk h d a imm j => Sys2Proof.Machine.execMovk h d a imm j s
  | .addsat h d a b ty => Sys2Proof.Machine.execAddsat h d a b ty s
  | .subsat h d a b ty => Sys2Proof.Machine.execSubsat h d a b ty s
  | .cbrng h d a b => Sys2Proof.Machine.execCbrng h d a b s
  | .crc h d a b n => Sys2Proof.Machine.execCrc h d a b n s
  | .cmp h pd a b cond => Sys2Proof.Machine.execCmp h pd a b cond s
  | .cmpi h pd a imm cond => Sys2Proof.Machine.execCmpi h pd a imm cond s
  | .plog h pd pa pb f => Sys2Proof.Machine.execPlog h pd pa pb f s
  | .pmovGet h d => Sys2Proof.Machine.execPmovGet h d s
  | .pmovPut h a => Sys2Proof.Machine.execPmovPut h a s
  | .sel h d a b neg p => Sys2Proof.Machine.execSel h d a b neg p s
  | .mov h d a => Sys2Proof.Machine.execMov h d a s
  | .kget h d n j => Sys2Proof.Machine.execKget h d n j s
  | .getid h d id => Sys2Proof.Machine.execGetid h d id s
  | .pcnt h d a b => Sys2Proof.Machine.execPcnt h d a b s
  | .vadd h d a b ty x => Sys2Proof.Machine.execVadd h d a b ty x s
  | .vsub h d a b ty x => Sys2Proof.Machine.execVsub h d a b ty x s
  | .vmul h d a b ty x => Sys2Proof.Machine.execVmul h d a b ty x s
  | .vfma h d a b c ty x => Sys2Proof.Machine.execVfma h d a b c ty x s
  | .vfms h d a b c ty x => Sys2Proof.Machine.execVfms h d a b c ty x s
  | .vfnma h d a b c ty x => Sys2Proof.Machine.execVfnma h d a b c ty x s
  | .vmin h d a b ty => Sys2Proof.Machine.execVmin h d a b ty s
  | .vmax h d a b ty => Sys2Proof.Machine.execVmax h d a b ty s
  | .vabs h d a ty x => Sys2Proof.Machine.execVabs h d a ty x s
  | .vneg h d a ty x => Sys2Proof.Machine.execVneg h d a ty x s
  | .vcmp h d a b cond ty => Sys2Proof.Machine.execVcmp h d a b cond ty s
  | .vsel h d a b c ty => Sys2Proof.Machine.execVsel h d a b c ty s
  | .vdiv h d a b ty x => Sys2Proof.Machine.execVdiv h d a b ty x s
  | .vsqrt h d a ty x => Sys2Proof.Machine.execVsqrt h d a ty x s
  | .vrcp h d a ty x => Sys2Proof.Machine.execVrcp h d a ty x s
  | .vrsq h d a ty x => Sys2Proof.Machine.execVrsq h d a ty x s
  | .vexp2 h d a ty x => Sys2Proof.Machine.execVexp2 h d a ty x s
  | .vlog2 h d a ty x => Sys2Proof.Machine.execVlog2 h d a ty x s
  | .vtanh h d a ty x => Sys2Proof.Machine.execVtanh h d a ty x s
  | .vscale h d a b ty x => Sys2Proof.Machine.execVscale h d a b ty x s
  | .vclamp h d a b c ty => Sys2Proof.Machine.execVclamp h d a b c ty s
  | .vsum h d a ty x => Sys2Proof.Machine.execVsum h d a ty x s
  | .vmaxh h d a ty => Sys2Proof.Machine.execVmaxh h d a ty s
  | .vdot h d a b c ty x => Sys2Proof.Machine.execVdot h d a b c ty x s
  | .vshuf h d a b c ty => Sys2Proof.Machine.execVshuf h d a b c ty s
  | .vpack h d a b ty x => Sys2Proof.Machine.execVpack h d a b ty x s
  | .vunpk h d a hi ty => Sys2Proof.Machine.execVunpk h d a hi ty s
  | .vbcast h d a j ty => Sys2Proof.Machine.execVbcast h d a j ty s
  | .vins h d a b j ty => Sys2Proof.Machine.execVins h d a b j ty s
  | .vext h d a j ty => Sys2Proof.Machine.execVext h d a j ty s
  | .vcvt h d a dst ty x => Sys2Proof.Machine.execVcvt h d a dst ty x s
  | .vrnd h d a mode ty => Sys2Proof.Machine.execVrnd h d a mode ty s
  | .vand h d a b ty => Sys2Proof.Machine.execVand h d a b ty s
  | .vor h d a b ty => Sys2Proof.Machine.execVor h d a b ty s
  | .vxor h d a b ty => Sys2Proof.Machine.execVxor h d a b ty s
  | .vshl h d a b ty => Sys2Proof.Machine.execVshl h d a b ty s
  | .vshr h d a b ty => Sys2Proof.Machine.execVshr h d a b ty s
  | .vsar h d a b ty => Sys2Proof.Machine.execVsar h d a b ty s
  | .vmulh h d a b ty => Sys2Proof.Machine.execVmulh h d a b ty s
  | .vavg h d a b ty => Sys2Proof.Machine.execVavg h d a b ty s
  | .vclass h d a ty => Sys2Proof.Machine.execVclass h d a ty s
  | .vcpsgn h d a b ty => Sys2Proof.Machine.execVcpsgn h d a b ty s
  | .vmad h d a b c ty x => Sys2Proof.Machine.execVmad h d a b c ty x s
  | .vsatn h d a n ty => Sys2Proof.Machine.execVsatn h d a n ty s
  | .vminh h d a ty => Sys2Proof.Machine.execVminh h d a ty s
  | .vsumw h d a ty x => Sys2Proof.Machine.execVsumw h d a ty x s
  | .bexp h d a sf ty x => Sys2Proof.Machine.execBexp h d a sf ty x s
  | .benc h d a b sf ty x => Sys2Proof.Machine.execBenc h d a b sf ty x s
  | .bdec h d a b sf ty x => Sys2Proof.Machine.execBdec h d a b sf ty x s
  | .scput h o a b f32 => Sys2Proof.Machine.execScput h o a b f32 s
  | .scget h d r f32 => Sys2Proof.Machine.execScget h d r f32 s
  | .scpair h d r b => Sys2Proof.Machine.execScpair h d r b s
  | .hdrw h d a b => Sys2Proof.Machine.execHdrw h d a b s
  | .hdrrFmt h d a => Sys2Proof.Machine.execHdrrFmt h d a s
  | .hdrrScale h d a => Sys2Proof.Machine.execHdrrScale h d a s
  | .ld h d a col sz sx => Sys2Proof.Machine.execLd h d a col sz sx s
  | .st h a b col sz => Sys2Proof.Machine.execSt h a b col sz s
  | .ldl h d a col => Sys2Proof.Machine.execLdl h d a col s
  | .stl h a b col => Sys2Proof.Machine.execStl h a b col s
  | .ldt h d a col half => Sys2Proof.Machine.execLdt h d a col half s
  | .ldx h d a b col sz sx => Sys2Proof.Machine.execLdx h d a b col sz sx s
  | .stx h v a b col sz => Sys2Proof.Machine.execStx h v a b col sz s
  | .ldp h d a sz sx => Sys2Proof.Machine.execLdp h d a sz sx s
  | .stp h a b sz => Sys2Proof.Machine.execStp h a b sz s
  | .pldx h d a b sz sx => Sys2Proof.Machine.execPldx h d a b sz sx s
  | .pstx h v a b sz => Sys2Proof.Machine.execPstx h v a b sz s
  | .dqld h a sz line q => Sys2Proof.Machine.execDqld h a sz line q s
  | .dqst h a b scp q => Sys2Proof.Machine.execDqst h a b scp q s
  | .dqpop h d q => Sys2Proof.Machine.execDqpop h d q s
  | .dqwt h q => Sys2Proof.Machine.execDqwt h q s
  | .vld h d a b scp => Sys2Proof.Machine.execVld h d a b scp s
  | .vst h d a b scp => Sys2Proof.Machine.execVst h d a b scp s
  | .vrcl h a b scp => Sys2Proof.Machine.execVrcl h a b scp s
  | .agcfg h a b => Sys2Proof.Machine.execAgcfg h a b s
  | .agstart h a b => Sys2Proof.Machine.execAgstart h a b s
  | .ageos h a => Sys2Proof.Machine.execAgeos h a s
  | .qtkt h d a t => Sys2Proof.Machine.execQtkt h d a t s
  | .qpush h a b t scp => Sys2Proof.Machine.execQpush h a b t scp s
  | .qpop h d a scp => Sys2Proof.Machine.execQpop h d a scp s
  | .qcnt h d a => Sys2Proof.Machine.execQcnt h d a s
  | .aadd h d a b w64 scp st => Sys2Proof.Machine.execAadd h d a b w64 scp st s
  | .amin h d a b w64 scp st => Sys2Proof.Machine.execAmin h d a b w64 scp st s
  | .amax h d a b w64 scp st => Sys2Proof.Machine.execAmax h d a b w64 scp st s
  | .aminu h d a b w64 scp st => Sys2Proof.Machine.execAminu h d a b w64 scp st s
  | .amaxu h d a b w64 scp st => Sys2Proof.Machine.execAmaxu h d a b w64 scp st s
  | .aand h d a b w64 scp st => Sys2Proof.Machine.execAand h d a b w64 scp st s
  | .aor h d a b w64 scp st => Sys2Proof.Machine.execAor h d a b w64 scp st s
  | .axor h d a b w64 scp st => Sys2Proof.Machine.execAxor h d a b w64 scp st s
  | .aswp h d a b w64 scp st => Sys2Proof.Machine.execAswp h d a b w64 scp st s
  | .acas h d a b w64 scp st => Sys2Proof.Machine.execAcas h d a b w64 scp st s
  | .afadd h d a b scp st x => Sys2Proof.Machine.execAfadd h d a b scp st x s
  | .ainc h d a b w64 scp st => Sys2Proof.Machine.execAinc h d a b w64 scp st s
  | .adec h d a b w64 scp st => Sys2Proof.Machine.execAdec h d a b w64 scp st s
  | .redadd h a b w64 scp st => Sys2Proof.Machine.execRedadd h a b w64 scp st s
  | .redfadd h a b scp st x => Sys2Proof.Machine.execRedfadd h a b scp st x s
  | .redmax h a b w64 scp st => Sys2Proof.Machine.execRedmax h a b w64 scp st s
  | .barinit h a b => Sys2Proof.Machine.execBarinit h a b s
  | .barexp h d a b scp par => Sys2Proof.Machine.execBarexp h d a b scp par s
  | .bararr h d a b scp par => Sys2Proof.Machine.execBararr h d a b scp par s
  | .barwt h d a b scp => Sys2Proof.Machine.execBarwt h d a b scp s
  | .bartst h d a sel => Sys2Proof.Machine.execBartst h d a sel s
  | .tlsig h a b scp => Sys2Proof.Machine.execTlsig h a b scp s
  | .tlwt h a b scp => Sys2Proof.Machine.execTlwt h a b scp s
  | .tlrd h d a => Sys2Proof.Machine.execTlrd h d a s
  | .fence h scp kind => Sys2Proof.Machine.execFence h scp kind s
  | .drain h => Sys2Proof.Machine.execDrain h s
  | .wtick h d a imm => Sys2Proof.Machine.execWtick h d a imm s
  | .wtickRel h d imm => Sys2Proof.Machine.execWtickRel h d imm s
  | .powq h d a => Sys2Proof.Machine.execPowq h d a s
  | .powqWait h d a => Sys2Proof.Machine.execPowqWait h d a s
  | .powrl h a => Sys2Proof.Machine.execPowrl h a s
  | .futwt h d a b => Sys2Proof.Machine.execFutwt h d a b s
  | .futset h d a b => Sys2Proof.Machine.execFutset h d a b s
  | .futsetClr h d a => Sys2Proof.Machine.execFutsetClr h d a s
  | .yield h a => Sys2Proof.Machine.execYield h a s
  | .mxselAcq h d a => Sys2Proof.Machine.execMxselAcq h d a s
  | .mxselRel h d a => Sys2Proof.Machine.execMxselRel h d a s
  | .mxldb h d a b => Sys2Proof.Machine.execMxldb h d a b s
  | .mxswb h d a => Sys2Proof.Machine.execMxswb h d a s
  | .mxzero h d a b => Sys2Proof.Machine.execMxzero h d a b s
  | .mxmacChan h d a b => Sys2Proof.Machine.execMxmacChan h d a b s
  | .mxmacStore h d a b => Sys2Proof.Machine.execMxmacStore h d a b s
  | .mxmacFill h d a b c => Sys2Proof.Machine.execMxmacFill h d a b c s
  | .mxmacPfill h d a b c => Sys2Proof.Machine.execMxmacPfill h d a b c s
  | .mxsc h d a b c isB => Sys2Proof.Machine.execMxsc h d a b c isB s
  | .mxdrn h d a b clr x => Sys2Proof.Machine.execMxdrn h d a b clr x s
  | .mxacc h d a b => Sys2Proof.Machine.execMxacc h d a b s
  | .mxsave h d a b => Sys2Proof.Machine.execMxsave h d a b s
  | .mxrest h d a b => Sys2Proof.Machine.execMxrest h d a b s
  | .mxst h d a b c clr x => Sys2Proof.Machine.execMxst h d a b c clr x s
  | .mxcolRd h d a b => Sys2Proof.Machine.execMxcolRd h d a b s
  | .mxcolRet h d a b => Sys2Proof.Machine.execMxcolRet h d a b s
  | .mxwst h d a b => Sys2Proof.Machine.execMxwst h d a b s
  | .mxfmt h d a b => Sys2Proof.Machine.execMxfmt h d a b s
  | .mxpeekAcc h d a b => Sys2Proof.Machine.execMxpeekAcc h d a b s
  | .mxpeekSt h d a => Sys2Proof.Machine.execMxpeekSt h d a s
  | .mxpeekTa h d a b => Sys2Proof.Machine.execMxpeekTa h d a b s
  | .mxpeekTb h d a b => Sys2Proof.Machine.execMxpeekTb h d a b s
  | .sbind h a b c => Sys2Proof.Machine.execSbind h a b c s
  | .scpy h d a b => Sys2Proof.Machine.execScpy h d a b s
  | .scpyChk h d a b c => Sys2Proof.Machine.execScpyChk h d a b c s
  | .sgat h d a => Sys2Proof.Machine.execSgat h d a s
  | .ssct h d a => Sys2Proof.Machine.execSsct h d a s
  | .sred h d a op ty x => Sys2Proof.Machine.execSred h d a op ty x s
  | .sfill h d a b => Sys2Proof.Machine.execSfill h d a b s
  | .scvt h d a b c x => Sys2Proof.Machine.execScvt h d a b c x s
  | .scan h d a b => Sys2Proof.Machine.execScan h d a b s
  | .sst h d a => Sys2Proof.Machine.execSst h d a s
  | .sstFlags h d a => Sys2Proof.Machine.execSstFlags h d a s
  | .spat h a b => Sys2Proof.Machine.execSpat h a b s
  | .ccred h d a b op => Sys2Proof.Machine.execCcred h d a b op s
  | .ccbc h d a b => Sys2Proof.Machine.execCcbc h d a b s
  | .ccag h d a b => Sys2Proof.Machine.execCcag h d a b s
  | .ccsend h d a b c => Sys2Proof.Machine.execCcsend h d a b c s
  | .ccrecv h d a b c => Sys2Proof.Machine.execCcrecv h d a b c s
  | .ccbar h d a b => Sys2Proof.Machine.execCcbar h d a b s
  | .br h imm => Sys2Proof.Machine.execBr h imm s
  | .exit h a => Sys2Proof.Machine.execExit h a s
  | .nulSt h m => Sys2Proof.Machine.execNulSt h m s
  | .nulH h m => Sys2Proof.Machine.execNulH h m s
  | .jpost h d a b => Sys2Proof.Machine.execJpost h d a b s
  | .jwait h a b => Sys2Proof.Machine.execJwait h a b s
  | .launch h d a b c st => Sys2Proof.Machine.execLaunch h d a b c st s
  | .launchSeq h d a c st => Sys2Proof.Machine.execLaunchSeq h d a c st s
  | .cancel h d a rel level => Sys2Proof.Machine.execCancel h d a rel level s
  | .cmpl h d a level => Sys2Proof.Machine.execCmpl h d a level s
  | .cmplWait h d a level => Sys2Proof.Machine.execCmplWait h d a level s
  | .gfork h d a b c => Sys2Proof.Machine.execGfork h d a b c s
  | .grew h d a b c => Sys2Proof.Machine.execGrew h d a b c s
  | .gbar h d a => Sys2Proof.Machine.execGbar h d a s
  | .gadv h d a b => Sys2Proof.Machine.execGadv h d a b s
  | .gcan h d a b => Sys2Proof.Machine.execGcan h d a b s
  | .gcanAll h d a => Sys2Proof.Machine.execGcanAll h d a s
  | .gst h d a => Sys2Proof.Machine.execGst h d a s
  | .bcall h d imm => Sys2Proof.Machine.execBcall h d imm s
  | .bret h a => Sys2Proof.Machine.execBret h a s
  | .trap h a code => Sys2Proof.Machine.execTrap h a code s
  | .brk h imm => Sys2Proof.Machine.execBrk h imm s
  | .csrr h d num => Sys2Proof.Machine.execCsrr h d num s
  | .csrw h a num => Sys2Proof.Machine.execCsrw h a num s
  | .halt h a => Sys2Proof.Machine.execHalt h a s
  | .trace h a imm => Sys2Proof.Machine.execTrace h a imm s
  | .cfginv h a => Sys2Proof.Machine.execCfginv h a s
  | .cfginvAll h => Sys2Proof.Machine.execCfginvAll h s
  | .stestRun h d a => Sys2Proof.Machine.execStestRun h d a s
  | .stestSt h d a => Sys2Proof.Machine.execStestSt h d a s
  | .blockFetchMap task => Sys2Proof.Machine.execBlockFetchMap task s
  | .blockCommit task => Sys2Proof.Machine.execBlockCommit task s
  | .taskDispatch die tile => Sys2Proof.Machine.execTaskDispatch die tile s
  | .timeSliceExpiry task => Sys2Proof.Machine.execTimeSliceExpiry task s
  | .cardFinish ctx card => Sys2Proof.Machine.execCardFinish ctx card s
  | .externalResultArrival tile => Sys2Proof.Machine.execExternalResultArrival tile s
  | .scratchAccessPerformed tile => Sys2Proof.Machine.execScratchAccessPerformed tile s
  | .dRequestPerformed tile chan => Sys2Proof.Machine.execDRequestPerformed tile chan s
  | .arbiterSlotStart die chan => Sys2Proof.Machine.execArbiterSlotStart die chan s
  | .matrixCommandStart isl path => Sys2Proof.Machine.execMatrixCommandStart isl path s
  | .matrixCommandComplete isl num => Sys2Proof.Machine.execMatrixCommandComplete isl num s
  | .matrixRowUpdate isl => Sys2Proof.Machine.execMatrixRowUpdate isl s
  | .residueMismatch isl col => Sys2Proof.Machine.execResidueMismatch isl col s
  | .streamCommandStart isl => Sys2Proof.Machine.execStreamCommandStart isl s
  | .streamBurst isl => Sys2Proof.Machine.execStreamBurst isl s
  | .streamCommandComplete isl => Sys2Proof.Machine.execStreamCommandComplete isl s
  | .ingressFrameReceived port etype payload fcsOk => Sys2Proof.Machine.execIngressFrameReceived port etype payload fcsOk s
  | .placementGrant die => Sys2Proof.Machine.execPlacementGrant die s
  | .configCompleteWave ctx handle => Sys2Proof.Machine.execConfigCompleteWave ctx handle s
  | .drainToken ctx handle => Sys2Proof.Machine.execDrainToken ctx handle s
  | .quiescenceReport ctx handle => Sys2Proof.Machine.execQuiescenceReport ctx handle s
  | .allocatorHeadTimeout die prio => Sys2Proof.Machine.execAllocatorHeadTimeout die prio s
  | .regionMove ctx handle px py => Sys2Proof.Machine.execRegionMove ctx handle px py s
  | .tickBoundary => Sys2Proof.Machine.execTickBoundary s
  | .timebaseLockLoss => Sys2Proof.Machine.execTimebaseLockLoss s
  | .tableArmedStart die slot => Sys2Proof.Machine.execTableArmedStart die slot s
  | .laneReclaimStart die slot entry => Sys2Proof.Machine.execLaneReclaimStart die slot entry s
  | .tableEntryStart die slot entry => Sys2Proof.Machine.execTableEntryStart die slot entry s
  | .tableDeadlineOverrun die slot entry => Sys2Proof.Machine.execTableDeadlineOverrun die slot entry s
  | .fallbackBudgetEnd die slot entry => Sys2Proof.Machine.execFallbackBudgetEnd die slot entry s
  | .modeChangePoint die slot => Sys2Proof.Machine.execModeChangePoint die slot s
  | .drainLimitExpiry ctx => Sys2Proof.Machine.execDrainLimitExpiry ctx s
  | .saveLimitExpiry ctx => Sys2Proof.Machine.execSaveLimitExpiry ctx s
  | .contextSaveComplete ctx => Sys2Proof.Machine.execContextSaveComplete ctx s
  | .contextRestoreComplete ctx => Sys2Proof.Machine.execContextRestoreComplete ctx s
  | .contextTeardownComplete ctx => Sys2Proof.Machine.execContextTeardownComplete ctx s
  | .publicationTimeout q => Sys2Proof.Machine.execPublicationTimeout q s
  | .queueSlotGrant q => Sys2Proof.Machine.execQueueSlotGrant q s
  | .demotedQueueCheck q => Sys2Proof.Machine.execDemotedQueueCheck q s
  | .stallDetected ctx => Sys2Proof.Machine.execStallDetected ctx s
  | .waitConditionMet q => Sys2Proof.Machine.execWaitConditionMet q s
  | .nopPacket q => Sys2Proof.Machine.execNopPacket q s
  | .launchPacket q => Sys2Proof.Machine.execLaunchPacket q s
  | .deltaPacket q => Sys2Proof.Machine.execDeltaPacket q s
  | .copyPacket q => Sys2Proof.Machine.execCopyPacket q s
  | .waitPacket q => Sys2Proof.Machine.execWaitPacket q s
  | .signalPacket q => Sys2Proof.Machine.execSignalPacket q s
  | .fencePacket q => Sys2Proof.Machine.execFencePacket q s
  | .tableInstall q => Sys2Proof.Machine.execTableInstall q s
  | .tableStart q => Sys2Proof.Machine.execTableStart q s
  | .tableSwitch q => Sys2Proof.Machine.execTableSwitch q s
  | .tableAcknowledge q => Sys2Proof.Machine.execTableAcknowledge q s
  | .tableRemove q => Sys2Proof.Machine.execTableRemove q s
  | .modePrio q => Sys2Proof.Machine.execModePrio q s
  | .modePause q => Sys2Proof.Machine.execModePause q s
  | .modePubto q => Sys2Proof.Machine.execModePubto q s
  | .modeReslim q => Sys2Proof.Machine.execModeReslim q s
  | .graphPacket q => Sys2Proof.Machine.execGraphPacket q s
  | .debugAttach q => Sys2Proof.Machine.execDebugAttach q s
  | .debugDetach q => Sys2Proof.Machine.execDebugDetach q s
  | .debugHalt q => Sys2Proof.Machine.execDebugHalt q s
  | .debugResume q => Sys2Proof.Machine.execDebugResume q s
  | .debugReadState q => Sys2Proof.Machine.execDebugReadState q s
  | .debugWriteState q => Sys2Proof.Machine.execDebugWriteState q s
  | .debugSetBreakpoint q => Sys2Proof.Machine.execDebugSetBreakpoint q s
  | .debugClearBreakpoint q => Sys2Proof.Machine.execDebugClearBreakpoint q s
  | .cancelPacket q => Sys2Proof.Machine.execCancelPacket q s
  | .qctlEnable q => Sys2Proof.Machine.execQctlEnable q s
  | .qctlDisable q => Sys2Proof.Machine.execQctlDisable q s
  | .qctlRestart q clrsh host => Sys2Proof.Machine.execQctlRestart q clrsh host s
  | .qctlResume q => Sys2Proof.Machine.execQctlResume q s
  | .qctlDoorbell q => Sys2Proof.Machine.execQctlDoorbell q s
  | .ctxctlCreate ctx map => Sys2Proof.Machine.execCtxctlCreate ctx map s
  | .ctxctlSave ctx => Sys2Proof.Machine.execCtxctlSave ctx s
  | .ctxctlRestore ctx map => Sys2Proof.Machine.execCtxctlRestore ctx map s
  | .ctxctlTeardown ctx => Sys2Proof.Machine.execCtxctlTeardown ctx s
  | .ctxsaveWrite ctx w => Sys2Proof.Machine.execCtxsaveWrite ctx w s
  | .tbctlSettime => Sys2Proof.Machine.execTbctlSettime s
  | .tbctlStart => Sys2Proof.Machine.execTbctlStart s
  | .tbadjWrite w => Sys2Proof.Machine.execTbadjWrite w s
  | .cfginvCsrWrite w => Sys2Proof.Machine.execCfginvCsrWrite w s
  | .cfgInvalidationPerformed => Sys2Proof.Machine.execCfgInvalidationPerformed s
  | .vminvWrite w => Sys2Proof.Machine.execVminvWrite w s
  | .vmInvalidationPerformed => Sys2Proof.Machine.execVmInvalidationPerformed s
  | .futsetCsrWrite w => Sys2Proof.Machine.execFutsetCsrWrite w s
  | .pgretireWrite w => Sys2Proof.Machine.execPgretireWrite w s
  | .expoolWrite die w => Sys2Proof.Machine.execExpoolWrite die w s
  | .chretireWrite die w => Sys2Proof.Machine.execChretireWrite die w s
  | .channelMigrationDone die => Sys2Proof.Machine.execChannelMigrationDone die s
  | .attctlGo w => Sys2Proof.Machine.execAttctlGo w s
  | .quoteComplete => Sys2Proof.Machine.execQuoteComplete s
  | .peercfgWrite w => Sys2Proof.Machine.execPeercfgWrite w s
  | .shadowWrite die w => Sys2Proof.Machine.execShadowWrite die w s
  | .cfgcacheWrite die w => Sys2Proof.Machine.execCfgcacheWrite die w s
  | .leaveBudgetWrite die num w => Sys2Proof.Machine.execLeaveBudgetWrite die num w s
  | .tlclrWrite ctx w => Sys2Proof.Machine.execTlclrWrite ctx w s
  | .ingressChannelWrite n w => Sys2Proof.Machine.execIngressChannelWrite n w s
  | .histcfgWrite die n w => Sys2Proof.Machine.execHistcfgWrite die n w s
  | .trcctlWrite die w => Sys2Proof.Machine.execTrcctlWrite die w s
  | .evidxWrite w => Sys2Proof.Machine.execEvidxWrite w s
  | .csrWriteOther die ctx num w => Sys2Proof.Machine.execCsrWriteOther die ctx num w s
  | .hostCsrAccess pa len write w => Sys2Proof.Machine.execHostCsrAccess pa len write w s
  | .groupDeadline desc => Sys2Proof.Machine.execGroupDeadline desc s
  | .groupCollection desc => Sys2Proof.Machine.execGroupCollection desc s
  | .ccbarTimeout die num ctx => Sys2Proof.Machine.execCcbarTimeout die num ctx s
  | .collectiveComplete die => Sys2Proof.Machine.execCollectiveComplete die s
  | .flitReceived link pos head body crcOk => Sys2Proof.Machine.execFlitReceived link pos head body crcOk s
  | .linkTrainingDone link ver optOk posOk mods => Sys2Proof.Machine.execLinkTrainingDone link ver optOk posOk mods s
  | .linkTrainingTimeout link => Sys2Proof.Machine.execLinkTrainingTimeout link s
  | .linkLaneFailure link spare => Sys2Proof.Machine.execLinkLaneFailure link spare s
  | .linkModuleFailure link mod => Sys2Proof.Machine.execLinkModuleFailure link mod s
  | .linkRetrainDone link passed => Sys2Proof.Machine.execLinkRetrainDone link passed s
  | .powerOnReset imgA imgB fusedSvn => Sys2Proof.Machine.execPowerOnReset imgA imgB fusedSvn s
  | .recoveryImageFrame payload last => Sys2Proof.Machine.execRecoveryImageFrame payload last s
  | .configRecordWrite ok => Sys2Proof.Machine.execConfigRecordWrite ok s
  | .selfTestStart die page n => Sys2Proof.Machine.execSelfTestStart die page n s
  | .selfTestEnd die page n passed => Sys2Proof.Machine.execSelfTestEnd die page n passed s
  | .selfTestOverdue isl => Sys2Proof.Machine.execSelfTestOverdue isl s
  | .ageingSample die quad ring margin => Sys2Proof.Machine.execAgeingSample die quad ring margin s
  | .eccThresholdRetire die page => Sys2Proof.Machine.execEccThresholdRetire die page s
  | .thermalTrip die => Sys2Proof.Machine.execThermalTrip die s
  | .pdbAccessPerformed part => Sys2Proof.Machine.execPdbAccessPerformed part s
  | .sequencerStreamEnd tile chan => Sys2Proof.Machine.execSequencerStreamEnd tile chan s
  | .ethernetAutoNegotiation port optOk => Sys2Proof.Machine.execEthernetAutoNegotiation port optOk s

end Sys2Proof.Machine
end

