-- ==== Sys2Proof/Machine/Events.lean ====
section
/-! DEFINITION. The steps of the device and the acts of the host and of the outside world as the agenda holds them: each calls the
same meaning as its constructor of `Instr` does in `exec`. -/

namespace Sys2Proof.Machine

def runEv (e : Ev) (s : State) : Out :=
  match e with
  | .blockFetchMap task => Sys2Proof.Machine.execBlockFetchMap task s
  | .blockCommit task => Sys2Proof.Machine.execBlockCommit task s
  | .taskDispatch die tile => Sys2Proof.Machine.execTaskDispatch die tile s
  | .timeSliceExpiry task => Sys2Proof.Machine.execTimeSliceExpiry task s
  | .cardFinish ctx card => Sys2Proof.Machine.execCardFinish ctx card s
  | .externalResultArrival tile => Sys2Proof.Machine.execExternalResultArrival tile s
  | .scratchAccessPerformed tile => Sys2Proof.Machine.execScratchAccessPerformed tile s
  | .dRequestPerformed tile chan => Sys2Proof.Machine.execDRequestPerformed tile chan s
  | .arbiterSlotStart die chan => Sys2Proof.Machine.execArbiterSlotStart die chan s
  | .matrixCommandStart isl path => Sys2Proof.Machine.execMatrixCommandStart isl path s
  | .matrixCommandComplete isl num => Sys2Proof.Machine.execMatrixCommandComplete isl num s
  | .matrixRowUpdate isl => Sys2Proof.Machine.execMatrixRowUpdate isl s
  | .residueMismatch isl col => Sys2Proof.Machine.execResidueMismatch isl col s
  | .streamCommandStart isl => Sys2Proof.Machine.execStreamCommandStart isl s
  | .streamBurst isl => Sys2Proof.Machine.execStreamBurst isl s
  | .streamCommandComplete isl => Sys2Proof.Machine.execStreamCommandComplete isl s
  | .ingressFrameReceived port etype payload fcsOk => Sys2Proof.Machine.execIngressFrameReceived port etype payload fcsOk s
  | .placementGrant die => Sys2Proof.Machine.execPlacementGrant die s
  | .configCompleteWave ctx handle => Sys2Proof.Machine.execConfigCompleteWave ctx handle s
  | .drainToken ctx handle => Sys2Proof.Machine.execDrainToken ctx handle s
  | .quiescenceReport ctx handle => Sys2Proof.Machine.execQuiescenceReport ctx handle s
  | .allocatorHeadTimeout die prio => Sys2Proof.Machine.execAllocatorHeadTimeout die prio s
  | .regionMove ctx handle px py => Sys2Proof.Machine.execRegionMove ctx handle px py s
  | .tickBoundary => Sys2Proof.Machine.execTickBoundary s
  | .timebaseLockLoss => Sys2Proof.Machine.execTimebaseLockLoss s
  | .tableArmedStart die slot => Sys2Proof.Machine.execTableArmedStart die slot s
  | .laneReclaimStart die slot entry => Sys2Proof.Machine.execLaneReclaimStart die slot entry s
  | .tableEntryStart die slot entry => Sys2Proof.Machine.execTableEntryStart die slot entry s
  | .tableDeadlineOverrun die slot entry => Sys2Proof.Machine.execTableDeadlineOverrun die slot entry s
  | .fallbackBudgetEnd die slot entry => Sys2Proof.Machine.execFallbackBudgetEnd die slot entry s
  | .modeChangePoint die slot => Sys2Proof.Machine.execModeChangePoint die slot s
  | .drainLimitExpiry ctx => Sys2Proof.Machine.execDrainLimitExpiry ctx s
  | .saveLimitExpiry ctx => Sys2Proof.Machine.execSaveLimitExpiry ctx s
  | .contextSaveComplete ctx => Sys2Proof.Machine.execContextSaveComplete ctx s
  | .contextRestoreComplete ctx => Sys2Proof.Machine.execContextRestoreComplete ctx s
  | .contextTeardownComplete ctx => Sys2Proof.Machine.execContextTeardownComplete ctx s
  | .publicationTimeout q => Sys2Proof.Machine.execPublicationTimeout q s
  | .queueSlotGrant q => Sys2Proof.Machine.execQueueSlotGrant q s
  | .demotedQueueCheck q => Sys2Proof.Machine.execDemotedQueueCheck q s
  | .stallDetected ctx => Sys2Proof.Machine.execStallDetected ctx s
  | .waitConditionMet q => Sys2Proof.Machine.execWaitConditionMet q s
  | .nopPacket q => Sys2Proof.Machine.execNopPacket q s
  | .launchPacket q => Sys2Proof.Machine.execLaunchPacket q s
  | .deltaPacket q => Sys2Proof.Machine.execDeltaPacket q s
  | .copyPacket q => Sys2Proof.Machine.execCopyPacket q s
  | .waitPacket q => Sys2Proof.Machine.execWaitPacket q s
  | .signalPacket q => Sys2Proof.Machine.execSignalPacket q s
  | .fencePacket q => Sys2Proof.Machine.execFencePacket q s
  | .tableInstall q => Sys2Proof.Machine.execTableInstall q s
  | .tableStart q => Sys2Proof.Machine.execTableStart q s
  | .tableSwitch q => Sys2Proof.Machine.execTableSwitch q s
  | .tableAcknowledge q => Sys2Proof.Machine.execTableAcknowledge q s
  | .tableRemove q => Sys2Proof.Machine.execTableRemove q s
  | .modePrio q => Sys2Proof.Machine.execModePrio q s
  | .modePause q => Sys2Proof.Machine.execModePause q s
  | .modePubto q => Sys2Proof.Machine.execModePubto q s
  | .modeReslim q => Sys2Proof.Machine.execModeReslim q s
  | .graphPacket q => Sys2Proof.Machine.execGraphPacket q s
  | .debugAttach q => Sys2Proof.Machine.execDebugAttach q s
  | .debugDetach q => Sys2Proof.Machine.execDebugDetach q s
  | .debugHalt q => Sys2Proof.Machine.execDebugHalt q s
  | .debugResume q => Sys2Proof.Machine.execDebugResume q s
  | .debugReadState q => Sys2Proof.Machine.execDebugReadState q s
  | .debugWriteState q => Sys2Proof.Machine.execDebugWriteState q s
  | .debugSetBreakpoint q => Sys2Proof.Machine.execDebugSetBreakpoint q s
  | .debugClearBreakpoint q => Sys2Proof.Machine.execDebugClearBreakpoint q s
  | .cancelPacket q => Sys2Proof.Machine.execCancelPacket q s
  | .qctlEnable q => Sys2Proof.Machine.execQctlEnable q s
  | .qctlDisable q => Sys2Proof.Machine.execQctlDisable q s
  | .qctlRestart q clrsh host => Sys2Proof.Machine.execQctlRestart q clrsh host s
  | .qctlResume q => Sys2Proof.Machine.execQctlResume q s
  | .qctlDoorbell q => Sys2Proof.Machine.execQctlDoorbell q s
  | .ctxctlCreate ctx map => Sys2Proof.Machine.execCtxctlCreate ctx map s
  | .ctxctlSave ctx => Sys2Proof.Machine.execCtxctlSave ctx s
  | .ctxctlRestore ctx map => Sys2Proof.Machine.execCtxctlRestore ctx map s
  | .ctxctlTeardown ctx => Sys2Proof.Machine.execCtxctlTeardown ctx s
  | .ctxsaveWrite ctx w => Sys2Proof.Machine.execCtxsaveWrite ctx w s
  | .tbctlSettime => Sys2Proof.Machine.execTbctlSettime s
  | .tbctlStart => Sys2Proof.Machine.execTbctlStart s
  | .tbadjWrite w => Sys2Proof.Machine.execTbadjWrite w s
  | .cfginvCsrWrite w => Sys2Proof.Machine.execCfginvCsrWrite w s
  | .cfgInvalidationPerformed => Sys2Proof.Machine.execCfgInvalidationPerformed s
  | .vminvWrite w => Sys2Proof.Machine.execVminvWrite w s
  | .vmInvalidationPerformed => Sys2Proof.Machine.execVmInvalidationPerformed s
  | .futsetCsrWrite w => Sys2Proof.Machine.execFutsetCsrWrite w s
  | .pgretireWrite w => Sys2Proof.Machine.execPgretireWrite w s
  | .expoolWrite die w => Sys2Proof.Machine.execExpoolWrite die w s
  | .chretireWrite die w => Sys2Proof.Machine.execChretireWrite die w s
  | .channelMigrationDone die => Sys2Proof.Machine.execChannelMigrationDone die s
  | .attctlGo w => Sys2Proof.Machine.execAttctlGo w s
  | .quoteComplete => Sys2Proof.Machine.execQuoteComplete s
  | .peercfgWrite w => Sys2Proof.Machine.execPeercfgWrite w s
  | .shadowWrite die w => Sys2Proof.Machine.execShadowWrite die w s
  | .cfgcacheWrite die w => Sys2Proof.Machine.execCfgcacheWrite die w s
  | .leaveBudgetWrite die num w => Sys2Proof.Machine.execLeaveBudgetWrite die num w s
  | .tlclrWrite ctx w => Sys2Proof.Machine.execTlclrWrite ctx w s
  | .ingressChannelWrite n w => Sys2Proof.Machine.execIngressChannelWrite n w s
  | .histcfgWrite die i w => Sys2Proof.Machine.execHistcfgWrite die i w s
  | .trcctlWrite die w => Sys2Proof.Machine.execTrcctlWrite die w s
  | .evidxWrite w => Sys2Proof.Machine.execEvidxWrite w s
  | .csrWriteOther die ctx num w => Sys2Proof.Machine.execCsrWriteOther die ctx num w s
  | .hostCsrAccess pa len write w => Sys2Proof.Machine.execHostCsrAccess pa len write w s
  | .groupDeadline desc => Sys2Proof.Machine.execGroupDeadline desc s
  | .groupCollection desc => Sys2Proof.Machine.execGroupCollection desc s
  | .ccbarTimeout die num ctx => Sys2Proof.Machine.execCcbarTimeout die num ctx s
  | .collectiveComplete die => Sys2Proof.Machine.execCollectiveComplete die s
  | .flitReceived link pos head body crcOk => Sys2Proof.Machine.execFlitReceived link pos head body crcOk s
  | .linkTrainingDone link ver optOk posOk mods => Sys2Proof.Machine.execLinkTrainingDone link ver optOk posOk mods s
  | .linkTrainingTimeout link => Sys2Proof.Machine.execLinkTrainingTimeout link s
  | .linkLaneFailure link spare => Sys2Proof.Machine.execLinkLaneFailure link spare s
  | .linkModuleFailure link mod => Sys2Proof.Machine.execLinkModuleFailure link mod s
  | .linkRetrainDone link passed => Sys2Proof.Machine.execLinkRetrainDone link passed s
  | .powerOnReset imgA imgB fusedSvn => Sys2Proof.Machine.execPowerOnReset imgA imgB fusedSvn s
  | .recoveryImageFrame payload last => Sys2Proof.Machine.execRecoveryImageFrame payload last s
  | .configRecordWrite ok => Sys2Proof.Machine.execConfigRecordWrite ok s
  | .selfTestStart die page n => Sys2Proof.Machine.execSelfTestStart die page n s
  | .selfTestEnd die page n passed => Sys2Proof.Machine.execSelfTestEnd die page n passed s
  | .selfTestOverdue isl => Sys2Proof.Machine.execSelfTestOverdue isl s
  | .ageingSample die quad ring margin => Sys2Proof.Machine.execAgeingSample die quad ring margin s
  | .eccThresholdRetire die page => Sys2Proof.Machine.execEccThresholdRetire die page s
  | .thermalTrip die => Sys2Proof.Machine.execThermalTrip die s
  | .pdbAccessPerformed part => Sys2Proof.Machine.execPdbAccessPerformed part s
  | .sequencerStreamEnd tile chan => Sys2Proof.Machine.execSequencerStreamEnd tile chan s
  | .ethernetAutoNegotiation port optOk => Sys2Proof.Machine.execEthernetAutoNegotiation port optOk s

end Sys2Proof.Machine
end

