-- ==== Sys2Proof/Machine/Cycle.lean ====
section
/-! DEFINITION. Single acts of the agenda, the effects of a commit one by one, and what a region and a task do in a cycle: a
region's cycle is tried on a copy first, since an element that has to wait holds all of it (R73). -/

namespace Sys2Proof.Machine

/-! ### Single acts -/

/-- A request that has to wait where it is, in its order: tried again in the next cycle. -/
def State.tryAgain (s : State) (r : Req) : State :=
  { s with reqs := s.reqs.map (fun q => if q = r then { r with at_ := s.cycle + 1 } else q), held := false }

/-- A D request counted by its interface, from issue to performance (R422). -/
def State.countD (s : State) (r : Req) : State :=
  match r.place with
  | .chan tile _ => s.countRequest (tileDie tile) 8 (s.cycle - r.born)
  | _ => s

/-- A request taken from its place and performed; one that waits in a unit and is gone by now is dropped. -/
def State.performReq (s : State) (r : Req) : Out :=
  let gone : Bool := (match r.place with
    | .unit _ => true
    | _ => false) && !s.reqs.contains r
  if gone then .next s
  else match exec r.i { s.checkReq r with reqs := s.reqs.erase r, cur := { r.who with phase := .perform }, held := false } with
    | .next s' => .next (if s'.held then s.tryAgain r else s'.countD r)
    | o => o

/-- A word fired by its issuer; a block that has been dropped meanwhile fires nothing. -/
def State.fire (s : State) (who : Issuer) (w : Word) : Out :=
  if who.task ≠ 0 ∧ (s.task who.task).blk.isNone then .next s
  else match decodeWord (if who.task = 0 then .timed else .block) w with
    | .ok i => exec i { s with cur := who, held := false }
    | .error _ => .fault .notAnInstruction

/-- Whether a stream command reads or writes device memory. -/
def SCmd.inD (c : SCmd) : Bool := c.ports.any fun b => match b.memory with
  | some (p, _) => p.space == 0
  | none => false

/-- A burst of an island that moves device memory is counted by the island's interface; its latency is free (log entry 5). -/
def State.countBurst (s s1 : State) (k : Nat) : State :=
  match (s.turns k).find? fun c => (s.strStep k c).isSome with
  | some c => if c.inD then s1.delay.2.countRequest (k / 8) (k % 8) s1.delay.1 else s1
  | none => s1

def State.runEvent (s : State) (e : Ev) : Out :=
  match e with
  | .streamBurst k => match runEv (.streamBurst k) s with
    | .next s1 => .next (s.countBurst s1 k)
    | o => o
  | e => runEv e s

/-! ### The commit (R246) -/

/-- A `jpost`: it is performed after what else its cycle brings to its card's graph and context (R258). -/
def isPost (i : Instr) : Bool :=
  match i with
  | .jpost _ _ _ _ => true
  | _ => false

/-- The next effect of a block's commit: the store class, the h registers, the sends, the exit. An effect that has to wait is tried
again in the next cycle. -/
def State.commitStep (s : State) (k : Nat) : Out :=
  let t := s.task k
  match t.blk with
  | none => .next s
  | some b =>
    if !t.committing then .next s
    else match t.commit with
      | d :: rest =>
        if isPost d.i && s.agenda.any Act.isStage then .next (s.later (.commitStep k))
        else
        let s0 := (s.setTask k { t with commit := rest, stuck := false }).soon (.commitStep k)
        match exec d.i { s0 with cur := { d.who with phase := .commit }, held := false } with
        | .next s1 => .next (if s1.held then s.setTask k { t with stuck := true } else s1)
        | o => o
      | [] =>
        if t.sending then .next (s.takeExit k)
        else
          let ds : List Dst := ((List.range 8).filter fun j => b.hdr.wmask.getLsbD j).map fun j => .h (BitVec.ofNat 3 j)
          let s1 := ({ s with cur := { s.cur with task := k } }).writeH ds
          .next ((s1.setTask k { s1.task k with hdone := true, sending := true, commit := b.sends }).soon (.commitStep k))

/-- The acts that need no other part of the schedule. -/
def State.runBasic (s : State) (a : Act) : Out :=
  match a with
  | .fire who w => s.fire who w
  | .redo a => exec a.i { (s.checkTile a.tile a.i a.who.ops).takePort a.tile (s.claimOf a) false with cur := a.who, held := false }
  | .perform r => s.performReq r
  | .event e => s.runEvent e
  | .commitStep k => s.commitStep k
  | .stuck k yes => .next (s.setTask k { s.task k with stuck := yes })
  | .endCycle ctx h die => .next (s.endCycle ctx h die)
  | .tend _ _ _ => .next s
  | .stage _ => .next s

/-- The agenda run to its end on a copy; none where an act stops, or, when `strict`, has to wait. -/
def drive (run : State → Act → Out) (strict : Bool) : Nat → State → Option State
  | 0, _ => none
  | n + 1, s => match s.agenda with
    | [] => some s
    | a :: rest => match run { s with agenda := rest, held := false } a with
      | .next s1 => if strict && s1.held then none else drive run strict n s1
      | _ => none

/-- Acts of a copy, at most. -/
def driveFuel : Nat := 65536

/-! ### A region's cycle -/

/-- How the trial of a region's cycle ends: it can be performed; it conflicts; or an element holds it. -/
inductive Try where
  | ok (acts : List Act) (s : State)
  | clash (fs : List RFault)
  | frozen

/-- Whether the region stands still for a group, for a grant or for a tick (R293, R377), or for a token or a ring of another page
(R135, R139). -/
def State.waitsIn (s : State) (ctx h die : Nat) : Bool :=
  s.reqs.any fun q => q.who.task == 0 && q.who.ctx == ctx && q.who.handle == h && q.who.die == die && (match q.place with
    | .unit k => k != 0
    | _ => decide (q.at_ ≤ s.cycle) && s.tileWaits q)

/-- A push that meets a pop of the same empty slot in one cycle is performed first; the pop finds the slot full in the next
(R139). -/
def State.pushFirst (s : State) (ctx h die : Nat) : State :=
  let r := s.regionOn ctx h die
  let pops (tile k : Nat) : Bool := r.dueAcc.any fun a => a.tile == tile && (match a.i, a.claim with
    | .qpop _ _ _ _, .ring j _ => j == k
    | _, _ => false)
  let feeds (a : Acc) : Bool := match a.i, a.claim with
    | .qpush _ _ _ _ _, .ring k (some t) =>
      let g := s.ring a.tile k
      g.inWindow t && t % g.size == g.next 0 && g.holder.isNone && !g.full.contains (g.next 0) && pops a.tile k
    | _, _ => false
  match (if r.waitsExt || s.waitsIn ctx h die then none else r.dueAcc.find? feeds) with
  | none => s
  | some a =>
    let s1 := (s.setRegion ctx h die { r with acc := r.acc.erase a }).takePort a.tile (s.claimOf a) false
    match exec a.i { s1 with cur := a.who, held := false } with
    | .next s2 => if s2.held then s else s2
    | _ => s

/-- The present cycle of a region tried on a copy: its entries, then the accesses that it performs. -/
def State.tryCycle (s : State) (ctx h die : Nat) : Try :=
  let r := s.regionOn ctx h die
  let acts := ((s.entries ctx h die).map fun e => Act.fire e.1 e.2) ++ r.dueAcc.map fun a => Act.redo a
  if s.waitsIn ctx h die || r.waitsExt || r.dueAcc.any s.accWaits then .frozen
  else if s.badEntries ctx h die ≠ [] then .clash (s.badEntries ctx h die)
  else match drive State.runBasic true driveFuel { s with agenda := acts } with
    | none => .frozen
    | some s1 =>
      let r1 := s1.regionOn ctx h die
      let fs := s.clashes s1 ctx h die ++ r1.badWrites
      if fs ≠ [] ∨ (r1.faults.any fun f => f.code == ftTime) then .clash (r1.faults ++ fs)
      else match s1.finishCycle ctx h die with
        | none => .frozen
        | some _ => .ok acts s1

/-- A region that is to be saved: its end, decided by a cancel while it had no fault, or its fault comes first; once its requests
outside are answered it is saved (R347). -/
def State.tendSaving (s : State) (ctx h die : Nat) : State :=
  let r := s.regionOn ctx h die
  match r.kill with
  | some k => s.stopLaunch ctx h die k.1 k.2
  | none =>
    if r.faults ≠ [] then s.regionFault ctx h die
    else if s.outsideQuiet ctx h die then s.saveNow ctx h die else s.standStill ctx h die

/-- What a region does in a cycle that it does not perform. -/
def State.tend (s : State) (ctx h die : Nat) : State :=
  let r := s.regionOn ctx h die
  match r.st with
  | .arming => s.armStep ctx h die
  | .halted =>
    let s1 := s.haltReport ctx h die
    if r.faults ≠ [] then s1.regionFault ctx h die
    else if r.saving then s1.tendSaving ctx h die else s1.standStill ctx h die
  | .running | .draining =>
    if r.saving ∨ r.faults ≠ [] ∨ r.kill.isSome then s.tendSaving ctx h die
    else if r.st = .draining ∧ s.quietNow ctx h die then
      s.setRegion ctx h die { r.count with quiet := some (r.quiet.getD s.cycle) }
    else match s.tryCycle ctx h die with
      | .clash fs => (s.setRegion ctx h die { r with faults := fs }).regionFault ctx h die
      | _ => (s.pushFirst ctx h die).standStill ctx h die
  | _ => s

/-- An act of a region. -/
def State.runRegion (s : State) (a : Act) : Out :=
  match a with
  | .tend ctx h die => .next (s.tend ctx h die)
  | a => s.runBasic a

/-- What a region does in the present cycle (R68, R220, R224, R225). A cancel that is younger than the cycle waits for the next. -/
def State.regionActs (s : State) (killed : Bool) (ctx h die : Nat) : List Act :=
  let r := s.regionOn ctx h die
  let t := [Act.tend ctx h die]
  let cycle (s : State) : List Act := match s.tryCycle ctx h die with
    | .ok acts _ => acts ++ [.endCycle ctx h die]
    | _ => t
  match r.st with
  | .loading => if r.due ≤ s.cycle then [.event (.configCompleteWave ctx h)] else []
  | .arming =>
    let s1 := s.tend ctx h die
    t ++ (if (s1.regionOn ctx h die).st = .running then cycle s1 else [])
  | .running => if killed ∨ r.saving ∨ r.faults ≠ [] then t else if r.pastEnd then [.event (.drainToken ctx h)] else cycle s
  | .draining => if killed ∨ r.saving ∨ r.faults ≠ [] then t
    else if s.quietNow ctx h die then (match r.quiet with
      | some q => if q + 16 ≤ s.cycle then [.event (.quiescenceReport ctx h)] else t
      | none => t)
    else cycle s
  | .halted => t
  | _ => []

/-- Whether a context under restoration still waits for a grant that it gave up: its regions, placed again, do not run (R293). -/
def State.waitsLeave (s : State) (ctx : Nat) : Bool := s.ctxState ctx == ctxRestoring && s.owed.any fun g => g.1 == ctx

/-- What all regions do, each tried in the state that those before it leave. -/
def State.allRegionActs (s : State) (up : Nat → Bool) : List Act :=
  let keys := (s.regions.filter fun p => p.2.live && up p.2.die && p.2.moving.isNone && !s.waitsLeave (p.1 / 4 / 256)).map fun p => (p.1 / 4 / 256, p.1 / 4 % 256, p.1 % 4, p.2.st, p.2.kill.isSome)
  (keys.foldl (fun (acc : List Act × State) e =>
    if (acc.2.regionOn e.1 e.2.1 e.2.2.1).st ≠ e.2.2.2.1 then acc
    else
      let a := acc.2.regionActs e.2.2.2.2 e.1 e.2.1 e.2.2.1
      (acc.1 ++ a, match drive State.runRegion false driveFuel { acc.2 with agenda := a } with
        | some s1 => s1
        | none => acc.2)) ([], { s with agenda := [] })).1

/-! ### A task's cycle (R240, R243, R245) -/

/-- Whether an instruction that is ready would have to wait. -/
def State.heldNow (s : State) (who : Issuer) (w : Word) : Bool :=
  match ({ s with agenda := [] } : State).fire who w with
  | .next s1 => s1.held
  | _ => true

/-- What a task does in the present cycle: it fetches a block, fires the lowest ready index of each PE that need not wait, commits. -/
def State.taskActs (s : State) (k : Nat) : List Act :=
  let t := s.task k
  if t.st ≠ .running ∨ t.tile.isNone then []
  else match t.blk with
    | none => if s.ctxWorks t.ctx then [.event (.blockFetchMap k)] else []
    | some b =>
      if t.committing then [.commitStep k]
      else if s.blockDone b then [.event (.blockCommit k)]
      else if s.cycle < b.start then []
      else match decodeBlock b.words with
        | none => []
        | some is =>
          if s.fenced k is b then []
          else
            let word (idx : Nat) : Word := b.words.getD (idx - 1) 0
            let free (idx : Nat) : Bool := !s.heldNow (t.issuer k idx) (word idx)
            let ready := (List.range 16).map fun pe => readyOn is b s.cycle pe
            let picks := ready.filterMap fun l => l.find? free
            let inOrder := (List.range b.words.length).filter fun j => picks.contains (j + 1)
            let waits := picks.isEmpty && (ready.any (fun l => !l.isEmpty)
              || s.reqs.any fun r => r.who.task == k && decide (r.at_ ≤ s.cycle))
            inOrder.map (fun j => .fire (t.issuer k (j + 1)) (word (j + 1))) ++ (if waits = t.stuck then [] else [.stuck k waits])

/-- Siblings of groups whose turn has come join their posted lists, at the tail (R372). -/
def State.postSiblings (s : State) : State :=
  (s.tasks.filter fun p => match p.2.postAt with
    | some c => decide (c ≤ s.cycle)
    | none => false).foldl (fun s p => s.setTask p.1 { s.task p.1 with seqNo := s.postNo false, postAt := none }) s

/-- Dispatch at a die with a posted task: a free executor, or else the busy ones (R256). -/
def State.dispatchActs (s : State) (die : Nat) : List Act :=
  if (s.nextPosted die).isNone then []
  else match (s.executors die).find? fun x => (s.taskOn x).isNone with
    | some x => [.event (.taskDispatch die x)]
    | none => (s.tasks.filterMap fun p => p.2.tile).filter (fun x => tileDie x == die) |>.map fun x => .event (.taskDispatch die x)

def State.allTaskActs (s : State) (up : Nat → Bool) : List Act :=
  (((s.tasks.filter fun p => up p.2.dieNow).map fun p => s.taskActs p.1)).flatten
    ++ ((([0, 1, 2, 3] : List Nat).filter up).map s.dispatchActs).flatten
    ++ (s.tasks.filter fun p => up p.2.dieNow && p.2.st == .running && p.2.requeue.isNone && decide (p.2.since + 50000 ≤ s.cycle)).map fun p =>
      .event (.timeSliceExpiry p.1)

end Sys2Proof.Machine
end

