-- ==== Sys2Proof/Machine/Sched.lean ====
section
/-! DEFINITION. What happens next: the acts of the agenda one by one, and between cycles what the next cycle brings, in ten parts.
Each part is settled when it is reached. Acts of the outside world (frames, flits, training results, failures of lanes, modules
and columns, a move of a region, the host's own) never arise here: they are instructions of `exec` alone. -/

namespace Sys2Proof.Machine

def evs (l : List Ev) : List Act := l.map Act.event

/-! ### Part 0: time, links, invalidations, tests that end -/

/-- Links whose training or retraining runs out of time (R390). -/
def State.linkActs (s : State) : List Ev :=
  s.links.filterMap fun e =>
    if e.2.limit ≤ s.cycle then
      (if s.lnkState e.1 = lnkTraining then some (.linkTrainingTimeout e.1)
        else if s.lnkState e.1 = lnkRetrain then some (.linkRetrainDone e.1 false) else none)
    else none

/-- Self-tests that end in this cycle; how a test ends is free (log entry 37). -/
def State.testEnds (s : State) : List Act × State :=
  (s.tests.filter fun t => decide (t.due ≤ s.cycle)).foldl (fun (acc : List Act × State) t =>
    (acc.1 ++ [.event (.selfTestEnd t.die t.page t.n ((Config.freeWord acc.2.free).bit 0))], { acc.2 with free := acc.2.free + 1 })) ([], s)

def State.part0 (s : State) : List Act × State :=
  let t := s.finishMoves.upset.testEnds
  (evs ((if s.tb.lost then [.timebaseLockLoss] else []) ++ (if s.tb.sent = some 0 then [.tickBoundary] else []) ++ s.linkActs
    ++ (s.cinvs.filter fun c => decide (c.at_ ≤ s.cycle)).map (fun _ => .cfgInvalidationPerformed)
    ++ (s.vinvs.filter s.vinvDue).map fun _ => .vmInvalidationPerformed) ++ t.1, t.2)

/-! ### Parts 1 and 2: requests and replies whose time has come -/

/-- Slots of channels that begin in this cycle and find a request waiting (R155). -/
def State.slotActs (s : State) : List Act :=
  if s.cycle % 32 ≠ 0 then []
  else
    let chans := (s.reqs.filter fun r => !r.served && decide (r.at_ ≤ s.cycle)).foldl (fun l r => match r.place with
      | .chan _ c => setIns l c
      | _ => l) []
    chans.map fun c => .event (.arbiterSlotStart (c / 16) (c % 16))

/-- Whether a request is a `cancel`, which is performed after what the regions do in its cycle (R231). -/
def Req.isCancel (r : Req) : Bool :=
  match r.i with
  | .cancel _ _ _ _ _ => true
  | _ => false

/-- Requests at partitions, channels and units; those at memory tiles come after the timed accesses of the cycle (R127). -/
def State.part1 (s : State) : List Act :=
  s.slotActs ++ (s.reqs.filter fun r => decide (r.at_ ≤ s.cycle)).filterMap fun r => match r.place with
    | .tile _ => none
    | .part p => some (.event (.pdbAccessPerformed p))
    | .chan t c => some (.event (.dRequestPerformed t c))
    | .unit k => if r.isCancel || isPost r.i || s.asleep r || (k == 0 && s.mustWait [] r) then none else some (.perform r)

/-! ### Part 4: untimed accesses of memory tiles -/

/-- The beats of blocks' streams moved. -/
def State.moveBeats (s : State) : State := s.blockChans.foldl (fun s c => s.untimedBeat c.1 c.2) s

def State.part4 (s : State) : List Act × State :=
  ((s.reqs.filter fun r => decide (r.at_ ≤ s.cycle)).filterMap fun r => match r.place with
    | .tile k => some (.event (.scratchAccessPerformed k))
    | .unit _ => if r.isCancel then some (.perform r) else none
    | _ => none, s.moveBeats)

def State.part2 (s : State) : List Act :=
  (s.replies.filter fun q => decide (q.at_ ≤ s.cycle)).map fun q => .event (.externalResultArrival q.tile)

/-! ### Dies that take no part in work (R16, R393, R437) -/

def State.dieUp (s : State) (die : Nat) : Bool := !s.downDies.contains die

/-- The dies that take part in work. -/
def State.upDies (s : State) : List Nat := ([0, 1, 2, 3] : List Nat).filter s.dieUp

/-! ### Part 6: engines -/

/-- A stream island starts one command, moves four bursts and completes one command in a cycle. -/
def State.streamActs (s : State) : List Ev :=
  (s.sisls.filter fun e => s.dieUp (e.1 / 8) && !e.2.cmds.isEmpty).map (fun e =>
    [.streamCommandStart e.1, .streamBurst e.1, .streamBurst e.1, .streamBurst e.1, .streamBurst e.1, .streamCommandComplete e.1])
    |>.flatten

def State.matrixActs (s : State) : List Ev :=
  (s.misls.filter fun e => s.dieUp (e.1 / 16) && !e.2.queue.isEmpty).map (fun e =>
    [.matrixCommandStart e.1 2, .matrixCommandStart e.1 1, .matrixCommandStart e.1 0]
      ++ e.2.queue.flatMap (fun _ => [.matrixRowUpdate e.1, .matrixRowUpdate e.1])
      ++ e.2.queue.map fun c => .matrixCommandComplete e.1 c.num)
    |>.flatten

def State.collectActs (s : State) : List Ev :=
  ((s.ccs.filter fun e => s.dieUp e.1).map fun e => (if e.2.any s.ccReady then [.collectiveComplete e.1] else [])
    ++ (e.2.filter fun c => c.timeout != 0 && decide (c.started + c.timeout ≤ s.cycle)).map fun c => .ccbarTimeout e.1 c.num c.ctx).flatten

/-! ### Part 7: front ends -/

/-- The queues of a die that may dispatch now, in the order of R318: by priority, then the one that is being served while its deficit
lasts, then in turn. -/
def State.turnOf (s : State) (die : Nat) : List Nat :=
  let ok := (s.queues.filter fun e => s.qDie e.1 == die && s.mayDispatch e.1 && s.published e.1).map Prod.fst
  (([2, 3, 4] : List Nat).map fun p =>
    let last := tabGet 0 s.fe (8 * die + p)
    let l := ok.filter fun q => s.qPrio q == p
    let cont := l.filter fun q => q + 1 == last && (s.qRun q).visit
    let rest := l.filter fun q => !cont.contains q
    cont ++ rest.filter (fun q => decide (last ≤ q)) ++ rest.filter fun q => decide (q < last)).flatten

/-- The packets tried by a die's pipeline: those of queues that are held back, up to the first that goes on. -/
def State.tryPackets (s : State) : List Nat → List Act
  | [] => []
  | q :: rest =>
    let e := s.packetEvent q
    .event e :: (match runEv e s with
      | .next s1 => if s1.qRdx q ≠ s.qRdx q ∨ s1.qState q ≠ s.qState q then [] else s1.tryPackets rest
      | _ => [])

/-- Whether a counter's advance or a completion that a queue's wait names has come since its last check (R321). -/
def State.named (s : State) (e : Nat × QRun) : Bool :=
  !e.2.ask && (match e.2.wait with
    | some w => w.kind != 1 && s.waitOver e.1
    | none => false)

def State.queueActs (s : State) : List Ev :=
  ((s.queues.filter fun e => s.dieUp (s.qDie e.1)).map fun e =>
    let q := e.1
    (if s.qState q = qsWaiting ∧ s.resident q ∧ s.waitOver q then [.waitConditionMet q] else [])
      ++ (if s.qState q = qsDemoted ∧ (e.2.checkAt ≤ s.cycle ∨ s.named e) then [.demotedQueueCheck q] else [])
      ++ (match e.2.pub with
        | some t => if t + 1000 * (s.qField q 0x28 4).toNat ≤ s.cycle then [.publicationTimeout q] else []
        | none => [])).flatten
  ++ s.upDies.filterMap fun d => (s.nextAsking d).map fun q => .queueSlotGrant q

/-- Cards that have ended and whose finishing waits for what their tasks issued (R253). -/
def State.endedCards (s : State) : List Ev :=
  (s.cards.filter fun p => p.2.ended.isSome).map fun p => .cardFinish p.2.ctx (Word.ofN p.2.va)

def State.part7 (s : State) : List Act × State :=
  let s1 := s.queues.foldl (fun (s : State) (e : Nat × QRun) => s.watchQueue e.1) s.retryCopies.linkPosted
  (evs s1.queueActs ++ evs (s1.endedCards) ++ (s1.upDies.map fun d => s1.tryPackets (s1.turnOf d)).flatten
    ++ evs ((s1.stalls.filter fun e => decide (e.2 + 1000000 ≤ s1.cycle)).map fun e => .stallDetected e.1), s1)

/-! ### Part 8: allocators, contexts, the Umber core -/

/-- The cycle in which each waiting launch became the head of its FIFO: behind a head it is still to come (R319). -/
def State.markHeads (s : State) : State :=
  let heads : List Nat := (([0, 1, 2, 3] : List Nat).map fun d => ([1, 2, 3, 4, 5] : List Nat).filterMap fun p =>
    ((s.line d p).head?).map fun e => regKey e.1 e.2.1 d).flatten
  { s with regions := s.regions.map fun (e : Nat × Region) =>
    if (e.2.st = .queued ∨ e.2.back) ∧ !heads.contains e.1 then (e.1, { e.2 with waitAt := s.cycle }) else e }

def State.allocActs (s : State) : List Ev :=
  (s.upDies.map fun d =>
    if s.regions.any fun e => e.2.die == d && (e.2.st == .queued || e.2.back) then
      .placementGrant d :: (match ([1, 2, 3, 4, 5] : List Nat).find? fun p => !(s.line d p).isEmpty with
        | none => []
        | some p => if ((s.line d p).head?).any fun e => decide (e.2.2.waitAt + 10000 ≤ s.cycle) then [.allocatorHeadTimeout d p] else [])
    else []).flatten

def State.contextActs (s : State) : List Ev :=
  ((List.range 64).map fun c =>
    let st := s.ctxState c
    if st = ctxSaving then [.drainLimitExpiry c, .saveLimitExpiry c, .contextSaveComplete c]
    else if st = ctxRestoring then [.contextRestoreComplete c]
    else if st = ctxEnding then [.contextTeardownComplete c] else []).flatten

/-- The island of a die that the Umber core tests next: one that was asked for, or whose last test ended 90 ms ago (R432). -/
def State.nextTest (s : State) (die : Nat) : Option Nat :=
  let ok (n : Nat) : Bool := !s.laneHeld (16 * die + n) && ((s.misl (16 * die + n)).st == .free || (s.misl (16 * die + n)).st == .owned)
  if s.testing die false then none
  else match (List.range 16).find? fun n => ok n && (s.testOf (16 * die + n)).asked with
    | some n => some n
    | none => (List.range 16).find? fun n => ok n && decide ((s.testOf (16 * die + n)).last + 90000000 ≤ s.cycle)

/-- Tests that the Umber core starts once it has booted; when it tests which FREE page is free (log entry 37). -/
def State.testActs (s : State) (w : Word) : List Ev :=
  if s.boot ≠ .done then []
  else (s.upDies.map fun d =>
      (match s.nextTest d with
        | some n => [.selfTestStart d false n]
        | none => [])
      ++ (if w.bit (8 + d) ∧ !s.testing d true then [.selfTestStart d true (w.bits (16 + 6 * d) 6)] else [])).flatten
    ++ ((List.range 64).filter fun k => s.laneHeld k && !(s.testOf k).late && decide ((s.testOf k).last + 100000000 ≤ s.cycle)).map fun k =>
      .selfTestOverdue k

/-- What ends at a time of its own: a quote, a migration, the record written within a second or a minute (R429, log entries 5, 37). -/
def State.umberActs (s : State) (w : Word) : List Ev :=
  (if (s.pkgCsr 0x8040).bit 1 ∧ w.bit 0 then [.quoteComplete] else [])
    ++ (([0, 1, 2, 3] : List Nat).filter fun d => (s.dcsrAt d 0x8720).bits 32 16 != 0 && w.bit (1 + d)).map (fun d => .channelMigrationDone d)
    ++ (if s.cycle % 1000000000 = 0 ∧ s.recordStale ∧ (s.recordUrgent ∨ s.cycle % 60000000000 = 0) then [.configRecordWrite (w.bit 5)] else [])

/-- Pages whose scratch has passed the threshold of corrected errors (R409). -/
def State.eccActs (s : State) : List Ev :=
  ((s.eccLog.map Prod.fst).foldl setIns []).filterMap fun k =>
    if s.eccOver (k / 64) (k % 64) && !(s.page (k / 64) (k % 64)).retp then some (.eccThresholdRetire (k / 64) (k % 64)) else none

/-- The junction temperature of a die that a word of free values gives, in °C (log entry 60). -/
def junction (w : Word) (die : Nat) : Int := signedBits 9 (w.bits (9 * die) 9)

/-- TJ of that temperature: its field holds -128 to 127, so the nearest of these (log entry 60). -/
def tjField (t : Int) : Nat := ((if t < -128 then -128 else if 127 < t then 127 else t) % 256).toNat

/-- What the sensors of each die read in this cycle: free values (log entry 60). -/
def State.sense (s : State) (tj tc : Word) : State :=
  ([0, 1, 2, 3] : List Nat).foldl (fun s d => s.setDcsr d 0x8760
    (Word.ofN (tjField (junction tj d) * 2 ^ 56 + tc.bits (8 * d) 8 * 2 ^ 48 + bit01 ((s.dcsrAt d 0x8760).bit 0)))) s

/-- The trip of each die whose junction is at 135 °C (R12, R437). -/
def tripActs (tj : Word) : List Ev :=
  (([0, 1, 2, 3] : List Nat).filter fun d => decide (135 ≤ junction tj d)).map fun d => .thermalTrip d

def State.part8 (s : State) : List Act × State :=
  let w := Config.freeWord s.free
  let tj := Config.freeWord (s.free + 1)
  let s1 := ({ s with free := s.free + 3 }.sense tj (Config.freeWord (s.free + 2))).markHeads.leavePools
  (evs (tripActs tj ++ s1.allocActs ++ s1.contextActs ++ s1.testActs w ++ s1.umberActs w ++ s1.eccActs), s1)

/-! ### Part 9: the end of the cycle -/

/-- Timed `jpost`s whose time has come: after the cancels and teardowns of the cycle (R258). -/
def State.postActs (s : State) : List Act :=
  (s.reqs.filter fun r => isPost r.i && decide (r.at_ ≤ s.cycle) && !s.mustWait [] r).map .perform

/-- Since when each ACTIVE context meets R335's conditions. -/
def State.watchStalls (s : State) : State :=
  { s with stalls := (List.range 64).filterMap fun c =>
      if s.ctxState c = ctxActive ∧ s.stalled c then some (c, tabGet s.cycle s.stalls c) else none }

/-- Tokens of idle records, lanes, events of debug sessions, loading cycles (R135, R280, R418, R420). -/
def State.settle (s : State) : State :=
  let s1 := { s with
    tiles := s.tiles.map fun (t : Nat × MemTile) => if t.2.tokens.isEmpty then t else (t.1, t.2.settle)
    regions := s.regions.map fun (e : Nat × Region) =>
      if e.2.st = RegSt.loading ∨ e.2.st = RegSt.arming then (e.1, { e.2 with cLoad := e.2.cLoad + 1 }) else e }
  let s2 := s1.settleLanes.mapVers.settleTests
  ((s2.dbgs.filter fun (e : Nat × Dbg) => !e.2.held.isEmpty).foldl (fun (s : State) e => s.dbgFlush e.1) s2).watchStalls

def State.part9 (s : State) : List Act × State :=
  (s.postActs ++ evs ((s.groups.filter fun e => e.2.deadline != 0 && s.tb.run && decide (e.2.deadline ≤ s.stc.toNat)).map fun e =>
      .groupDeadline e.1), s.settle)

/-! ### Cycles -/

/-- What part `n` of the present cycle holds. -/
def State.part (s : State) (n : Nat) : List Act × State :=
  match n with
  | 0 => s.part0
  | 1 => (s.part1, s)
  | 2 => (s.part2, s)
  | 3 => (s.allRegionActs s.dieUp, s)
  | 4 => s.part4
  | 5 => (s.postSiblings.allTaskActs s.dieUp, s.postSiblings)
  | 6 => (evs (s.streamActs ++ s.matrixActs ++ s.collectActs), s)
  | 7 => s.part7
  | 8 => s.part8
  | 9 => s.part9
  | _ => ([], s)

/-- One act of the agenda. -/
def State.runAct (s : State) (a : Act) : Out :=
  match a with
  | .stage n => .next { (s.part n).2 with agenda := (s.part n).1 ++ (s.part n).2.agenda }
  | a => s.runRegion a

/-- The next cycle: triggers of the last one act, time goes on, and the parts of the cycle are to be done (R266 to R269, R423). -/
def State.nextCycle (s : State) : State :=
  let s1 := s.applyTriggers
  let tb := s1.tb.next
  { s1 with
    cycle := s1.cycle + 1
    tb := tb
    tickAt := if tb.sent = some 0 then s1.cycle + 1 else s1.tickAt
    busy := s1.holds
    holds := []
    agenda := (List.range 10).map Act.stage }

end Sys2Proof.Machine
end

