-- ==== Sys2Proof/Machine/Step.lean ====
section
/-! DEFINITION. One step of the machine, and the placing of an instruction where the next step takes it. -/

namespace Sys2Proof.Machine

/-- The first act of the agenda; with an empty agenda, the next cycle. -/
def step (s : State) : Host.Outcome State Fault Refusal :=
  match s.agenda with
  | a :: r => { s with agenda := r }.runAct a
  | [] => .next s.nextCycle

/-- The instruction of word `w` put where the next step takes it: fired by PE 0 of tile (0, 0) when it is a timed word, by the
first place of a block of task 1 when it is a block word (log entry 1). -/
def State.withFetchWord (s : State) (_nbits w : Nat) : State :=
  let word := Word.ofN w
  match decodeWord .timed word with
  | .ok _ => { s with agenda := .fire Issuer.init word :: s.agenda }
  | .error _ =>
    let b := { Blk.init with words := [word] }
    { s with
      tasks := tabPut s.tasks 1 { Task.init with st := .running, tile := some 0, blk := some b }
      nextTask := 2
      agenda := .fire { Issuer.init with task := 1 } word :: s.agenda }

end Sys2Proof.Machine
end

