-- ==== Sys2Proof/Safety.lean ====
section
/-! DEFINITION. What counts as a safe run, and the terms in which the statements speak: when an instruction takes its full
effect, what it reads, what its result leaves behind, and when a request or a commit performs it. -/

namespace Sys2Proof.Machine

/-! ### Safety -/

/-- The four memories are in canonical form: what every step keeps. -/
def State.Canonical (s : State) : Prop :=
  s.mem.wf = true ∧ s.pdb.wf = true ∧ s.wst.wf = true ∧ s.dram.wf = true

/-- A step is safe when the machine goes on. Every fault of the spec is an event of the running machine (R405, R406), so the one
way to stop is a word that no loader lets in (R52). -/
def Safe (o : Out) : Prop := ∃ s, o = .next s

/-! ### An instruction that fires -/

/-- The issuer's instruction takes its full effect now: it fires, no `nul` has nulled it (R263), and its predicate holds (R43). -/
def State.inFull (s : State) (h : Hd) : Prop :=
  s.cur.phase = .fire ∧ s.isNulled h.place.form = false ∧ (s.fires h).1 = true

/-- What the operand `a` reads for an instruction whose sources are `srcs` (R41, R241). -/
def State.src (s : State) (h : Hd) (srcs : List Src) (a : Src) : Val :=
  match h.place.form with
  | .timed => s.readTimed srcs a
  | .block => s.readBlock a

/-- What all its sources read. -/
def State.vals (s : State) (h : Hd) (srcs : List Src) : List Val := srcs.map (s.src h srcs)

/-- The poison its predicate lends to every result (R84). -/
def State.lent (s : State) (h : Hd) : Bool := (s.fires h).2

/-- The state after an instruction whose result `r` has the fixed latency `lat` (R42, R64, R454). -/
def State.gives (s : State) (h : Hd) (lat : Nat) (r : ResW) : State := (s.markFired h.place.form).complete h.place.form lat true r

/-- The state after a computation of one operand: destination and latch take the value, poisoned by the operand and by the
predicate, and its flags are raised (R53). -/
def State.from1 (s : State) (h : Hd) (d : Dst) (a : Src) (lat : Nat) (f : Word → Word × Flags) : State :=
  let x := s.src h [a] a
  s.gives h lat (ResW.one d { v := (f x.v).1, p := s.lent h || x.p } (f x.v).2)

/-- The same of two operands. -/
def State.from2 (s : State) (h : Hd) (d : Dst) (a b : Src) (lat : Nat) (f : Word → Word → Word × Flags) : State :=
  let x := s.src h [a, b] a
  let y := s.src h [a, b] b
  s.gives h lat (ResW.one d { v := (f x.v y.v).1, p := s.lent h || x.p || y.p } (f x.v y.v).2)

/-- The same of three operands. -/
def State.from3 (s : State) (h : Hd) (d : Dst) (a b c : Src) (lat : Nat) (f : Word → Word → Word → Word × Flags) : State :=
  let x := s.src h [a, b, c] a
  let y := s.src h [a, b, c] b
  let z := s.src h [a, b, c] c
  s.gives h lat (ResW.one d { v := (f x.v y.v z.v).1, p := s.lent h || x.p || y.p || z.p } (f x.v y.v z.v).2)

/-! ### An instruction that is performed -/

/-- A later phase of an instruction that read `ops` and the predicate's poison `pp` when it fired: its access arrives at the unit
(`.perform`), or its block commits (`.commit`). -/
def State.arrives (s : State) (ph : Phase) (ops : List Val) (pp : Bool) : Prop :=
  s.cur.phase = ph ∧ s.cur.ops = ops ∧ s.cur.pois = pp

/-- The state in which a timed send or a query of either form is performed at its firing: the tag of its reply is taken, and `ext`
results of latency `lat` are expected (R64, R66). -/
def State.sent (s : State) (m : Form) (lat ext : Nat) (ops : List Val) (pp : Bool) : State :=
  let s2 := s.tagged.expect m lat ext
  { s2 with cur := s2.carry .perform ops pp 0 }

/-- `ext` more external results keep within the 32 that a compute tile may have outstanding (R66). -/
def State.roomFor (s : State) (m : Form) (ext : Nat) : Prop := ext = 0 ∨ s.extOut m + ext ≤ 32

/-- Where a send is performed: `s'` is the state from which its effect is taken, `ops` and `pp` what it read. A timed send is
performed when it fires, and a block's by its commit (R244). -/
def State.sends (s : State) (h : Hd) (srcs : List Src) (lat ext : Nat) (ops : List Val) (pp : Bool) (s' : State) : Prop :=
  (h.place.form = .timed ∧ s.inFull h ∧ s.roomFor .timed ext ∧ ops = s.vals h srcs ∧ pp = s.lent h ∧ s' = s.sent .timed lat ext ops pp)
    ∨ ((h.place.form = .block ∧ s.cur.phase = .commit) ∧ ops = s.cur.ops ∧ pp = s.cur.pois ∧ s' = s)

/-- Where a query is performed: at its firing, in either form. -/
def State.queried (s : State) (h : Hd) (srcs : List Src) (lat ext : Nat) (ops : List Val) (pp : Bool) (s' : State) : Prop :=
  s.inFull h ∧ s.roomFor h.place.form ext ∧ ops = s.vals h srcs ∧ pp = s.lent h ∧
    s' = (s.markFired h.place.form).sent h.place.form lat ext ops pp

/-- Nothing earlier of the issuer is still on its way: what a release waits for (R160). -/
def State.drained (s : State) : Prop := s.opsOut s.cur = false

/-- The same of a send that is a release: nothing earlier of the issuer is on its way. The cycle that a timed issuer carries is its
region's, as the loop of cycles sets it (R160). -/
def State.releases (s : State) (h : Hd) (srcs : List Src) (lat ext : Nat) (ops : List Val) (pp : Bool) (s' : State) : Prop :=
  s.sends h srcs lat ext ops pp s' ∧ (h.place.form = .timed → s.cur.fired = s.curRegion.t) ∧ s'.drained

/-- Where a send that was translated at its firing is performed: a timed one at its unit, a block's in its commit, each as a release
with the operands it read and the place `key` it acts on (R161, R310). -/
def State.sentTo (s : State) (h : Hd) (ops : List Val) (key : Nat) (pp : Bool) : Prop :=
  s.cur.phase = (match h.place.form with | .timed => .perform | .block => .commit) ∧
    s.cur.ops = ops ++ [Val.clean (BitVec.ofNat 64 key)] ∧ key < 2 ^ 64 ∧ s.cur.pois = pp ∧ s.drained

/-- The state after the firing of an engine's command: a timed one is on its way to the engine, which accepts it six cycles on at the
earliest, a block's is kept for the commit (R174, R201, R244). -/
def State.commands (s : State) (i : Instr) (h : Hd) (srcs : List Src) : State :=
  match h.place.form with
  | .timed =>
    let s2 := s.tagged.expect .timed 8 1
    s2.requestAt (s.cycle + 6) (.unit 0) (s2.carry .perform (s.vals h srcs) (s.lent h) 0) i true
  | .block => (s.markFired .block).deferSend i (s.vals h srcs) (s.lent h)

/-- Where a command is accepted: a timed one at its engine, a block's by its commit, each as a release with the operands it read. -/
def State.accepts (s : State) (h : Hd) (ops : List Val) (pp : Bool) : Prop :=
  s.cur.phase = (match h.place.form with | .timed => .perform | .block => .commit) ∧ s.cur.ops = ops ∧ s.cur.pois = pp ∧ s.drained

/-- Where an access to a unit is performed: it arrives there, or its block commits and no earlier access of the task to that unit is
still out (R121, R246). -/
def State.atUnit (s : State) (ph : Phase) (place : ReqAt) : Prop :=
  ph = .perform ∨ ph = .commit ∧ (s.reqs.any fun r => r.who.sameAgent s.cur && r.place == place) = false

/-- The state in which an access performed at its tile takes effect: an untimed one finds a port and its plane free of what has claimed
them and takes them (R127). -/
def State.portTaken (s : State) (m : Form) (res : Bool) (tile : Nat) (c : Claim) (s' : State) : Prop :=
  if s.untimed m res then s.portFree tile c = true ∧ s' = s.takePort tile c true else s' = s

/-- The state after an atomic of the element of 2^sz bytes at `off`: the new value goes back, in a timed access of the issuing page with
the write half a cycle later (R141), the old one to `d`, and p[ST] says that the element was not poisoned (R142, R143). -/
def State.swaps (s : State) (i : Instr) (h : Hd) (d : Option Dst) (tile off sz : Nat) (ops : List Val) (st : BitVec 3) (new : Word)
    (f : Flags) (pp : Bool) : State :=
  let v : Val := { v := (s.sRead tile off sz false).v, p := pp }
  (s.atomicWrite i h.place.form tile off sz ops { v := new, p := pp }).scratchAnswer h.place.form
    { dsts := d.toList.map fun x => (x, v), latch := if d.isSome then some v else none,
      preds := if st = 0 then [] else [(st.toNat, false, pp)], flags := f } none

end Sys2Proof.Machine
end

