-- ==== Sys2Proof/Certificates/Slice0/Obligations.lean ====
section
/-! DEFINITION. The statements for the provers. Each says which rule of the spec it formalises; where one rests on a choice of the
model, it names the log entry. -/

open Sys2Proof Sys2Proof.Machine

/-! ### Integers, bit fields, constants, moves (R79 to R100) -/

/-- R86 to R88 and R79: the value that each two-operand, one-operand and three-operand form gives its destination and the latch,
with its latency and flags, for every destination form (l and z take the latch alone). -/
def Obligations.IntegerFormsGiveTheirResult : Prop :=
  ∀ (s : State) (h : Hd) (d : Dst) (a b c : Src), s.inFull h →
    exec (.nop h) s = .next (s.gives h 1 {}) ∧
    exec (.mov h d a) s = .next (s.from1 h d a 1 fun x => (x, 0)) ∧
    exec (.add h d a b) s = .next (s.from2 h d a b 1 fun x y => (x + y, 0)) ∧
    exec (.sub h d a b) s = .next (s.from2 h d a b 1 fun x y => (x - y, 0)) ∧
    exec (.mul h d a b) s = .next (s.from2 h d a b 3 fun x y => (x * y, 0)) ∧
    exec (.mulh h d a b) s = .next (s.from2 h d a b 3 fun x y => (BitVec.ofInt 64 (x.toInt * y.toInt / 2 ^ 64), 0)) ∧
    exec (.mulhu h d a b) s = .next (s.from2 h d a b 3 fun x y => (BitVec.ofNat 64 (x.toNat * y.toNat / 2 ^ 64), 0)) ∧
    exec (.mad h d a b c) s = .next (s.from3 h d a b c 3 fun x y z => (x * y + z, 0)) ∧
    exec (.min h d a b) s = .next (s.from2 h d a b 1 fun x y => (if x.toInt < y.toInt then x else y, 0)) ∧
    exec (.max h d a b) s = .next (s.from2 h d a b 1 fun x y => (if x.toInt < y.toInt then y else x, 0)) ∧
    exec (.minu h d a b) s = .next (s.from2 h d a b 1 fun x y => (if x.toNat < y.toNat then x else y, 0)) ∧
    exec (.maxu h d a b) s = .next (s.from2 h d a b 1 fun x y => (if x.toNat < y.toNat then y else x, 0)) ∧
    exec (.abs h d a) s = .next (s.from1 h d a 1 fun x =>
      (if x.toInt < 0 then -x else x, if x = 0x8000000000000000 then flagOF else 0)) ∧
    exec (.and h d a b) s = .next (s.from2 h d a b 1 fun x y => (x &&& y, 0)) ∧
    exec (.or h d a b) s = .next (s.from2 h d a b 1 fun x y => (x ||| y, 0)) ∧
    exec (.xor h d a b) s = .next (s.from2 h d a b 1 fun x y => (x ^^^ y, 0)) ∧
    exec (.andn h d a b) s = .next (s.from2 h d a b 1 fun x y => (x &&& ~~~y, 0)) ∧
    exec (.shl h d a b) s = .next (s.from2 h d a b 1 fun x y => (x <<< (y.toNat % 64), 0)) ∧
    exec (.shr h d a b) s = .next (s.from2 h d a b 1 fun x y => (x >>> (y.toNat % 64), 0)) ∧
    exec (.sar h d a b) s = .next (s.from2 h d a b 1 fun x y => (x.sshiftRight (y.toNat % 64), 0)) ∧
    exec (.rol h d a b) s = .next (s.from2 h d a b 1 fun x y => (x.rotateLeft (y.toNat % 64), 0)) ∧
    exec (.clz h d a) s = .next (s.from1 h d a 1 fun x =>
      (BitVec.ofNat 64 ((List.range 64).takeWhile fun i => !x.getLsbD (63 - i)).length, 0)) ∧
    exec (.ctz h d a) s = .next (s.from1 h d a 1 fun x =>
      (BitVec.ofNat 64 ((List.range 64).takeWhile fun i => !x.getLsbD i).length, 0)) ∧
    exec (.popc h d a) s = .next (s.from1 h d a 1 fun x =>
      (BitVec.ofNat 64 ((List.range 64).filter fun i => x.getLsbD i).length, 0)) ∧
    exec (.brev h d a) s = .next (s.from1 h d a 1 fun x => (x.reverse, 0))

/-- R87, R91, R92: immediate forms, bit fields and constants. A field of `bfx` or `bfi` starts at y[5:0] and is as long as y[12:6],
at most 64; what reaches beyond bit 63 is lost. -/
def Obligations.ImmediateAndFieldFormsGiveTheirResult : Prop :=
  ∀ (s : State) (h : Hd) (d : Dst) (a b c : Src) (imm : BitVec 16) (n : BitVec 6) (w j : BitVec 2), s.inFull h →
    exec (.addi h d a imm) s = .next (s.from1 h d a 1 fun x => (x + imm.signExtend 64, 0)) ∧
    exec (.andi h d a imm) s = .next (s.from1 h d a 1 fun x => (x &&& imm.signExtend 64, 0)) ∧
    exec (.ori h d a imm) s = .next (s.from1 h d a 1 fun x => (x ||| imm.zeroExtend 64, 0)) ∧
    exec (.xori h d a imm) s = .next (s.from1 h d a 1 fun x => (x ^^^ imm.zeroExtend 64, 0)) ∧
    exec (.shli h d a n) s = .next (s.from1 h d a 1 fun x => (x <<< n.toNat, 0)) ∧
    exec (.shri h d a n) s = .next (s.from1 h d a 1 fun x => (x >>> n.toNat, 0)) ∧
    exec (.sari h d a n) s = .next (s.from1 h d a 1 fun x => (x.sshiftRight n.toNat, 0)) ∧
    exec (.movi h d imm) s = .next (s.gives h 1 (ResW.one d { v := imm.signExtend 64, p := s.lent h } 0)) ∧
    exec (.movh h d imm) s = .next (s.gives h 1 (ResW.one d { v := imm.zeroExtend 64 <<< 48, p := s.lent h } 0)) ∧
    exec (.movk h d a imm j) s = .next (s.from1 h d a 1 fun x =>
      (x &&& ~~~(0xFFFF#64 <<< (16 * j.toNat)) ||| imm.zeroExtend 64 <<< (16 * j.toNat), 0)) ∧
    exec (.sext h d a w) s = .next (s.from1 h d a 1 fun x => ((x.setWidth (8 * 2 ^ w.toNat)).signExtend 64, 0)) ∧
    exec (.zext h d a w) s = .next (s.from1 h d a 1 fun x => ((x.setWidth (8 * 2 ^ w.toNat)).setWidth 64, 0)) ∧
    exec (.bfx h d a b) s = .next (s.from2 h d a b 1 fun x y =>
      (BitVec.ofNat 64 (x.toNat / 2 ^ (y.toNat % 64) % 2 ^ min 64 (y.toNat / 64 % 128)), 0)) ∧
    exec (.bfi h d a b c) s = .next (s.from3 h d a b c 1 fun x y z => (alBfi x y z, 0)) ∧
    (∀ x y z : Word, ∀ i < 64, (alBfi x y z).getLsbD i =
      if y.toNat % 64 ≤ i ∧ i < y.toNat % 64 + min 64 (y.toNat / 64 % 128) then x.getLsbD (i - y.toNat % 64) else z.getLsbD i)

/-- R89, R90: `div`, `rem`, `divu` and `remu` give quotient and remainder with the flags DZ and OF, 32 cycles later, where the PE's
divider is free (R67; a timed list that violates it is refused by the loader); `adc` and `sbb` give sum or difference and the carry or
borrow, which goes to the predicate that it came from. -/
def Obligations.DivideAndCarryGiveTheirResult : Prop :=
  (∀ (s : State) (h : Hd) (d : Dst) (a b : Src), s.inFull h →
    (h.place.form = .block → tabGet 0 s.curBlk.divs s.cur.pe ≤ s.cycle) →
    let x := s.src h [a, b] a
    let y := s.src h [a, b] b
    let m := h.place.form
    let s1 := if m = .block then (s.markFired m).modBlk fun bl => { bl with divs := tabPut bl.divs s.cur.pe (s.cycle + 32) } else s
    let out (op : Nat) (v : Word) (f : Flags) : Out :=
      .next ((s1.complete m 32 true (ResW.one d { v := v, p := s.lent h || x.p || y.p } f)).noteDiv m op [x, y])
    (exec (.div h d a b) s =
      if y.v = 0 then out 0 (-1) flagDZ
      else if x.v = 0x8000000000000000 ∧ y.v.toInt = -1 then out 0 0x8000000000000000 flagOF
      else out 0 (BitVec.ofInt 64 (x.v.toInt.tdiv y.v.toInt)) 0) ∧
    (exec (.rem h d a b) s =
      if y.v = 0 then out 2 x.v flagDZ
      else if x.v = 0x8000000000000000 ∧ y.v.toInt = -1 then out 2 0 flagOF
      else out 2 (BitVec.ofInt 64 (x.v.toInt - x.v.toInt.tdiv y.v.toInt * y.v.toInt)) 0) ∧
    (exec (.divu h d a b) s = if y.v = 0 then out 1 (-1) flagDZ else out 1 (x.v / y.v) 0) ∧
    (exec (.remu h d a b) s = if y.v = 0 then out 3 x.v flagDZ else out 3 (x.v % y.v) 0)) ∧
  (∀ (s : State) (h : Hd) (d : Dst) (a b : Src) (cp : BitVec 3), s.inFull h →
    let x := s.src h [a, b] a
    let y := s.src h [a, b] b
    let cin := if cp = 0 then (false, false) else s.readPred h.place.form cp.toNat
    let c := if cin.1 then 1 else 0
    let p := s.lent h || x.p || y.p || cin.2
    let out (v : Word) (cout : Bool) : Out :=
      .next (s.gives h 1 { dsts := [(d, { v := v, p := p })], latch := some { v := v, p := p },
                           preds := if cp = 0 then [] else [(cp.toNat, cout, p)] })
    exec (.adc h d a b cp) s = out (x.v + y.v + BitVec.ofNat 64 c) (decide (2 ^ 64 ≤ x.v.toNat + y.v.toNat + c)) ∧
    exec (.sbb h d a b cp) s = out (x.v - y.v - BitVec.ofNat 64 c) (decide (x.v.toNat < y.v.toNat + c)))

/-- R96 to R99: comparisons, predicate logic, predicates as a byte, and selection. -/
def Obligations.PredicateInstructionsGiveTheirResult : Prop :=
  ∀ (s : State) (h : Hd) (d : Dst) (a b : Src) (pd pa pb q : BitVec 3) (imm : BitVec 16) (cond : Cond) (f : BitVec 4) (neg : Bool),
    s.inFull h →
    let m := h.place.form
    let x := s.src h [a, b] a
    let y := s.src h [a, b] b
    let one (c p : Bool) : Out := .next (s.gives h 1 { latch := some { v := if c then 1 else 0, p := p }, preds := [(pd.toNat, c, p)] })
    exec (.cmp h pd a b cond) s = one (condHolds cond x.v y.v) (s.lent h || x.p || y.p) ∧
    (let z := s.src h [a] a
     exec (.cmpi h pd a imm cond) s = one (condHolds cond z.v (imm.signExtend 64)) (s.lent h || z.p)) ∧
    (∀ v w : Word, condHolds cond v w = match cond with
      | .eq => decide (v = w)
      | .ne => decide (v ≠ w)
      | .lt => decide (v.toInt < w.toInt)
      | .le => decide (v.toInt ≤ w.toInt)
      | .gt => decide (v.toInt > w.toInt)
      | .ge => decide (v.toInt ≥ w.toInt)
      | .ltu => decide (v.toNat < w.toNat)
      | .leu => decide (v.toNat ≤ w.toNat)
      | .gtu => decide (v.toNat > w.toNat)
      | .geu => decide (v.toNat ≥ w.toNat)
      | .tst => decide (v &&& w ≠ 0)
      | .ntst => decide (v &&& w = 0)) ∧
    (let u := s.readPred m pa.toNat
     let w := s.readPred m pb.toNat
     exec (.plog h pd pa pb f) s = one (f.getLsbD (2 * u.1.toNat + w.1.toNat)) (s.lent h || u.2 || w.2)) ∧
    (let ps := (List.range 7).map fun i => s.readPred m (i + 1)
     exec (.pmovGet h d) s = .next (s.gives h 1 (ResW.one d
       { v := BitVec.ofNat 64 (1 + ((List.range 7).map fun i => if (ps.getD i (false, false)).1 then 2 ^ (i + 1) else 0).sum)
         p := s.lent h || ps.any Prod.snd } 0))) ∧
    (let z := s.src h [a] a
     exec (.pmovPut h a) s = .next (s.gives h 1
       { allPreds := some (z.v.setWidth 8 &&& 0xFE, if s.lent h || z.p then 0xFE else 0) })) ∧
    (let u := s.readPred m q.toNat
     let z := if u.1 != neg then x else y
     exec (.sel h d a b neg q) s = .next (s.gives h 1 (ResW.one d { v := z.v, p := s.lent h || z.p || u.2 } 0)))

/-- R80, R81, R93 to R95, R100: constants of another PE, identifiers, saturating lanes, the generator, the CRC step and the prefix
count. -/
def Obligations.ConstantsIdentifiersAndCountsGiveTheirResult : Prop :=
  ∀ (s : State) (h : Hd) (d : Dst) (a b : Src) (ty : ITy) (n4 id : BitVec 4) (j n : BitVec 2), s.inFull h →
    exec (.addsat h d a b ty) s = .next (s.from2 h d a b 1 fun x y => laneInt2 ty true (· + ·) x y) ∧
    exec (.subsat h d a b ty) s = .next (s.from2 h d a b 1 fun x y => laneInt2 ty true (· - ·) x y) ∧
    exec (.cbrng h d a b) s = .next (s.from2 h d a b 8 fun x y => (BitVec.ofNat 64 (cbrng x.toNat y.toNat), 0)) ∧
    exec (.crc h d a b n) s = .next (s.from2 h d a b 3 fun x y =>
      (BitVec.ofNat 64 (((List.range (2 ^ n.toNat)).map fun k => y.toNat / 256 ^ k % 256).foldl crcByte (x.toNat % 2 ^ 32)), 0)) ∧
    exec (.pcnt h d a b) s = .next (s.from2 h d a b 1 fun x y =>
      (BitVec.ofNat 64 ((List.range (min y.toNat 64)).filter fun i => x.getLsbD i).length, 0)) ∧
    (let k := match h.place.form with
       | .timed => (s.pe (s.curTile * 16 + n4.toNat)).k
       | .block => s.curBlk.k
     let v := k.getD j.toNat Val.zero
     exec (.kget h d n4 j) s = .next (s.gives h 1 (ResW.one d { v := v.v, p := s.lent h || v.p } 0))) ∧
    (h.place.form = .timed → id.toNat ≤ 8 →
      let r := s.curRegion
      let pos (die x y pe : Nat) : Nat := die * 2 ^ 14 + x * 2 ^ 9 + y * 2 ^ 4 + pe
      let v := match id.toNat with
        | 0 => r.t % (if r.period = 0 then 1 else r.period)
        | 1 => r.t / (if r.period = 0 then 1 else r.period) - stageOf h
        | 2 => s.stc.toNat
        | 3 => pos s.cur.die s.cur.x s.cur.y s.cur.pe
        | 4 => pos 0 (s.cur.x - 4 * r.px) (s.cur.y - 4 * r.py) s.cur.pe
        | 5 => r.n
        | 6 => s.cur.ctx
        | 7 => 8 * r.period + (r.stages - 1)
        | _ => s.tb.time
      exec (.getid h d id) s = .next (s.gives h 1 (ResW.one d { v := BitVec.ofNat 64 v, p := false } 0))) ∧
    (h.place.form = .block → (id = 2 ∨ id = 3 ∨ id = 6 ∨ id = 8) →
      let v := match id.toNat with
        | 2 => s.stc.toNat
        | 3 => s.cur.die * 2 ^ 14 + s.cur.x * 2 ^ 9 + s.cur.y * 2 ^ 4
        | 6 => s.cur.ctx
        | _ => s.tb.time
      exec (.getid h d id) s = .next (s.gives h 1 (ResW.one d { v := BitVec.ofNat 64 v, p := false } 0)))

/-! ### Vector lanes, narrow formats, the side band (R101 to R118) -/

/-- R20 to R24, R102, R108, R109: lane i of the result is the exact result of the lanes i rounded once in the mode in force, with
the flags of all lanes. `sumFp`, `mulFp`, `divF` and the rest are the exact operations of R18 to R24 with their rounding.
Where a clause goes through what the rules leave open, it shows the model's choice (log entries 10 and 11). -/
def Obligations.VectorFloatArithmeticGivesItsResult : Prop :=
  ∀ (s : State) (h : Hd) (d : Dst) (a b c : Src) (t : FTy) (x : Bool), s.inFull h →
    let rm := s.rmOf h.place.form
    let w := t.width
    let prod (u v : Word) (i : Nat) : Fp × Flags := mulFp (fpLane t u i) (fpLane t v i)
    let sum (l : List Fp) (f : Flags) : Nat × Flags := ((sumFp t rm x l).1, (sumFp t rm x l).2 ||| f)
    exec (.vadd h d a b (.flt t) x) s = .next (s.from2 h d a b 4 fun u v => mapLanes w fun i => sum [fpLane t u i, fpLane t v i] 0) ∧
    exec (.vsub h d a b (.flt t) x) s = .next (s.from2 h d a b 4 fun u v =>
      mapLanes w fun i => sum [fpLane t u i, (fpLane t v i).negate] 0) ∧
    exec (.vmul h d a b (.flt t) x) s = .next (s.from2 h d a b 4 fun u v => mapLanes w fun i => sum [(prod u v i).1] (prod u v i).2) ∧
    exec (.vfma h d a b c t x) s = .next (s.from3 h d a b c 4 fun u v z =>
      mapLanes w fun i => sum [(prod u v i).1, fpLane t z i] (prod u v i).2) ∧
    exec (.vfms h d a b c t x) s = .next (s.from3 h d a b c 4 fun u v z =>
      mapLanes w fun i => sum [(prod u v i).1, (fpLane t z i).negate] (prod u v i).2) ∧
    exec (.vfnma h d a b c t x) s = .next (s.from3 h d a b c 4 fun u v z =>
      mapLanes w fun i => sum [(prod u v i).1.negate, fpLane t z i] (prod u v i).2) ∧
    exec (.vdiv h d a b t x) s = .next (s.from2 h d a b 12 fun u v => mapLanes w fun i => divF t rm x (fpLane t u i) (fpLane t v i)) ∧
    exec (.vsqrt h d a t x) s = .next (s.from1 h d a 12 fun u => mapLanes w fun i => sqrtF t rm x (fpLane t u i)) ∧
    exec (.vrcp h d a t x) s = .next (s.from1 h d a 12 fun u => mapLanes w fun i => divF t rm x (.fin false 1 0) (fpLane t u i)) ∧
    exec (.vrsq h d a t x) s = .next (s.from1 h d a 12 fun u => mapLanes w fun i => rsqF t rm x (fpLane t u i)) ∧
    exec (.vexp2 h d a t x) s = .next (s.from1 h d a 12 fun u => mapLanes w fun i => exp2F t rm x (fpLane t u i)) ∧
    exec (.vlog2 h d a t x) s = .next (s.from1 h d a 12 fun u => mapLanes w fun i => log2F t rm x (fpLane t u i)) ∧
    exec (.vtanh h d a t x) s = .next (s.from1 h d a 12 fun u => mapLanes w fun i => tanhF t rm x (fpLane t u i)) ∧
    exec (.vscale h d a b t x) s = .next (s.from2 h d a b 4 fun u v =>
      mapLanes w fun i => scaleF t rm x (fpLane t u i) (toSigned w (laneBits w v i))) ∧
    exec (.vabs h d a (.flt t) x) s = .next (s.from1 h d a 4 fun u => mapLanes w fun i => (laneBits w u i % 2 ^ (w - 1), 0)) ∧
    exec (.vneg h d a (.flt t) x) s = .next (s.from1 h d a 4 fun u => mapLanes w fun i => (laneBits w u i ^^^ 2 ^ (w - 1), 0)) ∧
    exec (.vcpsgn h d a b t) s = .next (s.from2 h d a b 4 fun u v => ((mapLanes w fun i =>
      (laneBits w u i % 2 ^ (w - 1) + 2 ^ (w - 1) * (laneBits w v i / 2 ^ (w - 1)), 0)).1, 0)) ∧
    exec (.vclass h d a t) s = .next (s.from1 h d a 4 fun u => ((mapLanes w fun i => (classF t (laneBits w u i), 0)).1, 0)) ∧
    (∀ mode : BitVec 3, exec (.vrnd h d a mode t) s = .next (s.from1 h d a 4 fun u =>
      mapLanes w fun i => rintF t (rndMode mode rm) (laneBits w u i)))

/-- R102, R103, R106, R110: lane i of the result is the exact result of the lanes i, wrapped to the lane or, where the
entry asks for it, clamped with SAT. -/
def Obligations.VectorIntegerArithmeticGivesItsResult : Prop :=
  ∀ (s : State) (h : Hd) (d : Dst) (a b c : Src) (t : ITy) (x : Bool) (n : BitVec 8), s.inFull h →
    let w := t.width
    let l (u : Word) (i : Nat) : Int := intLane t u i
    exec (.vadd h d a b (.int t) x) s = .next (s.from2 h d a b 1 fun u v => mapLanes w fun i => intResult t x (l u i + l v i)) ∧
    exec (.vsub h d a b (.int t) x) s = .next (s.from2 h d a b 1 fun u v => mapLanes w fun i => intResult t x (l u i - l v i)) ∧
    exec (.vmul h d a b (.int t) x) s = .next (s.from2 h d a b 3 fun u v => mapLanes w fun i => intResult t x (l u i * l v i)) ∧
    exec (.vmad h d a b c t x) s = .next (s.from3 h d a b c 3 fun u v z =>
      mapLanes w fun i => intResult t x (l u i * l v i + l z i)) ∧
    exec (.vabs h d a (.int t) x) s = .next (s.from1 h d a 1 fun u =>
      mapLanes w fun i => intResult t x (if l u i < 0 then -l u i else l u i)) ∧
    exec (.vneg h d a (.int t) x) s = .next (s.from1 h d a 1 fun u => mapLanes w fun i => intResult t x (0 - l u i)) ∧
    exec (.vmulh h d a b t) s = .next (s.from2 h d a b 3 fun u v =>
      ((mapLanes w fun i => (wrapInt w (l u i * l v i / (2 ^ w : Nat)), 0)).1, 0)) ∧
    exec (.vavg h d a b t) s = .next (s.from2 h d a b 1 fun u v => ((mapLanes w fun i => (wrapInt w ((l u i + l v i + 1) / 2), 0)).1, 0)) ∧
    exec (.vshl h d a b t) s = .next (s.from2 h d a b 1 fun u v =>
      ((mapLanes w fun i => (laneBits w u i <<< (laneBits w v i % w), 0)).1, 0)) ∧
    exec (.vshr h d a b t) s = .next (s.from2 h d a b 1 fun u v =>
      ((mapLanes w fun i => (laneBits w u i >>> (laneBits w v i % w), 0)).1, 0)) ∧
    exec (.vsar h d a b t) s = .next (s.from2 h d a b 1 fun u v =>
      ((mapLanes w fun i => (wrapInt w (toSigned w (laneBits w u i) / (2 ^ (laneBits w v i % w) : Nat)), 0)).1, 0)) ∧
    exec (.vmin h d a b (.int t)) s = .next (s.from2 h d a b 1 fun u v =>
      mapLanes w fun i => intResult t false (if l u i < l v i then l u i else l v i)) ∧
    exec (.vmax h d a b (.int t)) s = .next (s.from2 h d a b 1 fun u v =>
      mapLanes w fun i => intResult t false (if l u i < l v i then l v i else l u i)) ∧
    exec (.vsatn h d a n t) s = .next (s.from1 h d a 1 fun u => mapLanes w fun i =>
      let lo := laneMin (tySigned t) n.toNat
      let hi := laneMax (tySigned t) n.toNat
      if l u i < lo then (wrapInt w lo, flagSAT) else if hi < l u i then (wrapInt w hi, flagSAT) else (wrapInt w (l u i), 0)) ∧
    exec (.vpack h d a b t x) s = .next (s.from2 h d a b 1 fun u v => mapLanes (w / 2) fun i =>
      let p := if i < 64 / w then l u i else l v (i - 64 / w)
      if x then satInt (tySigned t) (w / 2) p else (wrapInt (w / 2) p, 0))

/-- R102 to R107, R111: bitwise, comparing, selecting, moving and converting instructions and the horizontal ones, for every lane
type.
Where a clause goes through what the rules leave open, it shows the model's choice (log entry 64). -/
def Obligations.VectorLaneMovesGiveTheirResult : Prop :=
  ∀ (s : State) (h : Hd) (d : Dst) (a b c : Src) (t u : Ty) (f : FTy) (cond : Cond) (x hi : Bool) (j : BitVec 3), s.inFull h →
    let rm := s.rmOf h.place.form
    let w := t.width
    let n := 64 / w
    let lat := if t.isFloat then 4 else 1
    exec (.vand h d a b t) s = .next (s.from2 h d a b lat fun p q => (p &&& q, 0)) ∧
    exec (.vor h d a b t) s = .next (s.from2 h d a b lat fun p q => (p ||| q, 0)) ∧
    exec (.vxor h d a b t) s = .next (s.from2 h d a b lat fun p q => (p ^^^ q, 0)) ∧
    exec (.vmin h d a b (.flt f)) s = .next (s.from2 h d a b 4 fun p q =>
      mapLanes f.width fun i => minmaxFp f false (laneBits f.width p i) (laneBits f.width q i)) ∧
    exec (.vmax h d a b (.flt f)) s = .next (s.from2 h d a b 4 fun p q =>
      mapLanes f.width fun i => minmaxFp f true (laneBits f.width p i) (laneBits f.width q i)) ∧
    exec (.vclamp h d a b c t) s = .next (s.from3 h d a b c lat fun p q r =>
      let m := vMinMax t true p q
      ((vMinMax t false m.1 r).1, m.2 ||| (vMinMax t false m.1 r).2)) ∧
    exec (.vcmp h d a b cond t) s = .next (s.from2 h d a b lat fun p q => mapLanes w fun i =>
      let r : Bool × Flags := match t with
        | .int t => (icond t cond (laneBits w p i) (laneBits w q i), 0)
        | .flt t => fcond cond (decodeF t (laneBits w p i)) (decodeF t (laneBits w q i))
      (if r.1 then 2 ^ w - 1 else 0, r.2)) ∧
    exec (.vsel h d a b c t) s = .next (s.from3 h d a b c lat fun p q r =>
      ((mapLanes w fun i => (if laneBits w r i ≠ 0 then laneBits w p i else laneBits w q i, 0)).1, 0)) ∧
    exec (.vshuf h d a b c t) s = .next (s.from3 h d a b c lat fun p q r => ((mapLanes w fun i =>
      let e := r.bits (8 * i) 8
      (if e.testBit 7 ∨ 2 * n ≤ e % 16 then 0 else if e % 16 < n then laneBits w p (e % 16) else laneBits w q (e % 16 - n), 0)).1, 0)) ∧
    exec (.vbcast h d a j t) s = .next (s.from1 h d a lat fun p => ((mapLanes w fun _ => (laneBits w p j.toNat, 0)).1, 0)) ∧
    exec (.vins h d a b j t) s = .next (s.from2 h d a b lat fun p q =>
      ((mapLanes w fun i => (if i = j.toNat then laneBits w q 0 else laneBits w p i, 0)).1, 0)) ∧
    exec (.vext h d a j t) s = .next (s.from1 h d a lat fun p => (match t with
      | .int t => BitVec.ofInt 64 (intLane t p j.toNat)
      | .flt t => BitVec.ofNat 64 (laneBits t.width p j.toNat), 0)) ∧
    exec (.vunpk h d a hi t) s = .next (s.from1 h d a lat fun p => mapLanes (2 * w) fun i =>
      let k := (if hi then n / 2 else 0) + i
      match t with
      | .int t => (wrapInt (2 * t.width) (intLane t p k), 0)
      | .flt t => convF (wideFTy t) .rne false (fpLane t p k)) ∧
    exec (.vcvt h d a u t x) s = .next (s.from1 h d a 4 fun p => mapLanes u.width fun i =>
      if i < n then cvtLane t u rm x p i else (0, 0)) ∧
    exec (.vsum h d a t x) s = .next (s.from1 h d a lat fun p => vSum t rm x p) ∧
    exec (.vsumw h d a t x) s = .next (s.from1 h d a lat fun p => vSumw t rm x p) ∧
    exec (.vmaxh h d a t) s = .next (s.from1 h d a lat fun p => vHoriz t true p) ∧
    exec (.vminh h d a t) s = .next (s.from1 h d a lat fun p => vHoriz t false p) ∧
    exec (.vdot h d a b c t x) s = .next (s.from3 h d a b c (if t.isFloat then 4 else 3) fun p q r => vDot t rm x p q r)

/-- R112 to R118: block exponents and elements, the side band byte that leaves and enters with a beat, and packet headers. -/
def Obligations.NarrowAndSideBandGiveTheirResult : Prop :=
  ∀ (s : State) (h : Hd) (d : Dst) (a b : Src) (sf : Sbf) (t : FTy) (x f32 : Bool) (i : BitVec 3), s.inFull h →
    let rm := s.rmOf h.place.form
    let side : Byte := match h.place.form with
      | .timed => (s.routeIn s.curTile i.toNat).sb
      | .block => 0
    exec (.bexp h d a sf t x) s = .next (s.from1 h d a 4 fun u => (BitVec.ofNat 64 ((sbfExps sf x (fpLane t u 0)).1 * 256
      + (sbfExps sf x (fpLane t u 0)).2.1), (sbfExps sf x (fpLane t u 0)).2.2)) ∧
    exec (.benc h d a b sf t x) s = .next (s.from2 h d a b 4 fun u v => nfBenc sf t x u v) ∧
    exec (.bdec h d a b sf t x) s = .next (s.from2 h d a b 4 fun u v => mapLanes t.width fun k =>
      convF t rm x (sbfVal sf (v.toNat % 256) (v.toNat / 256 % 256) (u.bits (sbfWidth sf * k) (sbfWidth sf)))) ∧
    (let u := s.src h [a, b] a
     let v := s.src h [a, b] b
     let p := s.lent h || u.p || v.p
     exec (.scput h i a b f32) s = .next (s.gives h 4
       { dsts := [(.route i, { v := u.v, p := p })], latch := some { v := u.v, p := p }, side := (nfSideByte f32 v.v).1,
         flags := (nfSideByte f32 v.v).2 })) ∧
    (let u := s.src h [.route i] (.route i)
     exec (.scget h d i f32) s = .next (s.gives h 4 (ResW.one d { v := nfSideVal f32 side, p := s.lent h || u.p } 0))) ∧
    (let u := s.src h [.route i, b] (.route i)
     let v := s.src h [.route i, b] b
     exec (.scpair h d i b) s = .next (s.gives h 4
       (ResW.one d { v := BitVec.ofNat 64 (v.v.toNat % 2 ^ 56 * 256 + side.toNat), p := s.lent h || u.p || v.p } 0))) ∧
    exec (.hdrw h d a b) s = .next (s.from2 h d a b 4 fun u v =>
      (BitVec.ofNat 64 (v.toNat % 2 ^ 32 * 2 ^ 32 + u.toNat % 256), 0)) ∧
    exec (.hdrrFmt h d a) s = .next (s.from1 h d a 4 fun u => (BitVec.ofNat 64 (u.toNat % 256), 0)) ∧
    exec (.hdrrScale h d a) s = .next (s.from1 h d a 4 fun u => (BitVec.ofNat 64 (u.toNat / 2 ^ 32), 0))

/-! ### Spaces S, P and D (R119 to R167) -/

/-- R121, R127: where the seven loads and stores of space S go when they fire at the address `va`: a timed access to the issuing page is
performed in cycle t + h + 2 at its plane; one to another page is a request, whose result is due 2h + 5 cycles from firing; a load of a
block is a request; a store of a block is kept for the commit. A 33rd external result faults a timed region and holds a block (R66). The
latch of a line store takes its first beat when a load's would come (R132).
Where a clause goes through what the rules leave open, it shows the model's choice (log entry 5). -/
def Obligations.ScratchAccessesGoToTheirTile : Prop :=
  ∀ (s : State) (h : Hd) (d : Dst) (ld : LineDst) (ls : LineSrc) (a b v : Src) (col sx half : Bool) (sz : BitVec 2), s.inFull h →
    let m := h.place.form
    let goes (i : Instr) (srcs : List Src) (va : Word) (n : Nat) (res store : Bool) (after : Nat → State → State) : Prop :=
      ∀ tile, s.sTile m va = .ok tile → s.sAway m va = false →
        let ops := s.vals h srcs
        let dist := s.distTo tile
        let s1 := s.markFired m
        match m with
        | .timed =>
          if s.samePage tile then
            exec i s = .next (after tile
              (s.addAcc (s.carry .perform ops (s.lent h) dist) i tile (s.curRegion.t + dist + 2) (.plane (sOff va / 2 ^ 14))))
          else if n ≠ 0 ∧ 32 < s.extOut .timed + n then exec i s = .next (after tile (s.raise .timed ftTime))
          else
            let t1 := s.tagged
            let s2 := if res then t1.addPend (t1.firedAt + 2 * dist + 4) false true false [.waiting n] else t1
            exec i s = .next (after tile (s2.request (.tile tile) (s2.carry .perform ops (s.lent h) dist) i (!res) 0 (s.sHandle m va)))
        | .block =>
          if store then exec i s = .next (after tile (s1.deferStore h i ops (s.lent h)))
          else if n ≠ 0 ∧ 32 < s.extOut .block + n then exec i s = .next { s with held := true }
          else
            let s2 := s1.tagged.expect .block 0 n
            exec i s = .next (after tile (s2.request (.tile tile) (s2.carry .perform ops (s.lent h) 0) i false 0 (s.sHandle m va)))
    let id_ : Nat → State → State := fun _ t => t
    let elem (va : Word) : Prop := elemAligned col sz.toNat (sOff va) = true
    let line (va : Word) : Prop := lineAligned col (sOff va) = true
    (let va := (s.src h [a] a).v
     (elem va → goes (.ld h d a col sz sx) [a] va 1 true false id_) ∧
     (line va → goes (.ldl h ld a col) [a] va 8 true false id_) ∧
     (line va → goes (.ldt h ld a col half) [a] va 8 true false id_)) ∧
    (let va := (s.src h [a, b] a).v
     elem va → goes (.st h a b col sz) [a, b] va 0 false true id_) ∧
    (let srcs := a :: lineSrcs ls
     let x := s.src h srcs a
     let beat := (s.vals h srcs).getD 1 Val.zero
     let w : Val := { v := beat.v, p := beat.p || x.p || s.lent h }
     line x.v → goes (.stl h a ls col) srcs x.v 0 false true fun tile t => match m with
       | .timed => t.addPend (t.firedAt + 2 * t.distTo tile + 4) false false true [.latch w]
       | .block => t.delay.2.modBlk fun k => blkPut k t.cur.idx (t.cycle + 5 + t.delay.1) { latch := some w }) ∧
    (let va := (s.src h [a, b] a).v + (s.src h [a, b] b).v * BitVec.ofNat 64 (2 ^ sz.toNat)
     elem va → goes (.ldx h d a b col sz sx) [a, b] va 1 true false id_) ∧
    (let va := (s.src h [v, a, b] a).v + (s.src h [v, a, b] b).v * BitVec.ofNat 64 (2 ^ sz.toNat)
     elem va → goes (.stx h v a b col sz) [v, a, b] va 0 false true id_)

/-- R130 to R132, R123, R129: what each of them does at its tile, when it is performed: a load answers the element, sign-extended
where it is asked for, the line, or the line with each group of four words transposed; a store writes its bytes with the poison of its
value, its address operands and its predicate. An untimed access finds a port and its plane free and takes them (R127). The commit of a
block issues its stores to their tiles (R246). -/
def Obligations.ScratchAccessesTakeEffect : Prop :=
  ∀ (s s' : State) (h : Hd) (d : Dst) (ld : LineDst) (ls : LineSrc) (a b v : Src) (col sx half : Bool) (sz : BitVec 2) (x y z : Val)
      (bs : List Val) (tile : Nat) (pp : Bool),
    let m := h.place.form
    let ext (u : Val) : Word := if sx then (u.v.setWidth (8 * 2 ^ sz.toNat)).signExtend 64 else u.v
    let line (ws : List Val) (p : Bool) : Out :=
      let beats := (beatsOf ws).map fun w => { w with p := w.p || p }
      .next (s'.scratchResult m { dsts := (lineDsts ld).zip beats, latch := beats.head? })
    let at_ (ops : List Val) (va : Word) : Prop :=
      s.arrives .perform ops pp ∧ s.sTile m va = .ok tile ∧ s.sAway m va = false ∧ s.portTaken m true tile (.plane (sOff va / 2 ^ 14)) s'
    (at_ [x] x.v →
      (let u := s.sRead tile (sOff x.v) sz.toNat col
       exec (.ld h d a col sz sx) s = .next (s'.scratchResult m (ResW.one d { v := ext u, p := u.p || (pp || x.p) } 0))) ∧
      exec (.ldl h ld a col) s = line (s.sLineWords tile (sOff x.v) col) (pp || x.p) ∧
      exec (.ldt h ld a col half) s = line (transposeLine (if half then 2 else 1) (s.sLineWords tile (sOff x.v) col)) (pp || x.p)) ∧
    (at_ [x, y] x.v →
      exec (.st h a b col sz) s = .next (s'.sWrite tile (sOff x.v) sz.toNat col { v := y.v, p := pp || x.p || y.p })) ∧
    (at_ (x :: bs) x.v →
      exec (.stl h a ls col) s = .next (s'.sWriteLine tile (sOff x.v) col (bs.map fun u => { u with p := u.p || x.p || pp }))) ∧
    (let va := x.v + y.v * BitVec.ofNat 64 (2 ^ sz.toNat)
     at_ [x, y] va →
      let u := s.sRead tile (sOff va) sz.toNat col
      exec (.ldx h d a b col sz sx) s = .next (s'.scratchResult m (ResW.one d { v := ext u, p := u.p || (pp || x.p || y.p) } 0))) ∧
    (let va := y.v + z.v * BitVec.ofNat 64 (2 ^ sz.toNat)
     at_ [x, y, z] va →
      exec (.stx h v a b col sz) s = .next (s'.sWrite tile (sOff va) sz.toNat col { v := x.v, p := pp || x.p || y.p || z.p })) ∧
    (let out (i : Instr) (va : Word) : Prop := s.sTile m va = .ok tile → s.sAway m va = false →
       exec i s = .next (s.request (.tile tile) { s.cur with phase := .perform } i true 0 (va.bits 35 8))
     m = .block → s.cur.phase = .commit →
      out (.st h a b col sz) (opn s.cur.ops 0).v ∧ out (.stl h a ls col) (opn s.cur.ops 0).v ∧
      out (.stx h v a b col sz) ((opn s.cur.ops 1).v + (opn s.cur.ops 2).v * BitVec.ofNat 64 (2 ^ sz.toNat)))

/-- R147, R149, R165, R166: an access to space P leaves for the partition its handle names, carrying the byte's key; a store, `vst`
and `vrcl` of a block are kept for the commit.
Where a clause goes through what the rules leave open, it shows the model's choice (log entry 5). -/
def Obligations.PartitionAccessesGoToTheirPartition : Prop :=
  ∀ (s : State) (h : Hd) (d : Dst) (a b v : Src) (sx : Bool) (sz : BitVec 2) (scp : BitVec 3), s.inFull h →
    let m := h.place.form
    let goes (i : Instr) (srcs : List Src) (va : Word) (n align : Nat) (store vers : Bool) : Prop :=
      ∀ p off, s.partOf s.cur.ctx vers va = .ok (p, off) → off % align = 0 → (m = .timed → store = true → s.pFull = false) →
        s.roomFor m (if m = .block ∧ store then 0 else n) →
        let ops := s.vals h srcs ++ [Val.clean (BitVec.ofNat 64 (p * 2 ^ 21 + off))]
        let s1 := s.markFired m
        if m = .block ∧ store then exec i s = .next (s1.deferStore h i ops (s.lent h))
        else
          let s2 := s1.tagged.expect m (if p / 48 = s.cur.die then 24 else 160) n
          exec i s = .next (s2.request (.part p) (s2.carry .perform ops (s.lent h) 0) i store)
    goes (.ldp h d a sz sx) [a] (s.src h [a] a).v 1 (2 ^ sz.toNat) false false ∧
    goes (.stp h a b sz) [a, b] (s.src h [a, b] a).v 0 (2 ^ sz.toNat) true false ∧
    goes (.pldx h d a b sz sx) [a, b] ((s.src h [a, b] a).v + (s.src h [a, b] b).v * BitVec.ofNat 64 (2 ^ sz.toNat)) 1 (2 ^ sz.toNat)
      false false ∧
    goes (.pstx h v a b sz) [v, a, b] ((s.src h [v, a, b] a).v + (s.src h [v, a, b] b).v * BitVec.ofNat 64 (2 ^ sz.toNat)) 0
      (2 ^ sz.toNat) true false ∧
    goes (.vst h d a b scp) [a, b] (s.src h [a, b] a).v 1 32 true true ∧
    ((s.src h [a, b] b).v.bits 32 32 = 0 →
      goes (.vld h d a b scp) [a, b] (s.src h [a, b] a).v 1 32 false true ∧
      goes (.vrcl h a b scp) [a, b] (s.src h [a, b] a).v 0 32 true true)

/-- R149, R165, R166: what each of them does at its partition. `vld` of version V answers slot (V − 1) mod 4 once V is published and
not yet recalled; `vst` writes slot NP mod 4 and publishes it; `vrcl` raises RC to V. A block's commit issues its plain stores and
performs `vst` and `vrcl` itself. -/
def Obligations.PartitionAccessesTakeEffect : Prop :=
  ∀ (s : State) (h : Hd) (d : Dst) (a b v : Src) (sx : Bool) (sz : BitVec 2) (scp : BitVec 3) (x y z k : Val) (pp : Bool),
    let m := h.place.form
    let key := k.v.toNat
    let ext (u : Val) : Word := if sx then (u.v.setWidth (8 * 2 ^ sz.toNat)).signExtend 64 else u.v
    let u := s.pdb.load 8 key (2 ^ sz.toNat)
    let w := s.versOf key
    (s.arrives .perform [x, k] pp →
      exec (.ldp h d a sz sx) s = .next (s.answer m (ResW.one d { v := ext u, p := u.p || (pp || x.p) } 0))) ∧
    (let out (i : Instr) : Prop := exec i s = .next (s.request (.part (keptAt s.cur.ops / 2 ^ 21)) { s.cur with phase := .perform } i true)
     s.cur.phase = .commit → out (.stp h a b sz) ∧ out (.pstx h v a b sz)) ∧
    (s.arrives .perform [x, y, k] pp →
      exec (.pldx h d a b sz sx) s = .next (s.answer m (ResW.one d { v := ext u, p := u.p || (pp || x.p || y.p) } 0)) ∧
      exec (.stp h a b sz) s = .next { s with pdb := s.pdb.storeVal 8 key (2 ^ sz.toNat) { v := y.v, p := pp || x.p || y.p } } ∧
      (let n := y.v.toNat
       let q := s.pdb.load 8 (key + 8 * ((n - 1) % 4)) 8
       w.rc < n → n ≤ w.np → q.p = false →
        exec (.vld h d a b scp) s = .next (s.answer m (ResW.one d { v := q.v, p := pp || x.p || y.p } 0)))) ∧
    (∀ ph, (ph = .perform ∨ ph = .commit ∧ (s.reqs.any fun r => r.who.sameAgent s.cur && r.place == .part (key / 2 ^ 21)) = false) →
     s.arrives ph [x, y, k] pp →
      (s.drained → w.np - w.rc < 4 → w.np < 2 ^ 32 - 1 →
        let s1 := { s with pdb := s.pdb.storeVal 8 (key + 8 * (w.np % 4)) 8 { v := y.v, p := pp || x.p || y.p } }
        exec (.vst h d a b scp) s = .next ((s1.setVers key { w with np := w.np + 1 }).pResult m
          (ResW.one d { v := BitVec.ofNat 64 (w.np + 1), p := pp || x.p || y.p } 0))) ∧
      (s.drained → y.v.toNat ≤ w.np →
        exec (.vrcl h a b scp) s = .next (s.setVers key { w with rc := max w.rc y.v.toNat }))) ∧
    (s.arrives .perform [x, y, z, k] pp →
      exec (.pstx h v a b sz) s = .next { s with pdb := s.pdb.storeVal 8 key (2 ^ sz.toNat) { v := x.v, p := pp || x.p || y.p || z.p } })

/-- R150 to R153: `dqld` takes places in its queue and leaves for its channel, where its beats fill them; `dqst` writes its bytes at its
channel; `dqpop` takes the oldest beat; `dqwt` lets the instruction through when its queue's stores are performed.
Where a clause goes through what the rules leave open, it shows the model's choice (log entries 5, 8 and 68). -/
def Obligations.DeviceQueueInstructionsTakeEffect : Prop :=
  ∀ (s : State) (h : Hd) (d : Dst) (a : Src) (b : DqVal) (line : Bool) (sz q : BitVec 2) (scp : BitVec 3) (k : Val) (vs : List Val)
      (pp : Bool) (pa : Nat) (s1 : State),
    let m := h.place.form
    let key := s.dqKey m q
    let wide := if line then 64 else 2 ^ sz.toNat
    let va := (s.src h [a] a)
    let s0 := s.markFired m
    (s.inFull h → (s.dq key).live = 0 → va.p = false → va.v.toNat < 2 ^ 48 → va.v.toNat % wide = 0 →
      (s.reqs.filter (s.ofQueue m q)).length < 32 → (s.dq key).slots.length + (if line then 8 else 1) ≤ 64 →
      s0.dXlate m va.v.toNat wide false = (.ok pa, s1) →
      let sq := s1.dSeq h
      let dq := sq.2.dq (s1.dqKey m q)
      let s2 := sq.2.setDq (s1.dqKey m q) { dq with slots := addSlots dq.slots sq.1 (if line then 8 else 1) }
      exec (.dqld h a sz line q) s = .next ((s2.request (.chan s1.curTile (paDie pa * 16 + s2.chanOf pa))
        (s2.carry .perform [va, Val.clean (BitVec.ofNat 64 pa)] (s.lent h) sq.1) (.dqld h a sz line q) false sq.1).complete m 1 false {})) ∧
    (s.arrives .perform (vs ++ [k]) pp →
      let beats := if line then (List.range 8).map fun j => s.dLoad (k.v.toNat + 8 * j) 8 else [s.dLoad k.v.toNat (2 ^ sz.toNat)]
      exec (.dqld h a sz line q) s = .next (s.fillSlots key s.cur.dist (beats.map fun v => { v with p := v.p || pp }))) ∧
    (let wb := dqWidth b
     let x := s.src h (a :: dqValSrcs b) a
     let ops := s.vals h (a :: dqValSrcs b)
     s.inFull h → x.p = false → x.v.toNat < 2 ^ 48 → x.v.toNat % wb = 0 → (scp = 4 → s.lent h = false ∧ (ops.drop 1).any (fun v => v.p) = false) →
      (s.reqs.filter (s.ofQueue m q)).length < 32 → s0.dXlate m x.v.toNat wb true = (.ok pa, s1) →
      let kept := ops ++ [Val.clean (BitVec.ofNat 64 pa)]
      match m with
      | .timed =>
        let sq := s1.dSeq h
        exec (.dqst h a b scp q) s = .next ((sq.2.request (.chan s1.curTile (paDie pa * 16 + sq.2.chanOf pa))
          { s1.carry .perform kept (s.lent h) 0 with dist := sq.1 } (.dqst h a b scp q) true sq.1).complete .timed 1 false {})
      | .block => exec (.dqst h a b scp q) s = .next (s1.deferStore h (.dqst h a b scp q) kept (s.lent h))) ∧
    (s.arrives .perform (va :: vs ++ [k]) pp →
      exec (.dqst h a b scp q) s = .next (s.dStore k.v.toNat (dqBytes b vs) (pp || vs.any fun v => v.p))) ∧
    (∀ n v r, s.inFull h →
      (s.lowerUnfired (lsidNo (.dqpop h d q)) fun i => match i with
        | .dqld _ _ _ _ q' => q' == q
        | .dqpop _ _ q' => q' == q
        | _ => false) = false →
      (s.dq key).slots = (n, some v) :: r →
      exec (.dqpop h d q) s = .next ((s0.setDq key { s.dq key with slots := r }).complete m 1 false
        (ResW.one d { v := v.v, p := v.p || s.lent h } 0))) ∧
    (s.inFull h → (s.reqs.any fun r => r.store && (match m with
        | .timed => s.ofQueue .timed q r && r.who.earlier s.cur
        | .block => r.who.task == s.cur.task && (queueOf r.i).isSome)) = false →
      exec (.dqwt h q) s = .next (s0.complete m 1 false {}))

/-- R133 to R140: `agcfg` hands the record its token, `agstart` starts an idle channel, `ageos` ends one; `qtkt` gives the slot of a tag
in the window, `qpush` fills that slot, `qpop` empties the oldest one and `qcnt` reads the ring's word. In a block `qpop` holds its slot
until the commit. An untimed ring operation finds a port and the plane of its slot free and takes them (R125, R127).
Where a clause goes through what the rules leave open, it shows the model's choice (log entries 41, 44 and 81). -/
def Obligations.SequencerAndRingInstructionsTakeEffect : Prop :=
  ∀ (s s' : State) (h : Hd) (d : Dst) (a b : Src) (t : Tag) (scp : BitVec 2) (x y : Val) (zs : List Val) (pp : Bool) (ph : Phase)
      (tile : Nat),
    let m := h.place.form
    let tl := s.tile tile
    let k := x.v.toNat % 8
    let r := s.ring tile k
    s.sTile m x.v = .ok tile → s.sAway m x.v = false →
    (s.atUnit ph (.tile tile) → s.arrives ph [x, y] pp →
      (let rec_ := x.v.bits 1 5
       let w := x.v.bits 0 1
       (tl.tokens.any fun t => t.1 == rec_ && t.2.1 == w) = false →
        exec (.agcfg h a b) s = .next (s.setTile tile { tl with tokens := tl.tokens ++ [(rec_, w, y.v)] })) ∧
      (let ch := x.v.bits 4 2
       tabFind tl.chans ch = none →
        let c : Chan :=
          { record := x.v.bits 0 4, port := y.v.bits 16 3, wr := y.v.bit 19,
            left := if y.v.bits 0 16 = 0 then none else some (y.v.bits 0 16), ctr := [0, 0, 0, 0],
            next := if m = .timed then s.curRegion.t else s.cycle, ctx := s.cur.ctx,
            handle := if m = .timed then s.cur.handle else x.v.bits 35 8, timed := m == .timed }
        exec (.agstart h a b) s = .next (s.setTile tile { tl with chans := tabPut tl.chans ch c }))) ∧
    (s.atUnit ph (.tile tile) → s.arrives ph [x] pp →
      exec (.ageos h a) s = .next (s.setTile tile { tl with chans := tabDel tl.chans (x.v.bits 4 2) })) ∧
    (let tag := s.tagOf h t (opn zs 0)
     s.arrives .perform (x :: zs) pp → s.portTaken m true tile (r.claim (some tag)) s' → r.delta tag < r.size → r.size ≤ 1024 →
      exec (.qtkt h d a t) s = .next (s'.scratchResult m (ResW.one d { v := BitVec.ofNat 64 (tag % r.size), p := pp } 0))) ∧
    (let tag := s.tagOf h t (opn zs 0)
     s.atUnit ph (.tile tile) → s.arrives ph (x :: y :: zs) pp → s.portTaken m true tile (r.claim (some tag)) s' →
      (scp ≠ 0 → s.drained) → r.delta tag < r.size → r.size ≤ 1024 → r.full.contains (tag % r.size) = false →
      exec (.qpush h a b t scp) s = .next ((s'.sWrite tile (8 * r.base + 8 * (tag % r.size)) 3 false { v := y.v, p := y.p || pp }).setRing
        tile k { r with full := setIns r.full (tag % r.size) })) ∧
    (m = .timed → s.arrives .perform [x] pp → s.portTaken m true tile (r.claim none) s' → r.holder = none → r.full.contains (r.head.toNat % r.size) = true →
      let v := s.sRead tile (8 * r.base + 8 * (r.head.toNat % r.size)) 3 false
      exec (.qpop h d a scp) s = .next ((s'.setRing tile k { r with full := setDel r.full (r.head.toNat % r.size), head := r.head + 1 })
        |>.scratchResult .timed (ResW.one d { v := v.v, p := v.p || pp } 0))) ∧
    (m = .block → s.inFull h → s.src h [a] a = x → x.p = false → x.v.bits 3 15 = 0 → s.roomFor .block 1 →
      (r.holder = none ∨ r.holder = some s.cur.task) → (r.holder = none → r.held = 0) → r.held < r.size →
      r.full.contains ((r.head.toNat + r.held) % r.size) = true → s.portFree tile (r.claim none) = true →
      let slot := 8 * r.base + 8 * ((r.head.toNat + r.held) % r.size)
      let s1 := (((s.markFired .block).takePort tile (r.claim none) true).expect .block 0 1).correct spS (sKey tile slot) 8
      let v := s.sRead tile slot 3 false
      exec (.qpop h d a scp) s = .next (((s1.setRing tile k { r with holder := some s.cur.task, held := r.held + 1 }).modBlk
        fun b => { b with held := addHeld tile k b.held }).answer .block (ResW.one d { v := v.v, p := v.p || s.lent h } 0))) ∧
    (s.arrives .perform [x] pp → s.portTaken m true tile (r.claim none) s' →
      exec (.qcnt h d a) s = .next (s'.scratchResult m (ResW.one d
        { v := BitVec.ofNat 64 (r.head.toNat * 2 ^ 32 + r.full.length * 2 ^ 16 + (r.size - r.full.length)), p := pp } 0)))

/-- R141 to R144: the new value that each atomic gives an element that is not poisoned, from the old value `o` and the operand's low
bits `n`, at the element's width. A release (SCP above 0) waits until the agent's earlier operations are performed. The write half of a
timed access writes the value it carries. An untimed atomic finds a port and its plane free, in this cycle and in the next, and takes them
(R127). -/
def Obligations.AtomicsUpdateTheirElement : Prop :=
  ∀ (s s' : State) (h : Hd) (d : Dst) (a b : Src) (w64 : Bool) (scp : BitVec 2) (st : BitVec 3) (x y c v : Val) (ft : Bool) (pp : Bool)
      (ph : Phase) (tile : Nat),
    let sz := if w64 then 3 else 2
    let w := 8 * 2 ^ sz
    let off := sOff x.v
    let cut (u : Word) : Word := BitVec.ofNat 64 (u.toNat % 2 ^ w)
    let o := (s.sRead tile off sz false).v
    let n := cut y.v
    let sg (u : Word) : Int := toSigned w u.toNat
    let gives (i : Instr) (dd : Option Dst) (new : Word) : Prop :=
      (s.sRead tile off sz false).p = false → exec i s = .next (s'.swaps i h dd tile off sz [x, y] st (cut new) 0 pp)
    let half (i : Instr) : Prop := exec i s = .next (s'.sWrite tile off sz false v)
    let claim (sz : Nat) : Claim := .readHalf (off / 2 ^ 14) (off / 4 * 2 + (if sz = 3 then 1 else 0))
    s.sTile h.place.form x.v = .ok tile → s.sAway h.place.form x.v = false → s.atUnit ph (.tile tile) → (scp ≠ 0 → s.drained) →
    (s.arrives ph [x, y] pp → s.portTaken h.place.form true tile (claim sz) s' →
      gives (.aadd h d a b w64 scp st) (some d) (o + n) ∧
      gives (.amin h d a b w64 scp st) (some d) (if sg n < sg o then n else o) ∧
      gives (.amax h d a b w64 scp st) (some d) (if sg o < sg n then n else o) ∧
      gives (.aminu h d a b w64 scp st) (some d) (if n.toNat < o.toNat then n else o) ∧
      gives (.amaxu h d a b w64 scp st) (some d) (if o.toNat < n.toNat then n else o) ∧
      gives (.aand h d a b w64 scp st) (some d) (o &&& n) ∧
      gives (.aor h d a b w64 scp st) (some d) (o ||| n) ∧
      gives (.axor h d a b w64 scp st) (some d) (o ^^^ n) ∧
      gives (.aswp h d a b w64 scp st) (some d) n ∧
      gives (.ainc h d a b w64 scp st) (some d) (if n.toNat ≤ o.toNat then 0 else o + 1) ∧
      gives (.adec h d a b w64 scp st) (some d) (if o = 0 ∨ n.toNat < o.toNat then n else o - 1) ∧
      gives (.redadd h a b w64 scp st) none (o + n) ∧
      gives (.redmax h a b w64 scp st) none (if sg o < sg n then n else o)) ∧
    (s.arrives ph [x, y] pp → s.portTaken h.place.form true tile (claim 2) s' →
      (let q := s.sRead tile off 2 false
       let r := sumFp .f32 (s.rmOf h.place.form) ft [decodeF .f32 (q.v.toNat % 2 ^ 32), decodeF .f32 (y.v.toNat % 2 ^ 32)]
       q.p = false →
        exec (.afadd h d a b scp st ft) s
          = .next (s'.swaps (.afadd h d a b scp st ft) h (some d) tile off 2 [x, y] st (BitVec.ofNat 64 r.1) r.2 pp) ∧
        exec (.redfadd h a b scp st ft) s
          = .next (s'.swaps (.redfadd h a b scp st ft) h none tile off 2 [x, y] st (BitVec.ofNat 64 r.1) r.2 pp))) ∧
    (s.arrives ph [x, y, c] pp → s.portTaken h.place.form true tile (claim sz) s' → (s.sRead tile off sz false).p = false →
      exec (.acas h d a b w64 scp st) s = .next (s'.swaps (.acas h d a b w64 scp st) h (some d) tile off sz [x, y, c] st
        (if o.toNat % 2 ^ w = c.v.toNat % 2 ^ w then n else o) 0 pp)) ∧
    (s.arrives ph [x, y, v] pp → s.portTaken h.place.form true tile (claim sz) s' →
      half (.aadd h d a b w64 scp st) ∧ half (.amin h d a b w64 scp st) ∧ half (.amax h d a b w64 scp st) ∧
      half (.aminu h d a b w64 scp st) ∧ half (.amaxu h d a b w64 scp st) ∧ half (.aand h d a b w64 scp st) ∧
      half (.aor h d a b w64 scp st) ∧ half (.axor h d a b w64 scp st) ∧ half (.aswp h d a b w64 scp st) ∧
      half (.ainc h d a b w64 scp st) ∧ half (.adec h d a b w64 scp st) ∧ half (.redadd h a b w64 scp st) ∧
      half (.redmax h a b w64 scp st))

/-- R352 to R363: `barinit` makes the slot live at phase 0; `barexp` and `bararr` count toward the named parity and settle the slot;
`barwt` answers the phase word once its phase has completed; `bartst` reads the status word or a pending count. In a block the three
that send are performed by the commit. An untimed operation finds a port free and takes it (R127, R357). -/
def Obligations.BarrierInstructionsTakeEffect : Prop :=
  ∀ (s s' : State) (h : Hd) (d : Dst) (a b : Src) (scp sel : BitVec 2) (par : Parity) (x y : Val) (pp : Bool) (tile : Nat),
    let m := h.place.form
    let k := x.v.toNat % 16
    let br := s.bar tile k
    let v := y.v
    s.sTile m x.v = .ok tile → s.sAway m x.v = false →
    (∀ ph, (ph = .perform ∧ m = .timed ∨ ph = .commit ∧ m = .block) → s.atUnit ph (.tile tile) → s.arrives ph [x, y] pp →
      s.portTaken m true tile .port s' →
      ((br.st = 1 → s.barWaited tile k = false) →
        let auto := v.bit 39
        let n : Int := if auto then (v.bits 0 39 : Int) else 0
        exec (.barinit h a b) s = .next (s'.setBar tile k { st := 1, phase := 0, pend0 := n, pend1 := n, posted0 := auto, posted1 := auto,
                                                            count := v.bits 0 39, auto := auto })) ∧
      (s.drained → br.st = 1 →
        let odd : Bool := match par with
          | .cur => br.phase.getLsbD 0
          | .even => false
          | .odd => true
        let nxt : BitVec 32 := if odd = br.phase.getLsbD 0 then br.phase else br.phase + 1
        let counts (i : Instr) (t : Int) (posted : Bool) : Prop :=
          -(2 ^ 39 : Int) ≤ t → t < 2 ^ 39 → ((br.setPend odd t (br.posted odd || posted)).settle 3).st = 1 →
            exec i s = .next ((s'.setBar tile k ((br.setPend odd t (br.posted odd || posted)).settle 3)).scratchAnswer m
              (ResW.one d { v := BitVec.ofNat 64 nxt.toNat, p := false } 0) none)
        counts (.barexp h d a b scp par) (br.pend odd + v.toNat) true ∧
        counts (.bararr h d a b scp par) (br.pend odd - v.toNat) false)) ∧
    (s.arrives .perform [x, y] pp → s.portTaken m true tile .port s' → br.st = 1 → br.reached (v.toNat % 2 ^ 32) = true →
      exec (.barwt h d a b scp) s = .next (s'.scratchResult m (ResW.one d (Val.clean (BitVec.ofNat 64 br.phase.toNat)) 0))) ∧
    (s.arrives .perform [x] pp → s.portTaken m true tile .port s' →
      exec (.bartst h d a sel) s = .next (s'.scratchResult m (ResW.one d (Val.clean
        (if sel = 0 then br.word else BitVec.ofInt 64 (if sel = 2 then br.pend1 else br.pend0))) 0)))

/-- R162 to R164: `tlsig` raises a soft counter, `tlwt` goes on once the counter has reached its number unmarked, `tlrd` reads the
counter, `fence` goes on once what it orders is performed; R236: `drain` lowers N to the instance after its own.
Where a clause goes through what the rules leave open, it shows the model's choice (log entry 67). -/
def Obligations.TimelineFenceAndDrainTakeEffect : Prop :=
  ∀ (s s' : State) (h : Hd) (d : Dst) (a b : Src) (scp : BitVec 3) (kind : FenceKind) (ops : List Val) (pp : Bool) (n : Nat),
    let m := h.place.form
    let key (u : Word) : Option Nat := (counterIdx u).map fun i => s.cur.ctx * 356 + i
    let lat (u : Word) : Nat := if s.physDie s.cur.ctx (u.bits 14 2) = s.cur.die then 8 else 64
    let s0 := s.markFired m
    (∀ x y k, s.sends h [a, b] 1 0 ops pp s' → ops = [x, y] → x.p = false → y.p = false → x.v.bits 11 3 = 3 → key x.v = some k →
      (m = .timed → s.cur.fired = s.curRegion.t) → s'.drained →
      exec (.tlsig h a b scp) s = .next (s'.setCounter k { s'.counter k with v := max (s'.counter k).v y.v.toNat })) ∧
    (let x := s.src h [a, b] a
     let y := s.src h [a, b] b
     ∀ k, s.inFull h → x.p = false → y.p = false → key x.v = some k → y.v.toNat ≤ (s.counter k).v →
      (∀ mk, (s.counter k).mark = some mk → y.v.toNat < mk) →
      exec (.tlwt h a b scp) s = .next (s0.complete m (lat x.v) false {})) ∧
    (let x := s.src h [a] a
     ∀ k, s.inFull h → s.roomFor m 1 → x.p = false → key x.v = some k →
      let c := s.counter k
      let s1 := s0.tagged
      exec (.tlrd h d a) s = .next ((s1.expect m (lat x.v) 1).answer m (ResW.one d
        { v := BitVec.ofNat 64 c.v, p := s.lent h || (match c.mark with
          | some mk => decide (mk ≤ c.v)
          | none => false) } 0))) ∧
    (s.inFull h →
      (m = .timed →
        (∀ r ∈ s.reqs, r.who.earlier s.cur = true → r.who.fired < s.curRegion.t → kind = .acq ∧ r.store = true ∨ s.accFirst r = true) ∧
        (∀ r ∈ s.replies, r.who.earlier s.cur = true → ¬ r.who.fired < s.curRegion.t) ∧
        (kind ≠ .acq → ∀ c ∈ s.cinvs, c.who.earlier s.cur = true → ¬ c.who.fired < s.curRegion.t)) →
      exec (.fence h scp kind) s = .next ((match m with
        | .timed => s.setCurRegion { s.curRegion with fenceAt := s.curRegion.t }
        | .block => s0).complete m 1 false {})) ∧
    (s.inFull h → m = .timed → n = s.instanceOf h + 1 →
      exec (.drain h) s = .next ((s.setCurRegion { s.curRegion with n := min n s.curRegion.n }).complete .timed 1 true {}))

/-- R292, R293: `wtick` answers STC once the tick has come; `powq` answers what the governor decides: 0 and the grant where the class
fits, 1 where it does not fit now, 2 where it never will; `powq.wait` of a class that fits is granted at once; `powrl` gives a grant
back.
Where a clause goes through what the rules leave open, it shows the model's choice (log entries 75 and 93). -/
def Obligations.TickAndPowerInstructionsTakeEffect : Prop :=
  ∀ (s s' : State) (h : Hd) (d : Dst) (a : Src) (imm : BitVec 16) (ops : List Val) (pp : Bool),
    let m := h.place.form
    let s0 := s.markFired m
    let now (t : State) : Out := .next (t.complete m 1 false (ResW.one d (Val.clean (BitVec.ofNat 64 s.stc.toNat)) 0))
    let x := s.src h [a] a
    let c := powClass x.v
    let die := s.powDie x.v
    let amt := s.leaveAmt die c
    let lat := if die = s.cur.die then 8 else 64
    let fits := c ≠ 0 ∧ amt ≤ s.seeded die ∧ s.suse die + amt ≤ s.seeded die
    (s.inFull h → x.p = false → s.reached (wrapInt 48 ((x.v.toNat : Int) + imm.toInt)) = true →
      exec (.wtick h d a imm) s = now s0) ∧
    (s.inFull h → (m = .timed → s.curRegion.frozen = false) → s.reached ((s.stc.toNat + imm.toNat) % 2 ^ 48) = true →
      exec (.wtickRel h d imm) s = now s0) ∧
    (s.sends h [a] lat 1 ops pp s' → powCheck ops = none →
      let g := s'.governor (opn ops 0).v none
      exec (.powq h d a) s = .next (g.2.sendResult m (ResW.one d { v := BitVec.ofNat 64 g.1, p := pp } 0))) ∧
    (∀ t : State, ∀ u : Word, ∀ since : Option Nat,
      let c := powClass u
      let die := t.powDie u
      let amt := t.leaveAmt die c
      t.governor u since =
        if c = 0 then (0, t)
        else if t.seeded die < amt then (2, t)
        else if t.seeded die < t.suse die + amt ∨ t.powWaits die (since.map fun c => (t.prioOf t.cur, c)) = true then (1, t)
        else
          let t1 := t.setSuse die (t.suse die + amt)
          (0, { t1 with grants := t1.grants ++ [(t.cur.ctx, die, c)] })) ∧
    (s.inFull h → powCheck [x] = none → s.roomFor m 1 → fits →
      s.powWaits die (some (s.prioOf s.cur, s.cycle)) = false →
      let s1 := s0.tagged
      let s2 := s1.expect m lat 1
      let s3 := { s2 with cur := s2.carry .perform [x] (s.lent h) 0 }
      let s4 := s3.setSuse die (s3.suse die + amt)
      let s5 := { s4 with grants := s4.grants ++ [(s.cur.ctx, die, c)] }
      exec (.powqWait h d a) s = .next (s5.answer m (ResW.one d { v := 0, p := s.lent h } 0))) ∧
    (s.sends h [a] 1 0 ops pp s' → powCheck ops = none →
      s'.grants.contains (s'.cur.ctx, s'.powDie (opn ops 0).v, powClass (opn ops 0).v) = true →
      exec (.powrl h a) s = .next (s'.powRelease s'.cur.ctx (s'.powDie (opn ops 0).v) (powClass (opn ops 0).v)))

/-! ### Futures, branches, matrix and stream islands, collectives -/

/-- R311: `futset` stores the value with bit 63 set into a future that is not set, and `futset.clr` stores 0 into one that nobody
waits for; D receives the result. R245, R261 to R265, R310: `futwt`, `jwait`, `yield`, `exit`, `br`, `bcall` and `bret` set the
block's exit, `nul` nulls instructions; each completes within its block. Where a clause goes through what the rules leave open, it
shows the model's choice (log entries 65 and 73). -/
def Obligations.FutureAndBranchInstructionsTakeEffect : Prop :=
  ∀ (s : State) (h : Hd) (d : Dst) (hd : BitVec 3) (a b : Src) (imm : BitVec 16) (mask : BitVec 32) (x y : Val) (key : Nat) (pp : Bool),
    let m := h.place.form
    let word (t : State) (n : Nat) : Out := .next (t.sendResult m (ResW.one d { v := BitVec.ofNat 64 n, p := pp } 0))
    let w := (s.dLoad key 8).v
    let waited : Prop := (s.tasks.any fun p => p.2.st == .waiting && p.2.waitFut == some key) = true ∨
      (s.frecs.find? fun p => s.recAt (p.1 / 1024) (p.1 % 1024) == key).isSome = true
    let out (e : Exit) : Out :=
      .next (((s.markFired .block).modBlk fun b => { b with exit := some e }).complete .block 1 true {})
    let free : Prop := m = .block ∧ s.inFull h ∧ s.lent h = false ∧ s.curBlk.exit = none
    let isAt (v : Val) (align : Nat) : Prop := v.p = false ∧ v.v.bits 48 16 = 0 ∧ v.v.toNat % align = 0
    let rel : Int := (s.curBlk.addr : Int) + 8 * imm.toInt
    (s.sentTo h [x, y] key pp →
      (w.bit 63 = true → exec (.futset h d a b) s = word (s.correct spD key 8) 1) ∧
      (w.bit 63 = false → ¬ waited →
        exec (.futset h d a b) s = word ((s.correct spD key 8).dStore key (bytesOfNat 8 (2 ^ 63 + y.v.bits 0 63)) false) 0) ∧
      (w.bit 63 = false → ∃ t, (s.futureOp key (some (y.v.bits 0 63))) = (0, t) ∧ exec (.futset h d a b) s = word t 0)) ∧
    (s.sentTo h [x] key pp →
      (waited → exec (.futsetClr h d a) s = word s 2) ∧
      (¬ waited → exec (.futsetClr h d a) s = word (s.dStore key (bytesOfNat 8 0) false) 3)) ∧
    (free →
      (0 ≤ rel → rel < 2 ^ 48 → exec (.br h imm) s = out (.to rel.toNat)) ∧
      (0 ≤ rel → rel < 2 ^ 48 → exec (.bcall h hd imm) s = .next (((s.markFired .block).modBlk fun b =>
        { b with exit := some (.to rel.toNat) }).complete .block 1 true (ResW.one (.h hd) (Val.clean (BitVec.ofNat 64
          (s.curBlk.addr + 8 * (s.curBlk.hdr.count.toNat + 2)))) 0))) ∧
      exec (.exit h a) s = out (.exit (s.src h [a] a)) ∧
      (isAt (s.src h [a] a) 8 → exec (.bret h a) s = out (.to (s.src h [a] a).v.toNat)) ∧
      (isAt (s.src h [a] a) 8 → exec (.yield h a) s = out (.yield (s.src h [a] a).v.toNat)) ∧
      (∀ pa, s.src h [a, b] a = x → s.src h [a, b] b = y → isAt x 8 → isAt y 8 →
        (s.markFired .block).xlate s.cur.die 1 s.cur.ctx x.v.toNat false = (.ok pa, s.markFired .block) →
        exec (.futwt h d a b) s = out (.futwt pa d y.v.toNat) ∧
        (x.v.toNat % 64 = 0 → exec (.jwait h a b) s = out (.jwait pa y.v.toNat)))) ∧
    (m = .block → s.inFull h →
      let nulls (i : Instr) : Out := .next (((s.markFired .block).modBlk fun b =>
        { b with nulled := ((nulNames ((decodeBlock b.words).getD []) s.cur.idx i).getD []).foldl setIns b.nulled }).complete
          .block 1 true {})
      exec (.nulSt h mask) s = nulls (.nulSt h mask) ∧ exec (.nulH h mask) s = nulls (.nulH h mask))

/-- R174, R188, R190 to R193: a matrix command of the context that owns the island leaves for it when it fires in a timed region, to be
accepted in cycle c + 6 or later, and waits for the commit in a block; accepted, it joins the island's queue with the next number of
the context's counter, which D receives. -/
def Obligations.MatrixCommandsJoinTheirQueue : Prop :=
  ∀ (s : State) (h : Hd) (d : Dst) (a b c : Src) (clr x isB : Bool) (u v w : Val) (pp : Bool),
    let k := s.mislKey u
    let joins (i : Instr) (srcs : List Src) (ops : List Val) : Prop :=
      (∀ o ∈ ops, o.p = false) → u.v.toNat < 16 → (s.misl k).ownedBy s.cur.ctx = true →
      (s.inFull h → s.vals h srcs = ops → (h.place.form = .timed → s.roomFor .timed 1 ∧ (s.misl k).queue.length < 16) →
        exec i s = .next (s.commands i h srcs)) ∧
      (s.accepts h ops pp → (s.misl k).queue.length < 16 →
        let key := s.engKey s.cur.ctx (k / 16) (8 + k % 16)
        let n := (s.counter key).issued + 1
        let t := s.setCounter key { s.counter key with issued := n }
        let cmd : MCmd :=
          { num := n, ctx := s.cur.ctx, i := i, b := (opn ops 1).v, c := (opn ops 2).v, started := false, header := none, next := 0,
            beats := [], out := [], fault := none, at_ := 0, admitted := false, done := false }
        let m := t.misl k
        exec i s = .next ((t.setMisl k { m with queue := m.queue ++ [cmd] }).acceptResult h.place.form
          (ResW.one d { v := BitVec.ofNat 64 n, p := pp } 0)))
    joins (.mxselRel h d a) [a] [u] ∧
    joins (.mxswb h d a) [a] [u] ∧
    (tileBad v.v = false → joins (.mxldb h d a b) [a, b] [u, v] ∧ joins (.mxwst h d a b) [a, b] [u, v]) ∧
    (modeBad v.v = false → joins (.mxfmt h d a b) [a, b] [u, v]) ∧
    (rangeBad v.v false = false →
      joins (.mxzero h d a b) [a, b] [u, v] ∧ joins (.mxdrn h d a b clr x) [a, b] [u, v] ∧ joins (.mxacc h d a b) [a, b] [u, v] ∧
      (w.v.bits 32 32 = 0 → joins (.mxsc h d a b c isB) [a, b, c] [u, v, w]) ∧
      (pBad w.v = false → pOdd w.v = false → joins (.mxst h d a b c clr x) [a, b, c] [u, v, w])) ∧
    (pBad v.v = false → pOdd v.v = false → joins (.mxsave h d a b) [a, b] [u, v] ∧ joins (.mxrest h d a b) [a, b] [u, v]) ∧
    (rangeBad v.v true = false →
      joins (.mxmacChan h d a b) [a, b] [u, v] ∧ joins (.mxmacStore h d a b) [a, b] [u, v] ∧
      (rowFirst v.v = 0 →
        ((w.v = 128 ∨ w.v = 256 ∨ w.v = 512) → joins (.mxmacFill h d a b c) [a, b, c] [u, v, w]) ∧
        (pBad w.v = false → pOdd w.v = false → joins (.mxmacPfill h d a b c) [a, b, c] [u, v, w])))

/-- R178, R189, R194, R195: `mxsel.acq` gives a free island to the context, `mxcol.ret` retires a column, and the queries answer the
column map, the accumulator, the status word and the scales once the context's commands have left the queue. None of the answers is
poisoned but by the row or the column it is read from (R181, R188).
Where a clause goes through what the rules leave open, it shows the model's choice (log entry 71). -/
def Obligations.MatrixAnswersTakeEffect : Prop :=
  ∀ (s s' : State) (h : Hd) (d : Dst) (a b : Src) (u v : Val) (pp : Bool),
    let m := h.place.form
    let k := s'.mislKey u
    let isl := s'.misl k
    let gives (t : State) (n : Nat) : Out := .next (t.sendResult m (ResW.one d (Val.clean (BitVec.ofNat 64 n)) 0))
    let col := v.v.toNat
    let answers (i : Instr) (srcs : List Src) (ops : List Val) (r : Val) : Prop :=
      s.queried h srcs 8 1 ops pp s' → (∀ o ∈ ops, o.p = false) → u.v.toNat < 16 →
      ((s.misl (s.mislKey u)).queue.any fun c => c.ctx == s.cur.ctx) = false → exec i s = .next (s'.answer m (ResW.one d r 0))
    let owned : Prop := (s.misl (s.mislKey u)).ownedBy s.cur.ctx = true
    (s.sends h [a] 8 1 [u] pp s' → u.p = false → u.v.toNat < 16 →
      (isl.st = .free → exec (.mxselAcq h d a) s = gives (s'.setMisl k { isl.zero with st := .owned, owner := s'.cur.ctx }) 0) ∧
      (isl.st = .owned → exec (.mxselAcq h d a) s = gives s' (if isl.owner = s'.cur.ctx then 0 else 1)) ∧
      (isl.st = .saving ∨ isl.st = .testing → exec (.mxselAcq h d a) s = gives s' 2) ∧
      (isl.st = .faulted ∨ isl.st = .retired → exec (.mxselAcq h d a) s = gives s' 3)) ∧
    (s.sends h [a, b] 8 1 [u, v] pp s' → s.sysCtx s.cur.ctx s.cur.die = true → u.p = false → v.p = false → u.v.toNat < 16 → col < 128 →
      (128 ≤ isl.phys col → exec (.mxcolRet h d a b) s = gives s' 2) ∧
      (isl.phys col < 128 →
        exec (.mxcolRet h d a b) s = gives (s'.retireCol k col 0 0).2 (if (s'.retireCol k col 0 0).1 then 0 else 1))) ∧
    (col < 128 → answers (.mxcolRd h d a b) [a, b] [u, v]
      (Val.clean (BitVec.ofNat 64 ((if isl.phys col = col then 0 else 256) + isl.phys col)))) ∧
    answers (.mxpeekSt h d a) [a] [u] (Val.clean (s'.mxStatus k s'.cur.ctx)) ∧
    (owned →
      (col < 128 → answers (.mxpeekTa h d a b) [a, b] [u, v] (scaleWord isl.ta col)) ∧
      (col < 128 → answers (.mxpeekTb h d a b) [a, b] [u, v] (scaleWord isl.tb col)) ∧
      (let row := v.v.toNat % 256
       let c := v.v.toNat / 256
       row < 128 → c < 128 → answers (.mxpeekAcc h d a b) [a, b] [u, v]
        { v := BitVec.ofNat 64 (isl.cell row c), p := isl.rowP.contains row || isl.colP.contains c }))

/-- R196, R198, R200, R201, R205 to R213: `sbind` binds a port, each stream command leaves for its island when it fires in a timed region,
to be accepted in cycle c + 6 or later, and waits for the commit in a block; accepted, it takes the next number of its context and joins
the island's queue; `spat` reads a pattern, `scan` ends the running commands it names and answers how many, `sst` answers the status word,
and `sst.flags` the flags, which it clears. Where a clause goes through what the rules leave open, it shows the model's choice (log
entry 70). -/
def Obligations.StreamCommandsTakeEffect : Prop :=
  ∀ (s s' : State) (h : Hd) (d : Dst) (a b c : Src) (u v w : Val) (op : SredOp) (ty : SredTy) (x : Bool) (pp : Bool),
    let m := h.place.form
    let k := s'.islKey u
    let isl := s'.sisl k
    let clean (ops : List Val) : Prop := ∀ o ∈ ops, o.p = false
    let joins (i : Instr) (srcs : List Src) (ports : List Nat) (ops : List Val) : Prop :=
      clean ops → islBad u.v ports false = false →
      (s.inFull h → s.vals h srcs = ops → (m = .timed → s.roomFor .timed 1 ∧ s.streamFull (s.islKey u) = false) →
        exec i s = .next (s.commands i h srcs)) ∧
      (s.accepts h ops pp → s.streamFull (s.islKey u) = false →
        let j := s.islKey u
        let r := s.streamAccept j i s.cur.ctx u.v (opn ops 1).v (opn ops 2).v (s.issuerPrio m) (s.issuerJob m) none s.cur (s.issuerLane m)
        r.1 = (s.counter (s.engKey s.cur.ctx (j / 8) (j % 8))).issued + 1 ∧
          exec i s = .next (r.2.acceptResult m (ResW.one d { v := BitVec.ofNat 64 r.1, p := pp } 0)))
    joins (.scpy h d a b) [a, b] [0, 1] [u, v] ∧
    (w.v.toNat % 4 = 0 → w.v.bits 29 35 = 0 → joins (.scpyChk h d a b c) [a, b, c] [0, 1] [u, v, w]) ∧
    joins (.sgat h d a) [a] [0, 1, 2] [u] ∧
    joins (.ssct h d a) [a] [0, 1, 2] [u] ∧
    joins (.sred h d a op ty x) [a] [0, 1] [u] ∧
    joins (.sfill h d a b) [a, b] [1] [u, v] ∧
    joins (.scvt h d a b c x) [a, b, c] [0, 1, 2, 3] [u, v, w] ∧
    (∀ i : Instr, ∀ ctx prio : Nat, ∀ p q r : Word, ∀ job card : Option Nat, ∀ who : Issuer, ∀ lane : Option (Nat × Nat), ∀ j : Nat,
      let t := (s.streamAccept j i ctx p q r prio job card who lane).2
      ∃ cmd : SCmd, (t.sisl j).cmds = (s.sisl j).cmds ++ [cmd] ∧ cmd.i = i ∧ cmd.ctx = ctx ∧ cmd.a = p ∧ cmd.b = q ∧ cmd.c = r ∧
        cmd.num = (s.counter (s.engKey ctx (j / 8) (j % 8))).issued + 1 ∧ cmd.started = false ∧ cmd.done = false) ∧
    (s.releases h [a, b, c] 8 0 [u, v, w] pp s' → clean [u, v, w] → sbindBad u.v v.v w.v = false →
      (v.v.bits 8 2 = 3 → (s.pkgCsr (0x8400 + w.v.bits 0 5)).bits 34 6 = s.cur.ctx) →
      exec (.sbind h a b c) s = .next (s'.setSisl k { isl with
        binds := tabPut isl.binds (16 * s'.cur.ctx + u.v.bits 8 4) (bindOf v.v w.v) })) ∧
    (∀ p off, s.releases h [a, b] 8 0 [u, v] pp s' → clean [u, v] → islBad u.v [] true = false → v.v.toNat % 8 = 0 →
      s.partOf s.cur.ctx false v.v = .ok (p, off) → off + 104 ≤ 2 ^ 21 → s'.partOf s'.cur.ctx false v.v = .ok (p, off) →
      exec (.spat h a b) s = .next ((s'.correct spP (p * 2 ^ 21 + off) 104).setSisl k { isl with
        pats := tabPut isl.pats (256 * s'.cur.ctx + u.v.bits 24 8) (s'.patWords p off) })) ∧
    (clean [u, v] → islBad u.v [] false = false →
      (s.inFull h → s.vals h [a, b] = [u, v] → (m = .timed → s.roomFor .timed 1) →
        exec (.scan h d a b) s = .next (s.commands (.scan h d a b) h [a, b])) ∧
      (s.accepts h [u, v] pp →
        let j := s.islKey u
        let hit := (s.sisl j).cmds.filter fun c => !c.done && (c.ctx == s.cur.ctx && (v.v == 0 || v.v == BitVec.ofNat 64 c.num))
        exec (.scan h d a b) s = .next ((hit.foldl (fun t c => t.streamEndCmd j c true) s).acceptResult m
          (ResW.one d { v := BitVec.ofNat 64 hit.length, p := pp } 0)))) ∧
    (s.queried h [a] 8 1 [u] pp s' → u.p = false → islBad u.v [] false = false →
      exec (.sst h d a) s = .next (s'.answer m (ResW.one d { v := s'.sstWord k s'.cur.ctx, p := pp } 0)) ∧
      (let e := s'.sctx k s'.cur.ctx
       exec (.sstFlags h d a) s = .next ((s'.setSctx k s'.cur.ctx { e with sflag := 0 }).answer m
        (ResW.one d { v := BitVec.ofNat 64 e.sflag.toNat, p := pp } 0))))

/-- R174, R366, R395, R399 to R403: a collective command leaves for the engine when it fires in a timed region and waits for the commit
in a block; accepted, it takes the next number of its context's collective counter and joins the engine's queue of at most 16; D
receives the number. -/
def Obligations.CollectiveCommandsJoinTheirQueue : Prop :=
  ∀ (s : State) (h : Hd) (d : Dst) (a b c : Src) (op : CcOp) (pp : Bool),
    let joins (i : Instr) (srcs : List Src) (ops : List Val) (bar pair : Bool) : Prop :=
      s.ccCheck bar pair ops = none →
      (s.inFull h → s.vals h srcs = ops → (h.place.form = .timed → s.roomFor .timed 1 ∧ (s.ccList s.cur.die).length < 16) →
        exec i s = .next (s.commands i h srcs)) ∧
      (s.accepts h ops pp → (s.ccList s.cur.die).length < 16 →
        let n := (s.counter (s.engKey s.cur.ctx s.cur.die 24)).issued + 1
        ∃ t : State, ∃ cmd : CCmd, exec i s = .next (t.acceptResult h.place.form (ResW.one d { v := BitVec.ofNat 64 n, p := pp } 0)) ∧
          t.ccList s.cur.die = s.ccList s.cur.die ++ [cmd] ∧ cmd.num = n ∧ cmd.ctx = s.cur.ctx ∧ cmd.i = i ∧
          cmd.a = (opn ops 0).v ∧ cmd.b = (opn ops 1).v ∧ cmd.peer = (opn ops 2).v.toNat ∧ cmd.ld = s.curLd)
    (∀ u v,
      joins (.ccred h d a b op) [a, b] [u, v] false false ∧
      joins (.ccbc h d a b) [a, b] [u, v] false false ∧
      joins (.ccag h d a b) [a, b] [u, v] false false ∧
      joins (.ccbar h d a b) [a, b] [u, v] true false) ∧
    (∀ u v w,
      joins (.ccsend h d a b c) [a, b, c] [u, v, w] false true ∧
      joins (.ccrecv h d a b c) [a, b, c] [u, v, w] false true)

/-- R220, R233 to R235, R253, R264: `jpost` decrements the card at its address and answers 0 to 4; a launch answers the word of its
dispatcher, with REFUSED in p[ST], and a new region that is accepted waits QUEUED with what the launch names; `cancel` answers what
the cancel did; `cmpl` answers the completion word, and `cmpl.wait` does so once the object has ended. Where a clause goes through
what the rules leave open, it shows the model's choice (log entries 17, 69, 72 and 89). -/
def Obligations.JobInstructionsTakeEffect : Prop :=
  ∀ (s s' : State) (h : Hd) (d : Dst) (a b c : Src) (rel : Bool) (level : BitVec 2) (st : BitVec 3) (x y z : Val) (key : Nat) (pp : Bool),
    let m := h.place.form
    let word (t : State) (n : Nat) : Out := .next (t.sendResult m (ResW.one d { v := BitVec.ofNat 64 n, p := pp } 0))
    (s.sentTo h [x, y] key pp →
      let g := match m with
        | .timed => none
        | .block => s.curTask.graph
      let r := s.decrement s.cur.ctx x.v.toNat key
        { graph := g, job := s.issuerJob m, queue := s.postQueue m y, die := s.cur.die, prio := s.issuerPrio m, finishing := false }
      exec (.jpost h d a b) s = word r.2 r.1) ∧
    (∀ by_ : Poster, ∀ va : Nat,
      let cst := (s.dLoad (key + 2) 1).v.toNat
      let pred := (s.dLoad (key + 4) 4).v.toNat
      by_.graph = none →
        ((cst ≠ 0 ∨ pred = 0) → s.decrement s.cur.ctx va key by_ = (2, s.correct spD key 8)) ∧
        (cst = 0 → 1 < pred →
          s.decrement s.cur.ctx va key by_ = (1, (s.correct spD key 8).dStore (key + 4) (bytesOfNat 4 (pred - 1)) false))) ∧
    (let launch (i : Instr) (srcs : List Src) (ops : List Val) (n recAddr : Word) (seq : Bool) : Prop :=
      let die (t : State) : Nat := t.physDie t.cur.ctx (x.v.bits 25 2)
      s.releases h srcs (if die s = s.cur.die then 16 else 64) 1 ops pp s' → (∀ o ∈ ops, o.p = false) →
      launchBad x.v n recAddr seq = false → s.launchesOut (die s) < 64 →
        let r := s'.accept { ctx := s'.cur.ctx, op := x.v, n := n.toNat, recAddr := recAddr.toNat, isSeq := seq, die := die s',
                             prio := s'.issuerPrio m, queue := s'.issuerQueue m, job := s'.issuerJob m, graph := s'.issuerGraph m,
                             card := none, inl := none }
        exec i s = .next (r.2.2.sendResult m { ResW.one d { v := r.2.1, p := pp } 0 with
          preds := if st = 0 then [] else [(st.toNat, decide (r.1 ≠ 0), pp)] })
     launch (.launch h d a b c st) [a, b, c] [x, y, z] y.v z.v false ∧ launch (.launchSeq h d a c st) [a, c] [x, z] 0 z.v true) ∧
    (∀ (q : LaunchReq) (hnd : Nat), s.ctxState q.ctx ≠ ctxFree → s.ctxState q.ctx ≠ ctxEnding → q.op.bit 24 = false →
      s.downDies.contains q.die = false → s.newHandle q.ctx = some hnd →
      let r := s.accept q
      let g := r.2.2.regionOn q.ctx hnd q.die
      r.1 = 0 ∧ g.st = .queued ∧ g.cfg = q.op.bits 0 10 ∧ g.n = q.n ∧ g.recAddr = q.recAddr ∧ g.prio = q.prio) ∧
    (identBad x.v level.toNat = false → x.p = false →
      (s.inFull h → s.vals h [a] = [x] → m = .timed → s.roomFor .timed 1 →
        let s2 := s.tagged.expect .timed 16 1
        exec (.cancel h d a rel level) s
          = .next (s2.requestAt (s.cycle + 1) (.unit 0) (s2.carry .perform [x] (s.lent h) 0) (.cancel h d a rel level) true)) ∧
      (s.cur.phase = (match m with | .timed => .perform | .block => .commit) → s.cur.ops = [x] → s.cur.pois = pp →
        let r := s.cancelWork s.cur.die s.cur.ctx level.toNat x.v rel
        exec (.cancel h d a rel level) s = word r.2 r.1)) ∧
    (let lat := if s.workNear s.cur.die s.cur.ctx level.toNat x.v then 8 else 64
     let w (t : State) : Word := t.workWord t.cur.die t.cur.ctx level.toNat x.v
     s.queried h [a] lat 1 [x] pp s' → (s.markFired m).workNear s.cur.die s.cur.ctx level.toNat x.v
        = s.workNear s.cur.die s.cur.ctx level.toNat x.v → identBad x.v level.toNat = false → x.p = false →
      exec (.cmpl h d a level) s = .next (s'.answer m (ResW.one d { v := w s', p := pp } 0)) ∧
      (5 ≤ (w s).bits 60 4 → exec (.cmplWait h d a level) s = .next (s'.answer m (ResW.one d { v := w s', p := pp } 0))))

/-- R372, R378 to R383: `gfork`, `grew`, `gcan` and `gcan.all` answer what the group's own rules say; `gst` answers the live status word, or
that of the descriptor in memory; `gbar` and `gadv` answer once their group has ended, with the word and the advantage it ended
with.
Where a clause goes through what the rules leave open, it shows the model's choice (log entry 74). -/
def Obligations.GroupInstructionsTakeEffect : Prop :=
  ∀ (s s' : State) (h : Hd) (d : Dst) (a b c : Src) (x y z : Val) (pp : Bool),
    let m := h.place.form
    let word (r : Nat × State) : Out := .next (r.2.sendResult m (ResW.one d { v := BitVec.ofNat 64 r.1, p := pp } 0))
    let key := (s'.gKey s'.cur.ctx x).getD 0
    let near (n f : Nat) : Nat := if (s.gKey s.cur.ctx x).getD 0 / 2 ^ 21 / 48 = s.cur.die then n else f
    (s.releases h [a, b, c] 16 1 [x, y, z] pp s' → s.gCheck [x, y, z] (targetBad y) (targetOdd y) = none →
      exec (.gfork h d a b c) s = word (s'.fork key y.v z.v)) ∧
    (s.releases h [a, b, c] (near 16 64) 1 [x, y, z] pp s' →
      s.gCheck [x, y, z] (indexBad y || z.v.bits 32 32 != 0) false = none →
      exec (.grew h d a b c) s = word (s'.reward key y.v.toNat z.v.toNat)) ∧
    (s.sends h [a, b] (near 16 64) 1 [x, y] pp s' → s.gCheck [x, y] (indexBad y) false = none →
      exec (.gcan h d a b) s = word (s'.cancelSib key y.v.toNat)) ∧
    (s.sends h [a] (near 16 64) 1 [x] pp s' → s.gCheck [x] false false = none →
      exec (.gcanAll h d a) s = word (s'.cancelGroup key)) ∧
    (s.queried h [a] (near 8 64) 1 [x] pp s' → (s.markFired m).gKey s.cur.ctx x = s.gKey s.cur.ctx x →
      s.gCheck [x] false false = none →
      (∀ g, tabFind s'.groups key = some g → exec (.gst h d a) s = .next (s'.answer m (ResW.one d { v := g.live, p := pp } 0))) ∧
      (tabFind s'.groups key = none →
        let v := s'.gField key 0x30 8
        exec (.gst h d a) s = .next ((s'.correct spP (key + 0x30) 8).answer m (ResW.one d { v := v.v, p := v.p || pp } 0)))) ∧
    (∀ e num, num < 2 ^ 64 → (s.groupEnds.find? fun e => e.num == num) = some e →
      let done (idx : Option Nat) : Out :=
        let t := s.answer m (ResW.one d { v := e.result idx, p := pp } 0)
        .next (if t.gWaited num then t else { t with groupEnds := t.groupEnds.filter fun x => x.num != num })
      (s.arrives .perform [x, Val.clean (BitVec.ofNat 64 num)] pp → exec (.gbar h d a) s = done none) ∧
      (s.arrives .perform [x, y, Val.clean (BitVec.ofNat 64 num)] pp → exec (.gadv h d a b) s = done (some y.v.toNat))) ∧
    (∀ g u, tabFind s.groups key = some g →
      (g.active = false → s.reward key u z.v.toNat = (3, s) ∧ s.cancelSib key u = (2, s)) ∧
      (g.active = true → g.g ≤ u → s.reward key u z.v.toNat = (4, s) ∧ s.cancelSib key u = (4, s)) ∧
      (g.active = true → u < g.g → g.canc.contains u = true → s.reward key u z.v.toNat = (2, s) ∧ s.cancelSib key u = (1, s)))

/-- R217, R237, R238, R410 to R414, R424, R433: `trap` takes its code with the operand as detail; `brk` and
`halt` stop the issuer where a debug session holds the context, or always; `csrr` and `csrw` read and write the CSR they name; `trace`
writes a record; `cfginv` sends the invalidation; `stest` asks for a test and reads its word.
Where a clause goes through what the rules leave open, it shows the model's choice (log entries 40, 56, 57, 59 and 62). -/
def Obligations.TrapAndSystemInstructionsTakeEffect : Prop :=
  ∀ (s s' : State) (h : Hd) (d : Dst) (a : Src) (code : BitVec 8) (num imm : BitVec 16) (x : Val) (pp : Bool),
    let m := h.place.form
    let n := num.toNat
    (s.inFull h →
      (m = .timed → exec (.trap h a code) s = .next (s.setCurRegion { s.curRegion with faults := s.curRegion.faults ++
        [{ rank := faultRank s.cur.x s.cur.y s.cur.pe code.toNat, code := code.toNat, data1 := (s.src h [a] a).v }] })) ∧
      (m = .block → s.curTask.blk.isSome = true →
        exec (.trap h a code) s = .next ((s.markFired .block).faultTask s.cur.task code.toNat (s.src h [a] a).v)) ∧
      (n < 0x1000 → s.csrCheck n false 0 = none →
        exec (.csrr h d num) s = .next (s.gives h 1 (ResW.one d (Val.clean ((s.markFired m).peRead m n)) 0))) ∧
      (n < 0x1000 → s.csrCheck n true (s.src h [a] a).v = none → (s.src h [a] a).p = false →
        exec (.csrw h a num) s = .next (s.gives h 1 ((s.markFired m).peWrite m n (s.src h [a] a).v (s.lent h))))) ∧
    (0x1000 ≤ n → s.queried h [] (csrLat n) 1 [] pp s' → s.csrCheck n false 0 = none →
      exec (.csrr h d num) s = .next (s'.answer m (ResW.one d (Val.clean (s'.csrRead s'.cur.die s'.cur.ctx n)) 0))) ∧
    (0x1000 ≤ n → s.releases h [a] (csrLat n) 0 [x] pp s' → s.csrCheck n true x.v = none → x.p = false →
      exec (.csrw h a num) s = .next (s'.csrWrite s'.cur.die s'.cur.ctx n x.v false)) ∧
    (s.sends h [] 1 0 [] pp s' →
      exec (.brk h imm) s = .next (if s'.debugged s'.cur.ctx then s'.haltHere m (BitVec.ofNat 64 imm.toNat) else s') ∧
      exec (.cfginvAll h) s = .next (s'.cfgSend s'.cur.ctx none)) ∧
    (s.sends h [a] 1 0 [x] pp s' →
      (x.p = false → exec (.halt h a) s = .next (s'.haltHere m x.v)) ∧
      (x.p = false → x.v.toNat < 1024 → exec (.cfginv h a) s = .next (s'.cfgSend s'.cur.ctx (some x.v.toNat))) ∧
      (let on : Prop := s'.capState s'.cur.die = 1 ∧ (s'.dcsrAt s'.cur.die 0x8E90).bit s'.cur.ctx = true
       let place : Word := match m with
        | .timed => s'.nodeTag
        | .block => BitVec.ofNat 64 s'.curBlk.addr
       (on → exec (.trace h a imm) s = .next (s'.capture s'.cur.die 1 s'.cur.ctx (flagNo x.p 0 + flagNo (m == .block) 1) imm.toNat
          place x.v)) ∧
       (¬ on → exec (.trace h a imm) s = .next s'))) ∧
    (s.sends h [a] 16 1 [x] pp s' → s.sysCtx s.cur.ctx s.cur.die = true → x.p = false → x.v.toNat < 16 →
      let k := s'.mislKey x
      let isl := s'.misl k
      let gives (t : State) (r : Nat) : Out := .next (t.sendResult m (ResW.one d { v := BitVec.ofNat 64 r, p := pp } 0))
      (isl.lane.isSome = true → exec (.stestRun h d a) s = gives s' 1) ∧
      (isl.lane = none → isl.st = .faulted ∨ isl.st = .retired → exec (.stestRun h d a) s = gives s' 2) ∧
      (isl.lane = none → isl.st ≠ .faulted → isl.st ≠ .retired →
        exec (.stestRun h d a) s = gives (s'.setTestOf k { s'.testOf k with asked := true }) 0)) ∧
    (s.queried h [a] 16 1 [x] pp s' → x.p = false → x.v.toNat < 16 →
      exec (.stestSt h d a) s = .next (s'.answer m (ResW.one d { v := (s'.testOf (s'.mislKey x)).word, p := pp } 0)))

/-! ### What happens of itself: tasks, arrivals, engines, regions, tables, contexts, queues -/

/-- R240, R246, R250, R254, R256: a running task without a block maps the block at its address; a finished block commits; a
posted task goes to an executor that runs none; a task that has run 50,000 cycles beside a waiting one of its priority leaves at
its next boundary; a card whose work has ended and is performed leaves the table of cards (R253).
Where a clause goes through what the rules leave open, it shows the model's choice (log entries 19, 68, 72 and 90). -/
def Obligations.TaskEventsTakeEffect : Prop :=
  ∀ (s s1 s2 : State) (task die tile : Nat) (hw : List Word) (hdr : Bhdr) (ws : List Word) (va : Word) (ctx : Nat),
    let t := s.task task
    let n := t.addr
    let home := t.tile.getD 0
    let free : Prop := t.tile.isSome = true ∧ t.st = .running ∧ t.blk = none
    (free →
      (2 ^ 48 ≤ n → exec (.blockFetchMap task) s = .next (s.abortTask task ftAddr)) ∧
      (n < 2 ^ 48 → n % 8 ≠ 0 → exec (.blockFetchMap task) s = .next (s.abortTask task ftAlign)) ∧
      (n < 2 ^ 48 → n % 8 = 0 → s.fetchWords (tileDie home) t.ctx n 1 = (.ok hw, s1) →
        (decodeBhdr (hw.getD 0 0) = none → exec (.blockFetchMap task) s = .next (s1.abortTask task ftOpc)) ∧
        (decodeBhdr (hw.getD 0 0) = some hdr → s1.fetchWords (tileDie home) t.ctx (n + 8) (hdr.count.toNat + 1) = (.ok ws, s2) →
          (blockOk hdr ws = false → exec (.blockFetchMap task) s = .next (s2.abortTask task ftOpc)) ∧
          (blockOk hdr ws = true → ∃ u : State, ∃ b : Blk, exec (.blockFetchMap task) s = .next u ∧ (u.task task).blk = some b ∧
            b.addr = n ∧ b.hdr = hdr ∧ b.words = ws ∧ b.fired = [] ∧ b.exit = none ∧ s.cycle + 4 ≤ b.start)))) ∧
    (∀ b, t.blk = some b → s.blockDone b = true → t.committing = false →
      (b.exit = none → 2 ^ 48 ≤ b.fall → exec (.blockCommit task) s = .next (s.abortTask task ftAddr)) ∧
      ((b.exit ≠ none ∨ b.fall < 2 ^ 48) →
        let u := s.setTask task { t with commit := b.stores, sending := false, hdone := false, cfault := none, committing := true }
        exec (.blockCommit task) s = .next ((u.ringsCommit task).soon (.commitStep task)))) ∧
    (∀ k p u, tileDie tile = die → s.nextPosted die = some (k, p) → s.taskOn tile = none → s.isExecutor tile = true →
      let n := pageOf (tileX tile) (tileY tile)
      (s.setPage die n { s.page die n with lctx := p.ctx, lv := true }).readFrame k tile = .ok u →
      (tabFind u.cards p.card).bind Card.ended = none →
      exec (.taskDispatch die tile) s = .next (u.setTask k { u.task k with
        st := .running, tile := some tile, since := s.cycle, requeue := none, blk := none, committing := false })) ∧
    (t.st = .running → t.requeue = none → t.since + 50000 ≤ s.cycle →
      (∃ p ∈ s.tasks, s.waitsOn p.2 = true ∧ p.2.die = t.dieNow ∧ p.2.prio = t.prio) →
      exec (.timeSliceExpiry task) s = .next (s.setTask task { t with requeue := some false })) ∧
    (∀ k c g, (s.cards.find? fun p => p.2.ctx == ctx && p.2.va == va.toNat && p.2.ended.isSome) = some (k, c) → c.sib = some g →
      c.task.any s.taskOut = false →
      let s0 := { s with cards := tabDel s.cards k }
      let e := c.ended.getD (3, 0)
      exec (.cardFinish ctx va) s = .next (((match tabFind s0.groups g.1 with
        | some x => { s0 with groups := tabPut s0.groups g.1 { x with settled := setIns x.settled g.2 } }
        | none => s0).graphEnd ctx c.graph (ofCst e.1) e.2).soon (.event (.groupCollection g.1)))) ∧
    (∀ k c, (s.cards.find? fun p => p.2.ctx == ctx && p.2.va == va.toNat && p.2.ended.isSome) = some (k, c) → c.sib = none →
      c.task.any s.taskOut = false → (c.ended.getD (3, 0)).1 ≠ 3 →
      let e := c.ended.getD (3, 0)
      let s0 := { s with cards := tabDel s.cards k }
      ∀ u, s0.vStore c.die 2 ctx (c.va + 2) (bytesOfNat 1 e.1) false = .ok u →
        exec (.cardFinish ctx va) s = .next ((u.wakeCard c.pa).graphEnd ctx c.graph (ofCst e.1) e.2))

/-- R66, R127, R134, R149, R151, R155: a reply arrives at its region or block; of the requests that have come to a tile or a partition the
first that nothing holds is performed next, a D request once its channel has served it; a slot of an arbiter serves nothing in slots 0 and
16, else the one request that waits, and of its owner's and another's the owner's alone; a stream with no beat left ends.
Where a clause goes through what the rules leave open, it shows the model's choice (log entry 5). -/
def Obligations.ArrivalEventsTakeEffect : Prop :=
  ∀ (s : State) (tile chan die part : Nat),
    (∀ q, (s.replies.find? fun r => r.tile == tile && decide (r.at_ ≤ s.cycle)) = some q →
      let s1 := { s with replies := s.replies.erase q }
      exec (.externalResultArrival tile) s = .next (match q.form with
        | .timed => s1.arriveTimed q
        | .block => s1.arriveBlock q)) ∧
    (∀ r, s.firstAt (.tile tile) [] s.reqs = some r →
      exec (.scratchAccessPerformed tile) s = .next { s with agenda := .perform r :: s.agenda }) ∧
    (∀ r, s.firstAt (.part part) [] s.reqs = some r →
      exec (.pdbAccessPerformed part) s = .next { s with agenda := .perform r :: s.agenda }) ∧
    (∀ r before after, s.reqs = before ++ r :: after → r ∉ before →
      ((before ++ after).any fun q => q.place == .chan tile chan) = false → r.place = .chan tile chan → r.at_ ≤ s.cycle → r.store = true →
      r.served = true → s.asleep r = false → s.mustWait before r = false →
      exec (.dRequestPerformed tile chan) s = .next { s with agenda := .perform r :: s.agenda }) ∧
    (let k := s.cycle % 1024 / 32
     let here := s.reqs.filter fun r => !r.served && decide (r.at_ ≤ s.cycle) && (match r.place with
       | .chan _ c => c == 16 * die + chan
       | _ => false)
     ((s.cycle % 32 ≠ 0 ∨ k = 0 ∨ k = 16) → exec (.arbiterSlotStart die chan) s = .next s) ∧
     (s.cycle % 32 = 0 → k ≠ 0 → k ≠ 16 →
       (∀ r, here = [r] → exec (.arbiterSlotStart die chan) s = .next (s.serve r)) ∧
       (∀ l r q, s.slotOwner (16 * die + chan) k = some l → (here = [r, q] ∨ here = [q, r]) → s.reqLane r = some l → s.reqLane q ≠ some l →
         exec (.arbiterSlotStart die chan) s = .next (s.serve r)))) ∧
    (∀ c, tabFind (s.tile tile).chans chan = some c → c.left = some 0 →
      let m := s.tile tile
      let t := s.setTile tile { m with chans := tabDel m.chans chan }
      exec (.sequencerStreamEnd tile chan) s = .next (t.setTile tile (t.tile tile).settle))

/-- R172 to R176, R184, R185, R202, R203, R207, R212: a matrix command starts once nothing before it blocks it, works row by row and
ends in its number's order; a stream command starts by priority, moves bursts in turn and ends; a received frame goes to the first
channel of its port and type, is counted where the channel is full, and goes to the host where there is none. Where a clause goes
through what the rules leave open, it shows the model's choice (log entries 5, 16, 70, 71 and 92). -/
def Obligations.EngineEventsTakeEffect : Prop :=
  ∀ (s : State) (isl path num col port etype : Nat) (payload : List Byte),
    let m := s.misl isl
    let v := s.sisl isl
    (∀ c before, firstOf path [] m.queue = some (c, before) → m.st ≠ .saving → m.st ≠ .testing →
      (before.any fun e => e.blocks c) = false →
      (∀ e, s.mxCheck isl c = some e → exec (.matrixCommandStart isl path) s = .next (s.putMcmd isl
        (if c.takesPacket = true ∧ m.st = .owned then { c with started := true, fault := some e, at_ := s.cycle }
         else { c with started := true, fault := some e, done := true, admitted := true, at_ := s.cycle }))) ∧
      (s.mxCheck isl c = none → (∀ h d a, c.i ≠ .mxswb h d a) → exec (.matrixCommandStart isl path) s = .next (s.putMcmd isl
        { c with started := true, at_ := s.cycle + (match c.i with
          | .mxldb _ _ _ _ => 31
          | .mxrest _ _ _ _ => 63
          | .mxmacPfill _ _ _ _ _ => 2
          | .mxst _ _ _ _ _ _ _ => (m.rowLen + 255) / 256 - 1
          | _ => 0) })) ∧
      (∀ h d a, s.mxCheck isl c = none → c.i = .mxswb h d a →
        exec (.matrixCommandStart isl path) s = .next (((s.setMisl isl
          { m with front := m.back, back := m.front, frontIx := m.backIx, backIx := m.frontIx }).mxEnd isl c).startPath isl path 15))) ∧
    (∀ c, (m.queue.find? fun c => c.num == num && c.done && c.flight.isEmpty && decide (c.at_ ≤ s.cycle)) = some c →
      exec (.matrixCommandComplete isl num) s = .next (s.mxEnd isl c)) ∧
    (let s1 := s.setMisl isl (m.land s.cycle)
     ∀ t, (((s1.misl isl).ready s.cycle).findSome? fun c => if s1.pShut isl c then none else s1.mxStep isl c) = some t →
      exec (.matrixRowUpdate isl) s = .next t) ∧
    (∀ c row n, (m.queue.findSome? fun c => c.flight.head?.map fun r => (c, r)) = some (c, row) →
      ((List.range 128).find? fun n => m.phys n == col) = some n →
      let r := s.retireCol isl n row.row c.num
      (r.1 = true → ∃ d ≤ 512, exec (.residueMismatch isl col) s
        = .next ({ r.2 with free := r.2.free + 1 }.setMisl isl { r.2.misl isl with
            queue := (r.2.misl isl).queue.map fun (e : MCmd) => if e.flight.isEmpty then e
              else { e with at_ := e.at_ + d, flight := e.flight.map fun (x : MRow) => { x with due := x.due + d } } })) ∧
      (r.1 = false → exec (.residueMismatch isl col) s = .next ((s.setMisl isl { m with
          st := .faulted
          queue := m.queue.map fun (e : MCmd) => if (m.queue.dropWhile fun x => x != c).contains e then
            { e with started := true, fault := some ftCheck, done := true, admitted := true, at_ := s.cycle, flight := [], out := [] }
            else e }).umberEvent evFault m.owner ftCheck
          (BitVec.ofNat 64 (isl % 16 * 2 ^ 16 + col * 2 ^ 8 + row.row)) (BitVec.ofNat 64 c.num) (isl / 16)))) ∧
    (∀ c, v.cmds.filter (s.mayStart isl) = [c] → (v.cmds.filter fun c => c.started && !c.done).length < 96 →
      (∀ e, s.strCheck c = .error e → exec (.streamCommandStart isl) s = .next (s.putCmd isl
        { c with started := true, ports := c.ports.map fun _ => Bound.none_, fault := some e })) ∧
      (∀ c1 b o, s.strCheck c = .ok c1 → (c1.port 1).e = .mem b o →
        exec (.streamCommandStart isl) s = .next ((s.putCmd isl c1).cardRuns c1.card))) ∧
    (∀ c, ((s.turns isl).find? fun c => (s.strStep isl c).isSome) = some c →
      let edge := (c.sent / 1024 + 1) * 1024
      let goal := if s.ctxState c.ctx = ctxSaving ∧ edge < c.sent + 64 then edge else c.sent + 64
      exec (.streamBurst isl) s = .next (((s.setSisl isl { v with last := v.last + 1 }).putCmd isl { c with turn := v.last + 1 }).strRun
        isl c.ctx c.num goal 4096)) ∧
    (∀ c, v.cmds.find? SCmd.finished = some c → exec (.streamCommandComplete isl) s = .next (s.streamEndCmd isl c false)) ∧
    (let hit (n : Nat) : Bool := (s.pkgCsr (0x8400 + 8 * port + n)).bit 32 && (s.pkgCsr (0x8400 + 8 * port + n)).bits 0 16 == etype
     payload.length ≤ 9198 → s.ethDown.contains port = false →
      ((∀ n < 8, hit n = false) → exec (.ingressFrameReceived port etype payload true) s
        = .next { s with hostFrames := s.hostFrames ++ [(s.tb.time, payload)] }) ∧
      (∀ n < 8, hit n = true → (∀ k < n, hit k = false) →
        let r := frameRecord s.tb.time etype port payload
        let q := tabGet [] s.frames (8 * port + n)
        let used := q.foldl (fun a f => a + f.length) 0
        used + r.length ≤ 65536 → exec (.ingressFrameReceived port etype payload true) s
          = .next { s with frames := tabPut s.frames (8 * port + n) (q ++ [r]) }))

/-- R220 to R225, R295 to R299: the allocator looks up the launches of a die whose decision has come, grants leave, and places the head of the
highest waiting priority where there is a place, one in a cycle; a region whose configuration is complete is armed; a region
whose counters have passed N drains; a quiet one completes after 16 cycles; the head of a FIFO that has waited 10,000 cycles makes
room; a region begins its move to free pages.
Where a clause goes through what the rules leave open, it shows the model's choice (log entries 42, 46, 51 and 78). -/
def Obligations.RegionEventsTakeEffect : Prop :=
  ∀ (s : State) (die prio ctx h px py : Nat),
    let atDie := s.dieOf ctx h
    let r := s.regionOn ctx h atDie
    (let s1 := (s.waiting die fun q => !q.ready && decide (q.due ≤ s.cycle)).foldl (fun u e => u.prepare e.1 e.2 die) s
     let s2 := s1.grantLeaves die 64
     let s3 := (s2.waiting die fun q => q.ready && q.was == .ready).foldl (fun u e => u.goAhead e.1 e.2 die) s2
     (tabFind s3.placed die = some s3.cycle → exec (.placementGrant die) s = .next (s3.lentOver die)) ∧
     (∀ k e o, tabFind s3.placed die ≠ some s3.cycle → 1 ≤ k → k ≤ 5 → (∀ p, 1 ≤ p → p < k → s3.line die p = []) →
       (s3.line die k).head? = some e → s3.findPlace die e.2.2.setw e.2.2.seth e.2.2.ports e.2.2.isl = some o →
       (s3.regionOn e.1 e.2.1 die).st ≠ .saved →
       exec (.placementGrant die) s
         = .next (({ s3 with placed := tabPut s3.placed die s3.cycle }.placeAt e.1 e.2.1 die o.1 o.2 .loading).lentOver die))) ∧
    (let one (t : State) (d : Nat) : State :=
      let q := t.regionOn ctx h d
      if q.st = .loading ∧ q.due ≤ t.cycle then (t.writePages ctx h d).arm ctx h d else t
     exec (.configCompleteWave ctx h) s = .next ((List.range 4).foldl one s)) ∧
    (∀ t : State, ∀ d : Nat, ((t.arm ctx h d).regionOn ctx h d).st = .arming ∧ ((t.arm ctx h d).regionOn ctx h d).t = 0) ∧
    (let one (t : State) (d : Nat) : State :=
      let q := t.regionOn ctx h d
      if q.st = .running ∧ q.pastEnd then
        let ends (c : Tab Chan) : Tab Chan := c.filter fun e => !(e.2.timed && e.2.left == none)
        let t1 := { t with tiles := t.tiles.map fun (p : Nat × MemTile) => if q.holds p.1 then (p.1, { p.2 with chans := ends p.2.chans }) else p }
        let t2 := (t1.setRegion ctx h d { q with st := .draining }).syncPages ctx h d
        if t2.quietNow ctx h d then t2.setRegion ctx h d { t2.regionOn ctx h d with quiet := some t.cycle } else t2
      else t
     exec (.drainToken ctx h) s = .next ((List.range 4).foldl one s)) ∧
    (let one (t : State) (d : Nat) : State :=
      match (t.regionOn ctx h d).quiet with
      | some q => if (t.regionOn ctx h d).st = .draining ∧ q + 16 ≤ t.cycle ∧ t.quietNow ctx h d then t.launchDone ctx h d else t
      | none => t
     exec (.quiescenceReport ctx h) s = .next ((List.range 4).foldl one s)) ∧
    (∀ e o t, (s.line die prio).head? = some e →
      let q := e.2.2
      q.waitAt + 10000 ≤ s.cycle → q.ready = true → (∀ p, 1 ≤ p → p ≤ 5 → p < prio → s.line die p = []) →
      (s.regions.any fun p => p.2.die == die && p.2.moving.isSome) = false →
      q.setw * q.seth ≤ ((List.range 64).filter fun n => (s.page die n).st == .free && !(s.page die n).retp).length →
      s.findPlace die q.setw q.seth q.ports q.isl = none → s.compactPlace die q.setw q.seth = some o →
      s.clearRect die (rectPages o.1 o.2 q.setw q.seth) (s.onRect die o.1 o.2 q.setw q.seth) = some t →
      exec (.allocatorHeadTimeout die prio) s = .next t) ∧
    (s.movable r = true → px + r.setw ≤ 8 → py + r.seth ≤ 8 → portsFit r.ports r.isl px py = true →
      ((rectPages px py r.setw r.seth).all fun n => (s.page atDie n).st == .free && !(s.page atDie n).retp) = true →
      exec (.regionMove ctx h px py) s = .next
        ((((rectPages px py r.setw r.seth).foldl (fun t n => t.take atDie n ctx h .moving) s).setRegion ctx h atDie
          { r with moving := some (px, py) }).syncPages ctx h atDie))

/-- R266 to R270, R278 to R287: a tick advances the schedule time and the running tables; a lost reference holds the timebase and
reports it; an armed table starts at its tick; an entry launches its lane's configuration, an entry not done at its deadline fails its
lane, and a mode-change point switches, acknowledges or steps. Where a clause goes through what the rules leave open, it shows the
model's choice (log entries 20 and 76). -/
def Obligations.TableEventsTakeEffect : Prop :=
  ∀ (s : State) (die slot entry key : Nat) (t : STab) (ent : SEnt) (x : SLane),
    (s.tb.sentHold = true → exec .tickBoundary s = .next s) ∧
    (s.tb.sentHold = false → 1 < s.tb.tick → ∃ u : State, exec .tickBoundary s = .next u ∧ u.stc = s.stc + 1 ∧
      u.tabs = s.tabs.map fun e => if e.2.runs then (e.1, e.2.advance 1) else e) ∧
    (s.tb.lock = true → exec .timebaseLockLoss s
      = .next ({ s with tb := { s.tb with lock := false, hold := true } }.hostEvent 6 0 0 0 0)) ∧
    (s.tableOn? die slot = some (key, t) →
      (t.st = .armed → s.tb.run = true → t.startAt ≤ s.stc.toNat → exec (.tableArmedStart die slot) s = .next (s.runTable key)) ∧
      (t.ents[entry]? = some ent → t.runs = true →
        exec (.laneReclaimStart die slot entry) s
          = match t.lanes[ent.lane]? with
            | none => .next s
            | some x => .next ((s.onTab key fun t => t.onLane ent.lane fun x => { x with recl := true }).reclaim t ent.lane
                (if x.recl then 1 else 0))) ∧
      (t.ents[entry]? = some ent → t.runs = true →
        (t.lanes[ent.lane]? = some x →
          (x.run = some entry → s.laneReady x = false → exec (.tableDeadlineOverrun die slot entry) s
            = .next (((s.reportOverrun t x ent.lane entry).stopLane x ftOverrun).laneFail key ent.lane entry ftOverrun)) ∧
          (x.fall.isSome = true → exec (.fallbackBudgetEnd die slot entry) s
            = .next ((if s.laneReady x then s else (s.stopLane x ftOverrun).turnAmber key ent.lane).onTab key
                fun t => t.onLane ent.lane fun x => { x with fall := none }))))) ∧
    (let s0 := (s.closePeriod key).onTab key fun t => t.onLane ent.lane fun x => { x with recl := false }
     s.tableOn? die slot = some (key, t) → t.ents[entry]? = some ent → ∀ t0, tabFind s0.tabs key = some t0 → t0.runs = true →
      (t0.ents[entry]? = some ent → t0.lanes[ent.lane]? = some x → t0.pos = ent.start →
        (ent.test = true → exec (.tableEntryStart die slot entry) s
          = .next (s0.soon (.event (.selfTestStart (x.isl / 16) false (x.isl % 16))))) ∧
        (ent.test = false → ent.nocfg = false → x.broken = none →
          let q := (s0.reclaim t0 ent.lane 2).laneLaunch key x ent.cfg ent.trips 0
          q.1 = none → exec (.tableEntryStart die slot entry) s
            = .next (q.2.onTab key fun t => t.onLane ent.lane fun x => { x with run := some entry })))) ∧
    (let s0 := s.closePeriod key
     s.tableOn? die slot = some (key, t) → ∀ t0, tabFind s0.tabs key = some t0 → t0.runs = true →
      (∀ m, (t0.ents.find? fun e => e.mcp && e.start == t0.pos) = some m →
        let s2 := s0.pointSteps key t0 m.stepmax
        (t0.dies.any fun d => decide (85 < s2.caseTemp d)) = false →
          (t0.switch = none → exec (.modeChangePoint die slot) s = .next (s2.onTab key fun u =>
            if u.ack && u.overAt != some s.stc.toNat then
              { u with ack := false, switch := none, st := if u.lanes.any (fun x => x.broken.isSome) then u.st else .running }
            else { u with switch := none })) ∧
          (∀ k to_, t0.switch = some k → (s2.tabs.find? fun e => e.2.slot == k && e.2.dies == t0.dies && e.2.st == .installed) = some to_ →
            exec (.modeChangePoint die slot) s = .next (s2.switchTo key to_.1))))

/-- R332, R333, R340, R347 to R350: the drain and save limits climb the context's ladder; a context with nothing left in flight and its
islands saved is SAVED, a restored one ACTIVE again, and an ended one FREE. Where a clause goes through what the rules leave open, it shows the model's
choice (log entries 52 and 55). -/
def Obligations.ContextEventsTakeEffect : Prop :=
  ∀ (s : State) (ctx : Nat),
    let l := s.ladder ctx
    (s.ctxState ctx = ctxSaving → s.workLeft ctx = true →
      (l.rung = 1 → l.since + (s.pkgCsr 0x8A10).toNat ≤ s.cycle →
        let s1 := (s.ownRegions ctx fun r => r.st == .loading || r.st == .arming).foldl (fun u e => u.abandonLoad ctx e.1 e.2) s
        let s2 := (s1.ownRegions ctx fun r => r.st == .running || r.st == .draining || r.st == .halted).foldl (fun u e =>
          (u.setRegion ctx e.1 e.2 { u.regionOn ctx e.1 e.2 with saving := true }).syncPages ctx e.1 e.2) s1
        exec (.drainLimitExpiry ctx) s = .next (s2.climb ctx 2)) ∧
      (l.rung = 2 → l.since + (s.pkgCsr 0x8A18).toNat ≤ s.cycle →
        exec (.saveLimitExpiry ctx) s
          = .next (((s.ownRegions ctx fun r => r.saving).foldl (fun s e => s.discardLaunch ctx e.1 e.2) s).climb ctx 3))) ∧
    (s.ctxState ctx = ctxSaving →
      let s1 := s.drainOwn ctx
      let s2 := s1.stopTasks ctx
      (s1.ctxStops ctx = false → exec (.contextSaveComplete ctx) s = .next s1) ∧
      (s1.ctxStops ctx = true → exec (.contextSaveComplete ctx) s = .next (
        let isls := s2.ownIslands ctx
        if s2.stopped ctx = false then s2
        else if isls.all fun k => (s2.misl k).st == .saving && decide ((s2.misl k).until_ ≤ s2.cycle) then s2.finishSave ctx
        else (isls.filter fun k => (s2.misl k).st == .owned).foldl (fun u k => u.beginIslSave k false) s2))) ∧
    (s.ctxState ctx = ctxRestoring → s.islSaves = [] → s.owed = [] → (s.ownRegions ctx fun r => r.st == .saved) = [] →
      exec (.contextRestoreComplete ctx) s
        = .next (((s.ctxQueues ctx).foldl (fun t q => t.restoreQueue q) (s.toCtx ctx ctxActive)).endCancelled ctx)) ∧
    (s.ctxState ctx = ctxEnding → exec (.contextTeardownComplete ctx) s = .next ((s.freshCtx ctx).toCtx ctx ctxFree))

/-- R316, R321, R323, R326, R335: a queue whose publication limit has passed stops; a slot goes to a queue that asks, a resident idle
one giving way; 1 ms after a context stalls its waiting queues stop, and its frozen regions and waiting tasks end; a wait that holds
completes its packet. Where a clause goes through what the rules leave open, it shows the model's choice (log entries 26 and 28). -/
def Obligations.QueueEventsTakeEffect : Prop :=
  ∀ (s : State) (q ctx t : Nat),
    (let lim := (s.qField q 0x28 4).toNat
     (s.qRun q).pub = some t → s.qState q = qsReady → lim ≠ 0 → t + 1000 * lim ≤ s.cycle → s.published q = false →
      ∃ hdr, exec (.publicationTimeout q) s = .next (s.queueError q 2 0 hdr (s.qRdx q))) ∧
    (s.asks q = true →
      ((s.residents (s.qDie q)).length < 64 → exec (.queueSlotGrant q) s = .next (s.giveSlot q)) ∧
      (∀ v, 64 ≤ (s.residents (s.qDie q)).length → s.toDemote (s.qDie q) = some v →
        exec (.queueSlotGrant q) s = .next ((s.demote v).giveSlot q))) ∧
    exec (.demotedQueueCheck q) s = .next (s.demotedCheck q) ∧
    (tabFind s.stalls ctx = some t → t + 1000000 ≤ s.cycle → s.stalled ctx = true →
      let stop (u : State) (q : Nat) : State := match (u.qRun q).wait with
        | some w => u.queueError q 3 0 w.hdr (u.qRdx q - 1)
        | none => u
      let s1 := (s.ctxQueues ctx).foldl stop { s with stalls := tabDel s.stalls ctx }
      let s2 := (s1.regions.filter fun p => p.1 / 4 / 256 == ctx && p.2.live && p.2.frozen).foldl
        (fun u p => u.stopLaunch ctx (p.1 / 4 % 256) p.2.die stAborted qerrStall) s1
      exec (.stallDetected ctx) s = .next ((s2.tasks.filter fun p => p.2.ctx == ctx &&
        ((p.2.st == .waiting && p.2.waitCard.isSome) || (p.2.st == .running && p.2.stuck))).foldl
          (fun u p => u.abortTask p.1 qerrStall) s2)) ∧
    (∀ w, (s.qRun q).wait = some w → s.qState q = qsWaiting → s.resident q = true →
      (∀ c, s.waitHolds q w = .error c → exec (.waitConditionMet q) s = .next (s.queueError q 4 c w.hdr (s.qRdx q - 1))) ∧
      (s.waitHolds q w = .ok true → exec (.waitConditionMet q) s
        = .next (((s.onQueue q fun r => { r with wait := none, idle := s.cycle }).toState q qsReady).packetDone q w.hdr 0 plainDone
            (s.qRdx q - 1))))

/-- R323 to R326, R328: the packet that a queue dispatches next takes the effect of its type: each type's state `t`, from
which the queue goes on (RDX, the shadow, the deficit and the pipeline).
Where a clause goes through what the rules leave open, it shows the model's choice (log entries 27 and 77). -/
def Obligations.PacketsTakeEffect : Prop :=
  ∀ (s s1 s2 t : State) (q k : Nat) (ws img : List Word) (pa : Nat),
    let p : Pkt := { hdr := ws.getD 0 0, ws := ws.drop 1 }
    let ctx := s1.qCtx q
    let w := p.w
    let dispatched (u : State) : Out :=
      .next (u.dispatched q (if p.typ = 0 then 0 else 1) (if p.typ = 0 then none else some (p.ws ++ (s1.qShadow q).drop 7)))
    let ended (u : State) : State := u.packetDone q p.hdr (w 7) plainDone (s1.qRdx q)
    let refused (c : Nat) : State := s1.packetDone q p.hdr (w 7) (complWord stAborted c 0 0) (s1.qRdx q)
    s.mayDispatch q = true → s.qPeek q = (.ok (some ws), s1) → s1.headBad q p = none → unusedSet p p.typ = false →
    (p.hdr.bit 18 = true ∨ p.typ = 5 ∨ p.typ = 6 → s1.openJobs q = []) →
      (p.typ = 0 → exec (.nopPacket q) s = dispatched (s1.plain q p)) ∧
      (p.typ = 1 → s1.launchCode q p = none → (s1.qRun q).retry ≤ s1.cycle → (s1.cinvs.any fun c => c.who.ctx == 64 && c.ctx == ctx) = false →
        s1.openJob q p = some (k, s2) →
        let f := w 4
        let r := s2.accept { ctx := ctx, op := w 1, n := (w 2).toNat, recAddr := (w 3).toNat, isSeq := f.bit 0,
                             die := s1.physDie ctx ((w 1).bits 25 2), prio := s1.qPrio q, queue := q, job := some k, graph := none,
                             card := none, inl := if f.bit 1 then some (s1.inlineRecord q f) else none, lrel := f.bit 2,
                             lisl := if f.bit 19 then some (f.bits 12 4) else none }
        r.1 = 0 → exec (.launchPacket q) s = dispatched r.2.2) ∧
      (∀ i, p.typ = 3 → (w 1).bits 13 51 = 0 → copyInstr ((w 1).bits 0 8) ((w 1).bits 8 5) (w 4) = some i →
        s1.copyCode q i (w 2) (w 3) (w 4) = none → s1.csigBad q (w 7) = none →
        ((w 1).bits 0 8 = 0xD0 ∨ (w 1).bits 0 8 = 0xD7 ∨ (w 1).bits 0 8 = 0xD9 →
          exec (.copyPacket q) s = dispatched (ended (s1.copySetting q i (w 2) (w 3) (w 4)))) ∧
        (0xD1 ≤ (w 1).bits 0 8 → (w 1).bits 0 8 ≤ 0xD6 → s1.streamFull (8 * s1.qDie q + (w 2).bits 0 4) = false →
          s1.openJob q p = some (k, s2) →
          exec (.copyPacket q) s = dispatched (s2.streamAccept (8 * s1.qDie q + (w 2).bits 0 4) i ctx (w 2) (w 3) (w 4) (s1.qPrio q)
            (some k) none (feIssuer (s1.qDie q) ctx) none).2)) ∧
      (let kind := (w 1).bits 0 2
       let wt : QWait := { kind := kind, level := (w 1).bits 2 2, target := w 2, n := w 3, hdr := p.hdr }
       p.typ = 4 → (w 1).bits 4 60 = 0 →
        (kind = 0 ∧ (w 1).bits 2 2 = 0 ∧ (counterIdx (w 2)).isSome = true ∨
          kind = 1 ∧ (w 1).bits 2 2 = 0 ∧ s1.vaBad q (w 2) 8 8 false = none ∨
          kind = 2 ∧ identBad (w 2) ((w 1).bits 2 2) = false) →
        (s1.waitHolds q wt = .ok true → exec (.waitPacket q) s = dispatched (s1.plain q p)) ∧
        (s1.waitHolds q wt = .ok false → exec (.waitPacket q) s
          = dispatched ((s1.onQueue q fun r => { r with wait := some wt, idle := s1.cycle }).toState q qsWaiting))) ∧
      (p.typ = 5 →
        (∀ c, w 1 = 0 → counterIdx (w 2) = some c → (w 2).bits 11 3 = 3 →
          exec (.signalPacket q) s = dispatched ((s1.signal (ctx * 356 + c) (w 3).toNat).plain q p)) ∧
        (w 1 = 1 → s1.vaBad q (w 2) 8 8 true = none →
          s1.vStore (s1.qDie q) 2 ctx (w 2).toNat (bytesOfWord (w 3)) false = .ok s2 →
          exec (.signalPacket q) s = dispatched (s2.plain q p)) ∧
        (w 1 = 2 → exec (.signalPacket q) s = dispatched ((s1.sendEvent
          { kind := 8, code := 0, queue := q, ctx := ctx, die := s1.qDie q, tag := BitVec.ofNat 64 (p.hdr.bits 32 32),
            data0 := w 3, data1 := BitVec.ofNat 64 (s1.qRdx q) }).plain q p))) ∧
      (p.typ = 6 → (w 1).bits 6 58 = 0 → 1 ≤ (w 1).bits 0 4 → (w 1).bits 0 4 ≤ 4 → (w 2).bits 10 54 = 0 →
        exec (.fencePacket q) s = dispatched ((if (w 1).bit 4 then s1.cfgInvalidate ctx (if (w 1).bit 5 then none else some ((w 2).bits 0 10))
          else s1).plain q p)) ∧
      (p.typ = 7 → s1.tableCode q p = none →
        ((w 1).bits 0 3 = 0 → s1.vaBad q (w 2) 8 8 false = none → s1.readTable (s1.qDie q) ctx (w 2).toNat = (some img, s2) →
          let dies := (zstTab img p.slot).dies
          let s3 := dies.foldl (fun u d => u.allocate d) s2
          (s3.install p.slot img = .ok t → (dies.any fun d => tabFind s3.placed d == some s3.cycle) = false →
            exec (.tableInstall q) s = dispatched (t.packetDone q p.hdr (w 7) plainDone (s3.qRdx q))) ∧
          (∀ c, s3.install p.slot img = .error c →
            exec (.tableInstall q) s = dispatched (s3.packetDone q p.hdr (w 7) (complWord stAborted c 0 0) (s3.qRdx q)))) ∧
        (let runs (i : Instr) (r : Except Nat State) : Prop :=
          (r = .ok t → exec i s = dispatched (ended t)) ∧ (∀ c, r = .error c → exec i s = dispatched (refused c))
         ((w 1).bits 0 3 = 1 → runs (.tableStart q) (s1.startTable (s1.qDie q) p.slot (w 2).toNat)) ∧
         ((w 1).bits 0 3 = 2 → runs (.tableSwitch q) (s1.switchTable (s1.qDie q) p.slot)) ∧
         ((w 1).bits 0 3 = 3 → runs (.tableAcknowledge q) (s1.ackTable (s1.qDie q) p.slot)) ∧
         ((w 1).bits 0 3 = 4 → runs (.tableRemove q) (s1.removeTable (s1.qDie q) p.slot)))) ∧
      (p.typ = 8 → (w 1).bits 2 62 = 0 →
        (w 1 = 0 → 2 ≤ (w 2).toNat → (w 2).toNat ≤ 4 → exec (.modePrio q) s = dispatched ((s1.setQField q 0x13 1 (w 2).toNat).plain q p)) ∧
        (w 1 = 1 → w 2 = 0 → exec (.modePause q) s = dispatched
          ((s1.putQ q qsPaused ((s1.qStat q).bit 57) ((s1.qStat q).bits 48 8) ((s1.qStat q).bits 40 8)).plain q p)) ∧
        ((w 2).toNat < 2 ^ 32 →
          (w 1 = 2 → exec (.modePubto q) s = dispatched ((s1.setQField q 0x28 4 (w 2).toNat).plain q p)) ∧
          (w 1 = 3 → exec (.modeReslim q) s = dispatched ((s1.setQField q 0x2C 4 (w 2).toNat).plain q p)))) ∧
      (p.typ = 9 → (w 2).bits 1 63 = 0 → s1.vaBad q (w 1) 64 64 true = none → s1.csigBad q (w 7) = none →
        s1.openJob q p = some (k, s2) → s2.xlate (s1.qDie q) 2 ctx (w 1).toNat true = (.ok pa, t) →
        exec (.graphPacket q) s = dispatched ((t.decrement ctx (w 1).toNat pa
          { graph := none, job := some k, queue := q, die := s1.qDie q, prio := s1.qPrio q, finishing := false }).2.settleJob ctx k)) ∧
      (p.typ = 11 → (w 2).bits 4 60 = 0 → ((w 2).bit 2 = true → (w 2).bits 0 2 = 0) → ((w 2).bit 3 = true → w 1 = 0) →
        s1.csigBad q (w 7) = none →
        ((w 2).bit 3 = true → exec (.cancelPacket q) s = dispatched
          (((s1.openJobs q).foldl (fun u j => u.cancelJob ctx j) s1).packetDone q p.hdr (w 7) 0 (s1.qRdx q))) ∧
        ((w 2).bit 3 = false → identBad (w 1) ((w 2).bits 0 2) = false →
          let r := s1.cancelWork (s1.qDie q) ctx ((w 2).bits 0 2) (w 1) ((w 2).bit 2)
          exec (.cancelPacket q) s = dispatched (r.2.packetDone q p.hdr (w 7) (BitVec.ofNat 64 r.1) (s1.qRdx q))))

/-- R327, R336, R416 to R418: a DELTA merges the shadow and, without GO, is done; the eight DEBUG packets do their work on the queue's
context or complete with the code of their refusal. Where a clause goes through what the rules leave open, it shows the model's choice
(log entries 27 and 62). -/
def Obligations.DeltaAndDebugPacketsTakeEffect : Prop :=
  ∀ (s s1 t : State) (q : Nat) (ws : List Word),
    let p : Pkt := { hdr := ws.getD 0 0, ws := ws.drop 1 }
    let ctx := s1.qCtx q
    let w := p.w
    s.mayDispatch q = true → s.qPeek q = (.ok (some ws), s1) → s1.headBad q p = none →
      (p.typ = 2 → deltaBad p = false → (w 1).bit 40 = false → (p.hdr.bit 18 = true → s1.openJobs q = []) →
        exec (.deltaPacket q) s = .next ((s1.plain q p).dispatched q 0
          (some (mergeShadow (s1.qShadow q) ((w 1).bits 0 32) (p.ws.drop 1))))) ∧
      (p.typ = 10 → unusedSet p 10 = false → (p.hdr.bit 18 = true → s1.openJobs q = []) → s1.debugCode q p = none →
        let dispatched (u : State) : Out := .next (u.dispatched q 1 (some (p.ws ++ (s1.qShadow q).drop 7)))
        let runs (n : Nat) (i : Instr) (r : Except Nat State) : Prop :=
          (w 1).bits 0 3 = n →
            (r = .ok t → exec i s = dispatched (t.packetDone q p.hdr (w 7) plainDone (s1.qRdx q))) ∧
            (∀ c, r = .error c → exec i s = dispatched (s1.packetDone q p.hdr (w 7) (complWord stAborted c 0 0) (s1.qRdx q)))
        let on (f : DbgAt → Except Nat State) : Except Nat State := s1.onTarget q p f
        runs 0 (.debugAttach q) (s1.dbgAttach ctx q (w 3).toNat (w 4).toNat) ∧
        runs 1 (.debugDetach q) (.ok (s1.dbgDetach ctx)) ∧
        runs 2 (.debugHalt q) (on fun x => s1.dbgHalt ctx x) ∧
        runs 3 (.debugResume q) (on fun x => s1.dbgResume ctx x) ∧
        runs 4 (.debugReadState q) (on fun x => s1.dbgRead (s1.qDie q) ctx x (dbgSel (w 3)) (w 4).toNat (w 5).toNat) ∧
        runs 5 (.debugWriteState q) (on fun x => s1.dbgWrite (s1.qDie q) ctx x (dbgSel (w 3)) (w 4).toNat (w 5).toNat) ∧
        runs 6 (.debugSetBreakpoint q) (s1.dbgSet ctx (w 3).toNat (w 4).toNat) ∧
        runs 7 (.debugClearBreakpoint q) (.ok (s1.dbgClear ctx (w 3).toNat (w 4).toNat)))

/-- R325, R326, R328: a packet whose version, type or header is wrong stops its queue with that error and its header. -/
def Obligations.BadHeadersStopTheirQueue : Prop :=
  ∀ (s s1 : State) (q : Nat) (ws : List Word),
    let p : Pkt := { hdr := ws.getD 0 0, ws := ws.drop 1 }
    let stops (i : Instr) (err code : Nat) : Prop := exec i s = .next (s1.queueError q err code p.hdr (s1.qRdx q))
    let head (err code : Nat) : Prop :=
      (p.typ = 0 → stops (.nopPacket q) err code) ∧ (p.typ = 1 → stops (.launchPacket q) err code) ∧
      (p.typ = 2 → stops (.deltaPacket q) err code) ∧ (p.typ = 3 → stops (.copyPacket q) err code) ∧
      (p.typ = 4 → stops (.waitPacket q) err code) ∧ (p.typ = 5 → stops (.signalPacket q) err code) ∧
      (p.typ = 6 → stops (.fencePacket q) err code) ∧ (p.typ = 9 → stops (.graphPacket q) err code) ∧
      (p.typ = 11 → stops (.cancelPacket q) err code) ∧ (12 ≤ p.typ → stops (.nopPacket q) err code)
    let ver := (s1.qField q 0x14 1).toNat
    s.mayDispatch q = true → s.qPeek q = (.ok (some ws), s1) →
      (p.ver = 0 ∨ ver < p.ver → head 5 0) ∧
      (p.ver ≠ 0 → p.ver ≤ ver → 12 ≤ p.typ → head 1 0) ∧
      (p.ver ≠ 0 → p.ver ≤ ver → p.typ < 12 → (p.hdr.bits 20 12 ≠ 0 ∨ p.hdr.bit 17 = true) → head 4 0)

/-! ### Control registers, contexts, links, boot and test -/

/-- R316, R317, R329, R337, R339, R340, R349, R350: what QCTL and CTXCTL do with a queue and a context in the states they act on, and that
in any other state they change nothing. Where a clause goes through what the rules leave open, it shows the model's choice (log
entries 26, 52, 54, 61 and 84). -/
def Obligations.QueueAndContextControlTakesEffect : Prop :=
  ∀ (s : State) (q ctx map : Nat) (clrsh host : Bool) (w : Word),
    let st := s.ctxState ctx
    let stat := s.ctxStat ctx
    (s.tableOn = true → q < 4096 → tabFind s.queues q = none →
      let ver := (s.qField q 0x14 1).toNat
      (ver = 0 → exec (.qctlEnable q) s = .next (s.setQstat q (qstatWord 0 0 false false 5 0))) ∧
      (ver ≠ 0 → s.descBad q = true → exec (.qctlEnable q) s = .next (s.setQstat q (qstatWord 0 0 false false 4 0))) ∧
      (ver ≠ 0 → s.descBad q = false →
        let s1 := s.setQField q 0x14 1 (min ver 2)
        let s2 := s1.dStore (s1.descAt q + 0x38) (List.replicate 456 0) false
        exec (.qctlEnable q) s = .next (((s2.setQRun q { QRun.init with idle := s.cycle, out := s.cycle }).setQstat q
          (qstatWord qsReady 0 false false 0 0)).setRdx q 0))) ∧
    (s.agenda.any Act.isStage = true → exec (.qctlDisable q) s = .next (s.later (.event (.qctlDisable q)))) ∧
    (s.agenda.any Act.isStage = false → (tabFind s.queues q).isSome = true →
      exec (.qctlDisable q) s = .next ({ s with queues := tabDel s.queues q }.setQstat q
        (qstatWord 0 ((s.qStat q).bits 58 2) false false ((s.qStat q).bits 48 8) ((s.qStat q).bits 40 8)))) ∧
    (s.qState q = qsError → (s.qRun q).stopAt ≤ s.qRdx q → s.qRdx q ≤ s.qRsv q ∨ s.qRdx q = (s.qRun q).stopAt →
      let s1 := if clrsh then s.setShadow q [] else s
      let s2 := s1.onQueue q fun r => { r with idle := s.cycle, out := s.cycle, pub := none, retry := 0 }
      exec (.qctlRestart q clrsh host) s = .next ((s2.putQ q qsReady ((s.qStat q).bit 57) 0 0).setRdx q (s.qRdx q))) ∧
    (s.qState q = qsPaused → exec (.qctlResume q) s
      = .next ((s.onQueue q fun r => { r with idle := s.cycle, out := s.cycle }).toState q qsReady)) ∧
    (s.qState q = qsDemoted → exec (.qctlDoorbell q) s = .next (s.onQueue q fun r =>
      { r with ask := r.ask || (if (s.qRun q).wait.isSome then s.waitOver q else s.published q), checkAt := s.cycle + 10000 })) ∧
    (st = ctxFree → (s.ctxSave ctx).bit 0 = true → 2 ≤ (s.ctxSave ctx).bits 4 8 →
      exec (.ctxctlCreate ctx map) s
        = .next ((s.freshCtx ctx).putCtx ctx ctxActive (stat.bits 58 2) (map % 256) (stat.bits 0 8)).mapVers) ∧
    (st = ctxActive → exec (.ctxctlSave ctx) s
      = .next ({ s with ladders := tabPut s.ladders ctx { rung := 1, since := s.cycle } }.toCtx ctx ctxSaving)) ∧
    (let new := map % 256
     st = ctxSaved → (∀ i < 4, s.downDies.contains (new / 4 ^ i % 4) = false) →
      let nd := newDie (stat.bits 50 8) new
      exec (.ctxctlRestore ctx map) s = .next ((((((s.readArea ctx).reStreams ctx nd).reWork ctx nd).reQueues ctx nd).reRegions ctx nd).putCtx
        ctx ctxRestoring (stat.bits 58 2) new (stat.bits 0 8))) ∧
    (st ≠ ctxFree → st ≠ ctxEnding → exec (.ctxctlTeardown ctx) s
      = .next ((((((s.toCtx ctx ctxEnding).tearQueues ctx).tearRegions ctx).tearWork ctx).tearJobs ctx).tearRest ctx)) ∧
    (let others := ((List.range 64).filter fun c => c != ctx).foldl (fun n c => n + quotaBytes (s.ctxSave c)) 0
     st = ctxFree → w.bits 56 8 ≤ 23 → (∀ d < 4, others + quotaBytes w ≤ s.poolBytes d) →
      exec (.ctxsaveWrite ctx w) s = .next (s.setPkgCsr (0x8B40 + ctx)
        (BitVec.ofNat 64 (w.bits 52 12 * 2 ^ 52 + w.bits 4 36 * 2 ^ 4 + (if w.bit 0 then 1 else 0))))) ∧
    ((st ≠ ctxFree → exec (.ctxctlCreate ctx map) s = .next s ∧ exec (.ctxsaveWrite ctx w) s = .next s) ∧
     (st ≠ ctxActive → exec (.ctxctlSave ctx) s = .next s) ∧
     (st ≠ ctxSaved → exec (.ctxctlRestore ctx map) s = .next s) ∧
     (st = ctxFree ∨ st = ctxEnding → exec (.ctxctlTeardown ctx) s = .next s) ∧
     (s.qState q ≠ qsPaused → exec (.qctlResume q) s = .next s) ∧
     (s.qState q ≠ qsError → exec (.qctlRestart q clrsh host) s = .next s))

/-- R216, R217, R239, R266 to R268, R300, R305, R308, R309, R428, R435, R436: writes of the timebase, of invalidations, of page and channel
retirement and of the quote register, and the ends of what they begin.
Where a clause goes through what the rules leave open, it shows the model's choice (log entries 13, 21 and 59). -/
def Obligations.ControlWritesTakeEffect : Prop :=
  ∀ (s : State) (die : Nat) (w : Word),
    (let now := (s.pkgCsr 0x8320).toNat
     let adj := s.tb.adjAt.map fun a => elapsed (elapsed a s.tb.time) now
     s.tb.run = false → exec .tbctlSettime s
      = .next { s with tb := { s.tb with time := now, frac := 0, slewAt := 0, adjAt := adj } }) ∧
    (s.tb.run = false → s.tb.time + 2000 ≤ (s.pkgCsr 0x8320).toNat → exec .tbctlStart s
      = .next { s with tb := { s.tb with run := true, tbase := (s.pkgCsr 0x8320).toNat, hold := false } }) ∧
    exec (.tbadjWrite w) s = .next { s with tb := { s.tb with
      rate := signedBits 32 (w.bits 32 32), phase := s.tb.phase + signedBits 32 (w.bits 0 32), adjAt := some s.tb.time, lock := true,
      hold := false } } ∧
    (∃ d, d < 200 ∧ ∃ t : State, ∃ v : CfgInv, exec (.cfginvCsrWrite w) s = .next t ∧ t.cinvs = s.cinvs ++ [v] ∧ v.at_ = s.cycle + 1 + d ∧
      v.ctx = w.bits 50 6 ∧ v.handle = (if w.bit 63 then none else some (w.bits 0 10)) ∧ v.who = s.cur) ∧
    (∀ c, (s.cinvs.find? fun c => decide (c.at_ ≤ s.cycle)) = some c →
      exec .cfgInvalidationPerformed s = .next ({ s with cinvs := s.cinvs.erase c }.cfgInvalidate c.ctx c.handle)) ∧
    (∃ t : State, ∃ v : VmInv, exec (.vminvWrite w) s = .next t ∧ t.vinvs = s.vinvs ++ [v] ∧ s.cycle < v.at_ ∧ v.ctx = w.bits 50 6 ∧
      v.va = (if w.bit 63 then none else some (w.bits 16 32 * 2 ^ 16))) ∧
    (∀ v, s.vinvs.find? s.vinvDue = some v →
      let stat := s.pkgCsr 0x8848
      let kept := (s.tlb.filter fun e => v.hits e && e.locked).length
      exec .vmInvalidationPerformed s = .next ({ s with vinvs := s.vinvs.erase v, tlb := s.tlb.filter fun e => !v.hits e || e.locked }.setVminv
        (stat.bits 32 32 + 1) (stat.bits 16 16 + kept) (stat.bits 0 16 - 1))) ∧
    (let a := w.bits 3 45 * 8
     (w.bit 49 = true → a < 2 ^ 40 → exec (.futsetCsrWrite w) s = .next (s.futureOp a (some (w.bits 56 8))).2) ∧
     (∀ pa t, w.bit 49 = false → s.xlate 0 2 (w.bits 50 6) a true = (.ok pa, t) →
      exec (.futsetCsrWrite w) s = .next (t.futureOp pa (some (w.bits 56 8))).2)) ∧
    exec (.pgretireWrite w) s = .next (s.markPage (w.bits 6 2) (w.bits 0 6)) ∧
    (let one (t : State) (n : Nat) : State :=
      let p := t.page die n
      if w.bit n ∧ p.st = .free then t.setPage die n { p with st := .pool }
      else if !w.bit n ∧ p.st = .pool then (t.requeuePage die n).leavePool die n
      else t
     exec (.expoolWrite die w) s = .next ((List.range 64).foldl one ((s.allocate die).setDcsr die 0x8210 w))) ∧
    (let o := s.dcsrAt die 0x8720
     let ret := o.bits 0 16 ||| w.bits 0 16
     exec (.chretireWrite die w) s = .next (s.setDcsr die 0x8720
      (BitVec.ofNat 64 ((o.bits 32 16 ||| ret &&& (0xFFFF - o.bits 0 16)) * 2 ^ 32 + o.bits 16 16 * 2 ^ 16 + ret)))) ∧
    (let o := s.dcsrAt die 0x8720
     let t := s.setDcsr die 0x8720 (BitVec.ofNat 64 (o.bits 0 32))
     o.bits 32 16 ≠ 0 → exec (.channelMigrationDone die) s
      = .next (if s.tabs.any fun t => t.2.runs && t.2.dies.contains die then t else t.remap die)) ∧
    (let old := s.pkgCsr 0x8040
     exec (.attctlGo w) s = .next (s.setPkgCsr 0x8040
      (BitVec.ofNat 64 ((csrMerge 0x8040 old w).toNat + (if w.bit 0 && !old.bit 1 then 2 else 0))))) ∧
    (let r := s.pkgCsr 0x8040
     r.bit 1 = true → ∃ t : State, exec .quoteComplete s = .next (t.setPkgCsr 0x8040 (BitVec.ofNat 64 (r.toNat - 2))) ∧
      t.sigsUsed = s.sigsUsed + (if Config.attSignatures - s.sigsUsed = 0 then 0 else 1))

/-- R212, R216, R290, R331, R342, R365, R394, R414, R422, R423, R430, R431: writes of the peer, shadow, cache, leave, counter,
ingress, histogram, trace and event registers, the plain write of any other CSR under its masks, and the host's access to the CSR
windows. Where a clause goes through what the rules leave open, it shows the model's choice (log entries 13 and 59). -/
def Obligations.CsrWritesTakeEffect : Prop :=
  ∀ (s : State) (die ctx num n i pa len : Nat) (w : Word) (c : Nat × Nat × Nat),
    (let idle (k : Nat) : Prop := s.lnkState k = lnkOff ∨ s.lnkState k = lnkFailed
     idle peer0 → idle peer1 → w.bits 4 3 ≤ w.bits 8 3 →
      let s1 := s.setPkgCsr 0x8680 (w &&& 0x771)
      exec (.peercfgWrite w) s = .next (if w.bit 0 then
        [peer0, peer1].foldl (fun t k => if t.lnkState k = lnkOff then t.trainLink k else t) s1 else s1)) ∧
    (let m := w.bits 0 48
     countBits 48 m ≤ 24 →
      (∀ c < 64, (s.ctxSave c).bit 0 = true → ∀ h < 256, let e := (s.partEntry c h).v
        ¬ (e.bit 63 = true ∧ e.bits 6 2 = die ∧ e.bits 0 6 < 48 ∧ m.testBit (e.bits 0 6) = true)) →
      exec (.shadowWrite die w) s = .next (s.setDcsr die 0x8BC0 (BitVec.ofNat 64 m))) ∧
    ((s.ccache.any fun c => c.die == die && s.copyUsed c) = false → exec (.cfgcacheWrite die w) s
      = .next ({ s with ccache := s.ccache.filter fun c => c.die != die }.setDcsr die 0x8220 (w &&& 0x000000FFFFF00FFF))) ∧
    ((s.dcsrAt die 0x8330).bits 16 16 ≤ w.bits 48 16 → s.suse die ≤ w.bits 32 16 → exec (.leaveBudgetWrite die 0x8330 w) s
      = .next (s.setLvbud die (w.bits 48 16) (w.bits 32 16) ((s.dcsrAt die 0x8330).bits 16 16) (s.suse die))) ∧
    (0x8340 < num → num < 0x8350 →
      let amt (c : Nat) : Nat := if c = num - 0x8340 then w.bits 0 16 else s.leaveAmt die c
      s.timedUse die amt ≤ s.timed die → s.seededUse die amt ≤ s.seeded die → exec (.leaveBudgetWrite die num w) s
        = .next ((s.setDcsr die num (BitVec.ofNat 64 (w.bits 0 16))).setLvbud die (s.timed die) (s.seeded die) (s.timedUse die amt)
            (s.seededUse die amt))) ∧
    (∀ k, w.bits 16 48 = 0 → counterIdx w = some k → exec (.tlclrWrite ctx w) s
      = .next (s.setCounter (ctx * 356 + k) { s.counter (ctx * 356 + k) with mark := none })) ∧
    (let old := s.pkgCsr (0x8400 + n)
     n < 32 → exec (.ingressChannelWrite n w) s = .next (s.setPkgCsr (0x8400 + n) (BitVec.ofNat 64
      ((if !old.bit 32 && w.bit 32 then 0 else old.bits 48 16) * 2 ^ 48 + (w &&& 0x000000FD0000FFFF).toNat)))) ∧
    (let old := s.dcsrAt die (histCfg i)
     exec (.histcfgWrite die i w) s = .next ((if !old.bit 0 && w.bit 0 then
        (List.range 32).foldl (fun t b => t.setDcsr die (histB i b) 0) s else s).setDcsr die (histCfg i) (w &&& 0x00FFFFFF0003F001))) ∧
    exec (.trcctlWrite die w) s = .next (s.setDcsr die 0x8E88
      (BitVec.ofNat 64 ((s.dcsrAt die 0x8E88).bits 32 32 * 2 ^ 32 + w.bits 0 2))) ∧
    exec (.evidxWrite w) s = .next (s.setPkgCsr 0x8908
      (BitVec.ofNat 64 ((s.pkgCsr 0x8908).bits 32 32 * 2 ^ 32 + w.bits 0 32))).flushEvents ∧
    (ctxCsr num = true → exec (.csrWriteOther die ctx num w) s
      = .next (s.setCcsr ctx num ((((s.ccsrAt ctx num) &&& ~~~(BitVec.ofNat 64 (rwMask num))) ||| (w &&& BitVec.ofNat 64 (rwMask num)))
          &&& ~~~(w &&& BitVec.ofNat 64 (w1cMask num))))) ∧
    (ctxCsr num = false → devCsr num = true → num ≠ 0x8A00 → num ≠ 0x8900 → rwMask num ≠ 0 → exec (.csrWriteOther die ctx num w) s
      = .next (s.setDcsr (homeDie die num) num (csrMerge num (s.dcsrAt (homeDie die num) num) w))) ∧
    (let link (st : Nat) : Prop := ∃ d < 4, hostDie pa = some d ∧ s.lnkState (4 * d + 2) = st
     let s0 := { s with busErr := false, cur := Issuer.host }
     (link lnkUp ∨ hostDie pa = none ∨ (∃ d, 4 ≤ d ∧ hostDie pa = some d) →
       (pa % 8 = 0 → hostCsr pa = some c → hostNamed c.2.1 c.2.2 = true →
         exec (.hostCsrAccess pa 8 true w) s = .next (s0.csrWrite c.1 c.2.1 c.2.2 w true) ∧
         exec (.hostCsrAccess pa 8 false w) s = .next { s0 with busData := s0.csrRead c.1 c.2.1 c.2.2 }) ∧
       (0xFF00000000 ≤ pa → pa % 8 ≠ 0 → exec (.hostCsrAccess pa 8 false w) s = .next { s with busErr := true }) ∧
       (pa < 0xFF00000000 → 1 ≤ len → len ≤ 8 →
         exec (.hostCsrAccess pa len true w) s = .next (s0.dStore pa (bytesOfNat len w.toNat) false) ∧
         ∃ t : State, exec (.hostCsrAccess pa len false w) s = .next t ∧ t.busData = (s0.dLoad pa len).v ∧ t.busErr = false)) ∧
     (link lnkFailed → exec (.hostCsrAccess pa len true w) s = .next { s with busErr := true }))

/-- R36, R37, R367, R373, R374, R386, R390 to R393, R399, R403: a group's deadline cancels what is open and collects, and a settled group is
collected; a collective completes, or ends with FT_BAR after its timeout; links pass flits in order, train, retrain and fail; f32
values arrive over a link bit for bit, and a group whose KW is 5 or 6 is bad. Where a clause goes through what the rules leave open, it
shows the model's choice (log entries 30, 63, 74 and 101). -/
def Obligations.GroupCollectiveAndLinkEventsTakeEffect : Prop :=
  ∀ (s : State) (desc die num ctx link pos ver mods mod : Nat) (head : Word) (body : List Word) (g : Grp) (c : CCmd) (vs : List Nat),
    (tabFind s.groups desc = some g →
      (g.deadline ≠ 0 → g.deadline ≤ s.stc.toNat → s.tb.run = true → g.active = true →
        let g1 := g.cancelAll
        exec (.groupDeadline desc) s
          = .next ((g.open.foldl (fun t i => t.killSib desc i) (s.gUpdate desc g g1)).collect desc g1 true)) ∧
      (g.active = false → exec (.groupCollection desc) s = .next (s.collect desc g false))) ∧
    ((s.ccList die).find? (fun c => c.ctx == ctx && c.num == num) = some c → c.timeout ≠ 0 → c.started + c.timeout ≤ s.cycle →
      s.ctxWorks ctx = true → exec (.ccbarTimeout die num ctx) s = .next (s.ccFault c ftBar)) ∧
    ((s.ccList die).find? s.ccReady = some c → exec (.collectiveComplete die) s = .next (s.ccSettle c)) ∧
    (linkThere link = true →
      (s.lnkState link = lnkUp → pos < linkPositions (link % 4) → s.posAlive (link / 4) (link % 4) pos = true → flitBad head true = false →
        let r := s.linkRun link
        let n := tabGet 0 r.expect pos
        let f : Flit := { pos := pos, seq := head.bits 32 17, head := head, body := body }
        (f.seq ≠ n → exec (.flitReceived link pos head body true) s = .next (s.setLinkRun link { r with ahead := r.ahead ++ [f] })) ∧
        (f.seq = n → exec (.flitReceived link pos head body true) s = .next (((s.setLinkRun link
          { r with expect := tabPut r.expect pos ((n + 1) % 2 ^ 17), errors := tabDel r.errors pos }).deliver link f).deliverAhead link pos
            (r.ahead.length + 1)))) ∧
      (s.lnkState link = lnkTraining → s.cycle ≤ (s.linkRun link).limit → ver ≠ 0 →
        exec (.linkTrainingDone link ver true true mods) s
          = .next (((s.moveLnk link lnkUp).setLnk link 56 4 (min ver 2)).setLnk link 52 4 mods) ∧
        exec (.linkTrainingDone link ver false true mods) s = .next (s.failLink link 1) ∧
        exec (.linkTrainingDone link 0 true true mods) s = .next (s.failLink link 2))) ∧
    (s.lnkState link = lnkTraining → (s.linkRun link).limit ≤ s.cycle →
      exec (.linkTrainingTimeout link) s = .next (s.failLink link 3)) ∧
    (s.lnkState link = lnkUp →
      exec (.linkLaneFailure link true) s = .next (s.stepLnk link 8 8) ∧
      (let m := (s.lnk link).bits 52 4
       let m1 := if m.testBit mod then m - 2 ^ mod else m
       let s1 := s.setLnk link 52 4 m1
       exec (.linkModuleFailure link mod) s = .next (if m1 = 0 then s1.failLink link 0 else s1))) ∧
    (s.lnkState link = lnkRetrain →
      (s.cycle ≤ (s.linkRun link).limit → exec (.linkRetrainDone link true) s
        = .next ((s.moveLnk link lnkUp).setLinkRun link { s.linkRun link with errors := [] })) ∧
      exec (.linkRetrainDone link false) s = .next ((s.endHeld link).failLink link 4)) ∧
    ((∀ v ∈ vs, v < 2 ^ 32) → crossWire vs = vs) ∧
    (∀ bs : List Byte, 2 ≤ bs.length → 0 < pos → (let k := wireNat ((unpackBytes bs).take 16) / 32 % 8
      k = 5 ∨ k = 6) → unpackNode pos bs = .bad)

/-- R15, R178, R425, R426, R429, R432 to R434, R437: boot takes image A, else B, else the recovery loader; a recovery image boots when
it verifies; the configuration record is renewed; a self-test starts and ends; ageing and error counts are kept; a trip stops a die; the
ports train or negotiate. Where a clause goes through what the rules leave open, it shows the model's choice (log entries 7, 35, 36, 37,
60 and 103). -/
def Obligations.BootAndTestEventsTakeEffect : Prop :=
  ∀ (s : State) (a b payload : List Byte) (fused die quad ring margin n isl port : Nat),
    (let s1 := { s.afterReset with svn := max s.svn fused, firmware := a }
     (fwOk a s1.svn = true → exec (.powerOnReset a b fused) s = .next (s1.bootWith a)) ∧
     (fwOk a s1.svn = false → fwOk b s1.svn = true → exec (.powerOnReset a b fused) s = .next { s1.bootWith b with firmware := a }) ∧
     (fwOk a s1.svn = false → fwOk b s1.svn = false →
      exec (.powerOnReset a b fused) s = .next { s1 with boot := .loader, loader := [] })) ∧
    (s.boot = .loader →
      let img := s.loader ++ payload
      exec (.recoveryImageFrame payload false) s = .next { s with loader := img } ∧
      (fwOk img s.svn = true → exec (.recoveryImageFrame payload true) s = .next (s.bootWith img)) ∧
      (fwOk img s.svn = false → exec (.recoveryImageFrame payload true) s = .next { s with loader := [] })) ∧
    (s.recordStale = true →
      let r := s.recordNow (((s.flash.head?).map ConfRec.seq).getD 0 + 1)
      exec (.configRecordWrite true) s = .next { s with record := r, flash := r :: s.flash.take 1 } ∧
      exec (.configRecordWrite false) s = .next { s with record := r }) ∧
    (let run (page : Bool) : TestRun := { die := die, page := page, n := n, due := s.cycle + testTime }
     let p := s.page die n
     let k := 16 * die + n
     let m := s.misl k
     (p.st = .free → p.retp = false → s.testing die true = false → exec (.selfTestStart die true n) s
      = .next ({ s with tests := s.tests ++ [run true] }.setPage die n { p with st := .testing })) ∧
     let s1 := s.setTestOf k { s.testOf k with asked := false }
     (s.laneHeld k = true ∨ s.testing die false = false →
       (m.st = .free ∨ (m.st = .owned ∧ m.lane.isSome = true) → exec (.selfTestStart die false n) s
         = .next ({ s1 with tests := s1.tests ++ [run false] }.setMisl k { m with st := .testing, before := m.st })) ∧
       (m.st = .owned → m.lane = none → ∃ t : State, exec (.selfTestStart die false n) s = .next t ∧
         t.misl k = { m with st := .saving, before := .owned, until_ := (t.misl k).until_ } ∧ s.cycle < (t.misl k).until_ ∧
         t.tests = s.tests ++ [{ run false with due := (t.misl k).until_ + testTime }] ∧
         t = { s with tests := t.tests, misls := t.misls, testInfo := t.testInfo, free := s.free + 1 }))) ∧
    (let mine (t : TestRun) : Bool := t.die == die && t.page == true && t.n == n
     let s0 := { s with tests := s.tests.filter fun t => !mine t }
     let p := s0.page die n
     s.tests.any mine = true → exec (.selfTestEnd die true n true) s = .next (s0.freed die n { p with lv := false })) ∧
    (let mine (t : TestRun) : Bool := t.die == die && t.page == false && t.n == n
     let k := 16 * die + n
     let s0 := { s with tests := s.tests.filter fun t => !mine t }
     let m := s0.misl k
     let t := s0.testOf k
     let tile (b : Option BTile) (ix : Nat) : Option BTile := b.map fun _ => s0.stackTile k ix
     let ends (u : State) (m1 : MIsl) : Prop := exec (.selfTestEnd die false n true) s = .next ((u.setMisl k m1).setTestOf k { t with
       stc := s0.stc.toNat % 2 ^ 32, result := 1, count := min (t.count + 1) 255, last := s0.cycle, late := false })
     s.tests.any mine = true → m.st = .testing →
       (m.before ≠ .owned ∨ m.lane.isSome = true → ends s0 { m with st := m.before, before := .free }) ∧
       (m.before = .owned → m.lane = none → ends (s0.readTiles k m m.front.isSome m.back.isSome)
         { m with st := .owned, before := .free, front := tile m.front m.frontIx, back := tile m.back m.backIx })) ∧
    (let t := s.testOf isl
     s.laneHeld isl = true → t.late = false → t.last + 100000000 ≤ s.cycle → exec (.selfTestOverdue isl) s
      = .next ((s.setTestOf isl { t with late := true }).serviceEvent 0 (isl / 16) (BitVec.ofNat 64 (isl % 16)) 0)) ∧
    (let num := 0x8740 + quad % 4
     let w := s.dcsrAt die num
     let thr := w.bits 16 16
     let new := ring % 2 ^ 16 * 2 ^ 48 + margin % 2 ^ 16 * 2 ^ 32 + thr * 2 ^ 16
     (thr = 0 ∨ thr ≤ margin % 2 ^ 16 → exec (.ageingSample die quad ring margin) s
      = .next (s.setDcsr die num (BitVec.ofNat 64 (new + w.bits 0 1)))) ∧
     (thr ≠ 0 → margin % 2 ^ 16 < thr → w.bit 0 = false → exec (.ageingSample die quad ring margin) s
      = .next ((s.setDcsr die num (BitVec.ofNat 64 (new + 1))).serviceEvent 0 die (BitVec.ofNat 64 quad)
          (BitVec.ofNat 64 (margin % 2 ^ 16))))) ∧
    (let thr := (s.dcsrAt die 0x8708).bits 0 16
     n < 64 →
       (thr ≠ 0 → thr ≤ s.eccCount die n → exec (.eccThresholdRetire die n) s = .next (s.markPage die n)) ∧
       (thr = 0 ∨ s.eccCount die n < thr → exec (.eccThresholdRetire die n) s = .next s)) ∧
    (let w := s.dcsrAt die 0x8760
     let s1 := { s with downDies := setIns s.downDies die }.setDcsr die 0x8760 (w ||| 1)
     w.bit 0 = false → exec (.thermalTrip die) s
      = .next (((((s1.tripLanes die).tripRegions die).tripWork die).hostEvent evFault 0 ftOverrun (BitVec.ofNat 64 die) 0 die).logEvent ftOverrun
          die (BitVec.ofNat 64 die) 0)) ∧
    (∀ ok, exec (.linkTrainingDone 16 n ok true ring) s = .next { s with storageUp := ok }) ∧
    exec (.ethernetAutoNegotiation port true) s = .next { s with ethDown := setDel s.ethDown port } ∧
    exec (.ethernetAutoNegotiation port false) s = .next { s with ethDown := setIns s.ethDown port }

/-! ### Rules stated whole -/

/-- R88 and R100. `mad` has OP 0x09 and writes (a × b + c) mod 2^64, the same for signed and unsigned readings, latency 3, no flag.
`pcnt` has OP 0x38 and writes the number of one bits of a below min(b, 64), latency 1. -/
def Obligations.MadAndPrefixCountWriteTheirResult : Prop :=
  ∀ (s : State) (h : Hd) (d : Dst) (a b c : Src), s.inFull h →
    exec (.mad h d a b c) s = .next (s.from3 h d a b c 3 fun x y z => (BitVec.ofNat 64 ((x.toNat * y.toNat + z.toNat) % 2 ^ 64), 0)) ∧
    exec (.mad h d a b c) s = .next (s.from3 h d a b c 3 fun x y z => (BitVec.ofInt 64 (x.toInt * y.toInt + z.toInt), 0)) ∧
    exec (.pcnt h d a b) s = .next (s.from2 h d a b 1 fun x y =>
      (BitVec.ofNat 64 ((List.range (min y.toNat 64)).countP fun i => x.getLsbD i), 0)) ∧
    (Instr.pcnt h d a b).opcode = some 0x38

/-- R99. `sel d, a, b, pn` writes a when p[n] xor NEG is 1 and b otherwise, bit for bit, with latency 1 and no flag; the poison is that of
the chosen operand, of p[n] and of the instruction's own predicate (R84), and the other operand's has no effect. -/
def Obligations.SelTakesTheChosenOperand : Prop :=
  ∀ (s : State) (h : Hd) (d : Dst) (a b : Src) (neg : Bool) (n : BitVec 3), s.inFull h →
    let q := s.readPred h.place.form n.toNat
    let x := if (q.1 ^^ neg) = true then s.src h [a, b] a else s.src h [a, b] b
    exec (.sel h d a b neg n) s = .next (s.gives h 1 (ResW.one d { v := x.v, p := x.p || q.2 || s.lent h } 0))

/-- R365. A write of context CSR 0x1030 clears the mark of the counter of the writing context that its CTR field names, and leaves
the counter's value and everything else; a write whose CTR breaks R163, or whose reserved bits are not 0, changes nothing; and after
a clear a `tlwt` for any n that the counter has reached acquires. -/
def Obligations.TlclrClearsTheMark : Prop :=
  ∀ (s : State) (die ctx : Nat) (w : Word) (host : Bool),
    csrExec die ctx 0x1030 w host s = exec (.tlclrWrite ctx w) s ∧
    (counterIdx w = none → exec (.tlclrWrite ctx w) s = .next s) ∧
    (∀ k, counterIdx w = some k → ∃ t : State, exec (.tlclrWrite ctx w) s = .next t ∧
      t = s.setCounter (counterKey ctx k) { s.counter (counterKey ctx k) with mark := none } ∧
      (∀ j, j ≠ counterKey ctx k → t.counter j = s.counter j) ∧
      (t.counter (counterKey ctx k)).v = (s.counter (counterKey ctx k)).v ∧ (t.counter (counterKey ctx k)).mark = none ∧
      ∀ (h : Hd) (a b : Src) (scp : BitVec 3), t.inFull h → t.cur.ctx = ctx → t.src h [a, b] a = Val.clean w →
        (t.src h [a, b] b).p = false → (t.src h [a, b] b).v.toNat ≤ (t.counter (counterKey ctx k)).v →
        exec (.tlwt h a b scp) t = .next ((t.markFired h.place.form).complete h.place.form (t.counterLat w) false {}))

/-- R43. An instruction fires in full when PS = 0, or when predicate p[PS] XOR PN is 1; otherwise it is predicated off: a timed
entry then leaves the whole state as it was, and an instruction of a block is noted as fired without effect, which changes nothing
but its own block's record. PS = 0 with PN = 1 is reserved. -/
def Obligations.PredicatedOffInstructionsDoNothing : Prop :=
  (∀ (s : State) (h : Hd), (s.fires h).1 =
    (decide (h.ps = 0) || ((s.readPred h.place.form h.ps.toNat).1 ^^ h.pn))) ∧
  (∀ (i : Instr) (h : Hd), i.hd = some h → h.ps = 0 → h.pn = true → i.wf = false) ∧
  (∀ (s : State) (i : Instr) (h : Hd), i.hd = some h → s.cur.phase = .fire → (s.fires h).1 = false →
    (h.place.form = .timed → exec i s = .next s) ∧
    (h.place.form = .block → ∃ t : State, exec i s = .next t ∧ t = { s with tasks := t.tasks } ∧
      (∀ k, k ≠ s.cur.task → t.task k = s.task k) ∧
      (∀ b, s.curTask.blk = some b → ∃ b' : Blk, t.curTask = { s.curTask with blk := some b' } ∧
        b' = { b with fired := b'.fired, off := b'.off } ∧
        (∀ j, j ∈ b'.fired ↔ j = s.cur.idx ∨ j ∈ b.fired) ∧ (∀ j, j ∈ b'.off ↔ j = s.cur.idx ∨ j ∈ b.off))))

/-! ### Encoding and decoding (R38 to R52) -/

/-- R38 to R49: words written out from the encoding rows of the spec decode to the instructions they stand for: one or two of each
family, in both forms, and a block header. -/
def Obligations.WordsDecodeAsTheSpecWritesThem : Prop :=
  decodeWord .timed 0x00C430401C204030 = .ok (.vfma ⟨.timed 0x00C 1, 0, false⟩ (.row 4) (.row 1) (.route 2) (.row 4) .bf16 false) ∧
  decodeWord .block 0xF804304014204710 = .ok (.vfma ⟨.block 31, 3, true⟩ (.row 4) (.row 1) (.h 2) (.row 4) .bf16 false) ∧
  decodeWord .timed 0x0010404000100002 = .ok (.adc ⟨.timed 1 0, 0, false⟩ (.row 4) (.row 0) (.row 1) 1) ∧
  decodeWord .block 0xF803101410064004 = .ok (.cmpi ⟨.block 31, 0, false⟩ 1 (.h 1) 0x64 .lt) ∧
  decodeWord .timed 0x0077102000100012 = .ok (.benc ⟨.timed 7 0, 0, false⟩ (.row 2) (.row 0) (.row 1) .sbf4 .f32 false) ∧
  decodeWord .timed 0x00384080100B0000 = .ok (.ldt ⟨.timed 3 0, 0, false⟩ (.rows 8) (.row 1) true true) ∧
  decodeWord .block 0x0008800434160000 = .ok (.stp ⟨.block 0, 0, false⟩ (.h 3) (.h 1) 3) ∧
  decodeWord .timed 0x0048900020060002 = .ok (.dqld ⟨.timed 4 0, 0, false⟩ (.row 2) 3 false 1) ∧
  decodeWord .timed 0x007A003010261000 = .ok (.aadd ⟨.timed 7 0, 0, false⟩ (.row 3) (.row 1) (.row 2) true 1 0) ∧
  decodeWord .timed 0x006B205010203002 = .ok (.bararr ⟨.timed 6 0, 0, false⟩ (.row 5) (.row 1) (.row 2) 3 .even) ∧
  decodeWord .timed 0x00ABA02010005000 = .ok (.wtick ⟨.timed 0x00A 0, 0, false⟩ (.row 2) (.row 1) 5) ∧
  decodeWord .block 0xF80BD41424300000 = .ok (.futwt ⟨.block 31, 0, false⟩ (.h 1) (.h 2) (.h 3)) ∧
  decodeWord .timed 0x014C409020300002 = .ok (.mxmacStore ⟨.timed 0x014 0, 0, false⟩ (.row 9) (.row 2) (.row 3)) ∧
  decodeWord .timed 0x003D105010203002 = .ok (.scpyChk ⟨.timed 3 0, 0, false⟩ (.row 5) (.row 1) (.row 2) (.row 3)) ∧
  decodeWord .timed 0x005DA04010200000 = .ok (.ccred ⟨.timed 5 0, 0, false⟩ (.row 4) (.row 1) (.row 2) .fadd) ∧
  decodeWord .timed 0x028E50A010203008 = .ok (.launch ⟨.timed 0x028 0, 0, false⟩ (.row 10) (.row 1) (.row 2) (.row 3) 4) ∧
  decodeWord .block 0xF80E100420000300 = .ok (.exit ⟨.block 31, 1, true⟩ (.h 2)) ∧
  decodeWord .block 0xF80EC42410000002 = .ok (.gcanAll ⟨.block 31, 0, false⟩ (.h 2) (.h 1)) ∧
  decodeWord .block 0xF80F300411030000 = .ok (.csrw ⟨.block 31, 0, false⟩ (.h 1) 0x1030) ∧
  decodeWord .timed 0x007F0000200C5000 = .ok (.trap ⟨.timed 7 0, 0, false⟩ (.row 2) 0xC5) ∧
  decodeBhdr 0x0C0FE00000001040 = some { count := 6, smask := 1, wmask := 4, memd := false, atom := false } ∧
  (match decodeWord .timed 0xF80E100420000300 with | .ok _ => false | .error e => e == .form) = true

/-- R38 to R52: every well-formed instruction word encodes, and decoding its word in its own form gives it back, every operand
included. -/
def Obligations.EncodedInstructionsDecodeToThemselves : Prop :=
  ∀ i : Instr, i.wf = true → ∀ h : Hd, i.hd = some h → ∃ w : Word, encode i = some w ∧ decodeWord h.place.form w = .ok i

/-- R38 to R52: a word that decodes gives a well-formed instruction of the form asked for, and that instruction's encoding is the
word: no bit is dropped, and every reserved field is 0. -/
def Obligations.DecodedInstructionsAreWellFormed : Prop :=
  ∀ (m : Form) (w : Word) (i : Instr), decodeWord m w = .ok i →
    i.wf = true ∧ encode i = some w ∧ ∃ h : Hd, i.hd = some h ∧ h.place.form = m

/-! ### A step -/

/-- R43, R62, R68, R243: a step whose next act fires a word runs the instruction that the word decodes to in the form of its
issuer, as that issuer and with nothing held; a step whose next act is an access or a resumed entry runs exec of it, what errors of memory
cells it meets having been looked at first (R129, R409); and a step with nothing left to do in the cycle begins the next one. -/
def Obligations.StepFiresTheDecodedWord : Prop :=
  ∀ (s : State) (r : List Act) (who : Issuer) (w : Word) (i : Instr) (x : Acc),
    let u := { s with agenda := r }
    (s.agenda = .fire who w :: r → who.task = 0 → decodeWord .timed w = .ok i →
      step s = exec i { s with agenda := r, cur := who, held := false }) ∧
    (s.agenda = .fire who w :: r → who.task ≠ 0 → (s.task who.task).blk.isSome = true → decodeWord .block w = .ok i →
      step s = exec i { s with agenda := r, cur := who, held := false }) ∧
    (s.agenda = .redo x :: r → step s
      = exec x.i { (u.checkTile x.tile x.i x.who.ops).takePort x.tile (u.claimOf x) false with cur := x.who, held := false }) ∧
    (∀ q : Req, s.agenda = .perform q :: r → (∀ k, q.place ≠ .unit k) → ∀ t : State,
      exec q.i { u.checkReq q with reqs := s.reqs.erase q, cur := { q.who with phase := .perform }, held := false } = .next t →
      step s = .next (if t.held then u.tryAgain q else t.countD q)) ∧
    (s.agenda = [] → step s = .next s.nextCycle ∧ s.nextCycle.agenda = (List.range 10).map Act.stage)

/-- R52, R405, R406: every instruction, step of the device and act of the host answers a next state, and so does every step but
the firing of a word that is no instruction of its issuer's form, which no loader lets in.
Where a clause goes through what the rules leave open, it shows the model's choice (log entry 80). -/
def Obligations.StepStopsOnlyAtAnUndecodableWord : Prop :=
  (∀ (i : Instr) (s : State), ∃ t : State, exec i s = .next t) ∧
  (∀ s : State, (∃ t : State, step s = .next t) ∨
    (step s = .fault .notAnInstruction ∧ ∃ (who : Issuer) (w : Word) (r : List Act) (e : Reject), s.agenda = .fire who w :: r ∧
      decodeWord (if who.task = 0 then .timed else .block) w = .error e ∧ (who.task ≠ 0 → (s.task who.task).blk.isSome = true)))

/-! ### Frames -/

/-- R53, R42, R43, R64, R85: what the computations of OP 0x00 to 0x7F leave alone when they fire. A timed one changes the results on
their way of its own region and nothing else: those that it adds stand for its own PE, write no row-file entry and no route output but its
destinations, and none of them is a fault; a divide also keeps its operands beside its result, which only a debugger reads. One of a block
changes its own task's record and nothing else. -/
def Obligations.ComputationsChangeOnlyTheirResult : Prop :=
  ∀ (s t : State) (i : Instr) (h : Hd) (op : BitVec 8), i.hd = some h → i.opcode = some op → op.toNat < 0x80 → s.cur.phase = .fire →
    exec i s = .next t →
    (h.place.form = .timed → t = s ∨ ∃ old new : List Pend,
      t = s.setCurRegion { s.curRegion with pend := old ++ new } ∧
      (old.map fun p => { p with div := none }) = (s.curRegion.pend.map fun p => { p with div := none }) ∧
      ∀ p ∈ new, p.tile = s.curTile ∧ p.pe = s.cur.pe ∧ p.fired = s.curRegion.t ∧
        (∀ e v, p.wr = .row e v → ∃ n : BitVec 8, Dst.row n ∈ destsOf i ∧ e = n.toNat) ∧
        (∀ e b, p.wr = .out e b → ∃ n : BitVec 3, Dst.route n ∈ destsOf i ∧ e = n.toNat) ∧
        (∀ c, p.wr ≠ .fault c) ∧ (∀ k, p.wr ≠ .waiting k)) ∧
    (h.place.form = .block → t = { s with tasks := t.tasks, held := t.held } ∧ ∀ k, k ≠ s.cur.task → t.task k = s.task k)

/-- R121, R122, R149, R129, R132, R152: when they are performed, the stores write the bytes of their form at the address they name and
nothing else: `st` and `stx` 2^sz bytes, or two words a stride apart where the element has 64 bits; `stl` sixteen words; `stp` and `pstx`
2^sz bytes of space P; `dqst` its bytes of device memory, where no single-bit error is left in a block that it covers whole. The loads change no memory and no register but through the answer on its way.
A scratch access also takes its port and plane, or is held where they are taken. -/
def Obligations.StoresChangeOnlyTheirBytes : Prop :=
  ∀ (s t : State) (h : Hd) (d : Dst) (ld : LineDst) (ls : LineSrc) (dv : DqVal) (a b v : Src) (col sx half : Bool) (sz q : BitVec 2)
      (scp : BitVec 3), s.Canonical → s.cur.phase = .perform →
    let m := h.place.form
    let elem (va : Word) (x : Nat) : Prop := ∃ tile, s.sTile m va = .ok tile ∧
      (if sz.toNat < 3 then sKey tile (sOff va) ≤ x ∧ x < sKey tile (sOff va) + 2 ^ sz.toNat
       else ∃ j < 2, sKey tile (sOff va + j * stride col) ≤ x ∧ x < sKey tile (sOff va + j * stride col) + 4)
    let line (va : Word) (x : Nat) : Prop := ∃ tile, s.sTile m va = .ok tile ∧
      ∃ j < 16, sKey tile (sOff va + j * stride col) ≤ x ∧ x < sKey tile (sOff va + j * stride col) + 4
    let names (va : Word) : Prop := ∃ tile, s.sTile m va = .ok tile
    let inS (i : Instr) (va : Word) (bytes : Word → Nat → Prop) : Prop := names va → exec i s = .next t →
      t = { s with mem := t.mem, busy := t.busy, held := t.held } ∧ ∀ x, ¬ bytes va x → t.mem.byte x = s.mem.byte x
    let inP (i : Instr) : Prop := exec i s = .next t → t = { s with pdb := t.pdb } ∧
      ∀ x, ¬ (keptAt s.cur.ops ≤ x ∧ x < keptAt s.cur.ops + 2 ^ sz.toNat) → t.pdb.byte x = s.pdb.byte x
    let reads (i : Instr) : Prop := exec i s = .next t →
      t = { s with regions := t.regions, tasks := t.tasks, replies := t.replies, free := t.free, busy := t.busy, held := t.held }
    let va0 := (opn s.cur.ops 0).v
    let va1 := (opn s.cur.ops 1).v + (opn s.cur.ops 2).v * BitVec.ofNat 64 (2 ^ sz.toNat)
    inS (.st h a b col sz) va0 elem ∧ inS (.stx h v a b col sz) va1 elem ∧ inS (.stl h a ls col) va0 line ∧
    inP (.stp h a b sz) ∧ inP (.pstx h v a b sz) ∧
    (exec (.dqst h a dv scp q) s = .next t → t = { s with dram := t.dram, weak := t.weak } ∧
      ∀ x, ¬ (keptAt s.cur.ops ≤ x ∧ x < keptAt s.cur.ops + (dqBytes dv (s.cur.ops.dropLast.drop 1)).length) →
        t.dram.byte x = s.dram.byte x) ∧
    (names va0 → reads (.ld h d a col sz sx) ∧ reads (.ldl h ld a col) ∧ reads (.ldt h ld a col half)) ∧
    (names (va0 + (opn s.cur.ops 1).v * BitVec.ofNat 64 (2 ^ sz.toNat)) → reads (.ldx h d a b col sz sx)) ∧
    reads (.ldp h d a sz sx) ∧ reads (.pldx h d a b sz sx)

/-! ### Registers, lanes, faults, memories, reset -/

/-- R64, R41, R62, R70, R84: a fixed-latency result of latency L that fires in cycle c is due at the end of cycle c + L − 1; at the end of
a cycle the row-file entries that one due result writes take its value, those that none writes keep theirs, and the results not yet due stay
on their way. The zero selector reads 0 and p0 reads 1, unpoisoned, in both forms. -/
def Obligations.ResultsAreWrittenWhenDue : Prop :=
  (∀ (s : State) (lat : Nat) (r : ResW), s.cur.phase = .fire →
    ∀ p ∈ (s.complete .timed lat true r).curRegion.pend, p ∈ s.curRegion.pend ∨
      (p.due = s.curRegion.t + lat - 1 ∧ p.tile = s.curTile ∧ p.pe = s.cur.pe ∧ p.wr ∈ r.writes)) ∧
  (∀ (s : State) (ctx k die tile e : Nat) (v : Val), e < 192 →
    let r := s.regionOn ctx k die
    let due := r.pend.filter r.writesNow
    let here (p : Pend) : Prop := p.tile = tile ∧ ∃ u, p.wr = .row e u
    let t := s.writeResults ctx k die
    (∀ p ∈ due, ∀ n u, p.wr = .row n u → n < 192) →
    ((∀ p ∈ due, ¬ here p) → t.row tile e = s.row tile e) ∧
    ((∃ p ∈ due, here p) → (∀ p ∈ due, here p → p.wr = .row e v) → t.row tile e = v) ∧
    (t.regionOn ctx k die).pend = r.pend.filter fun p => !r.writesNow p) ∧
  (∀ (s : State) (srcs : List Src), s.readTimed srcs .zero = Val.zero ∧ s.readBlock .zero = Val.zero ∧
    s.readPred .timed 0 = (true, false) ∧ s.readPred .block 0 = (true, false))

/-- R17: an operation by lanes of w bits: lane i of its result is what its function gives for lane i, modulo 2^w, and the flags it raises
are those of all lanes. -/
def Obligations.LanesAreIndependent : Prop :=
  ∀ (w : Nat) (f : Nat → Nat × Flags), w = 8 ∨ w = 16 ∨ w = 32 ∨ w = 64 →
    (∀ i < 64 / w, laneBits w (mapLanes w f).1 i = (f i).1 % 2 ^ w) ∧
    (∀ k < 6, (mapLanes w f).2.getLsbD k = (List.range (64 / w)).any fun i => (f i).2.getLsbD k)

/-- R120: the memory tile of an S operand: the one whose index is [26:18] in the region it names, by page and rank; a set bit of [63:43] or
[34:27], a HANDLE in the timed form, one that is not LIVE in the block form, or an index beyond the region names none, with `FT_ADDR`. -/
def Obligations.ScratchOperandsNameTheirTile : Prop :=
  ∀ (s : State) (a : Word),
    let idx := a.bits 18 9
    let tileIn (r : Region) : Except Nat Nat :=
      if idx < 8 * r.shw * r.shh then
        let px := r.px + idx / 8 % r.shw
        let py := r.py + idx / 8 / r.shw
        let k := idx % 8
        let y := k / 2
        let x := 2 * (k % 2) + (if y % 2 = 0 then 1 else 0)
        .ok (tileKey r.die (4 * px + x) (4 * py + y))
      else .error ftAddr
    (a.bits 43 21 ≠ 0 ∨ a.bits 27 8 ≠ 0 → ∀ m, s.sTile m a = .error ftAddr) ∧
    (a.bits 43 21 = 0 → a.bits 27 8 = 0 →
      (s.curRegion.px + s.curRegion.shw ≤ 8 → s.sTile .timed a = if a.bits 35 8 = 0 then tileIn s.curRegion else .error ftAddr) ∧
      (let r := s.region s.cur.ctx (a.bits 35 8)
       r.px + r.shw ≤ 8 → s.sTile .block a = if r.st ≠ .free ∧ r.st ≠ .ended then tileIn r else .error ftAddr))

/-- R122, R246, R248, R406, R407, R410: where a fault goes. One of a timed entry is noted against its region's cycle and changes
nothing else; the launch reports the one of the lowest y, x, PE and code; one of a commit is kept, the first before all later ones;
one that a firing block takes ends its task, which has then stored nothing outside device memory. A misaligned scratch access is not
performed and raises `FT_ALIGN`, where the region it names is on its pages; a read of a device CSR by a context that is not the system's raises `FT_PRIV`. Where a clause goes
through what the rules leave open, it shows the model's choice (log entries 45 and 66). -/
def Obligations.FaultsTakeTheirWay : Prop :=
  (∀ (s : State) (c : Nat), ∃ f : RFault, f.code = c ∧ f.rank = ((s.cur.y * 32 + s.cur.x) * 16 + s.cur.pe) * 256 + c ∧
    s.raise .timed c = s.setCurRegion { s.curRegion with faults := s.curRegion.faults ++ [f] }) ∧
  (∀ (l : List RFault), (l = [] → firstFault l = none) ∧
    (l ≠ [] → ∃ f ∈ l, firstFault l = some f ∧ ∀ g ∈ l, f.rank ≤ g.rank)) ∧
  (∀ (y x pe c y' x' pe' c' : Nat), x < 32 → x' < 32 → pe < 16 → pe' < 16 → c < 256 → c' < 256 →
    (faultRank x y pe c < faultRank x' y' pe' c' ↔
      y < y' ∨ y = y' ∧ (x < x' ∨ x = x' ∧ (pe < pe' ∨ pe = pe' ∧ c < c')))) ∧
  (∀ (s : State) (c : Nat), s.cur.phase = .commit →
    s.raise .block c = s.setTask s.cur.task { s.curTask with cfault := some (s.curTask.cfault.getD c) }) ∧
  (∀ (s : State) (c : Nat), s.cur.phase = .fire → s.curTask.blk.isSome = true →
    let t := s.raise .block c
    tabFind t.tasks s.cur.task = none ∧ t.mem = s.mem ∧ t.pdb = s.pdb ∧ t.wst = s.wst ∧ t.regions = s.regions) ∧
  (∀ (s : State) (h : Hd) (d : Dst) (a b : Src) (ld : LineDst) (col sx half : Bool) (sz : BitVec 2), s.inFull h →
    let m := h.place.form
    (let va := (s.src h [a] a).v
     s.sAway m va = false → (∃ t, s.sTile m va = .ok t) →
      (elemAligned col sz.toNat (sOff va) = false → exec (.ld h d a col sz sx) s = .next (s.raise m ftAlign)) ∧
      (lineAligned col (sOff va) = false → exec (.ldl h ld a col) s = .next (s.raise m ftAlign) ∧
        exec (.ldt h ld a col half) s = .next (s.raise m ftAlign))) ∧
    (let va := (s.src h [a, b] a).v
     s.sAway m va = false → (∃ t, s.sTile m va = .ok t) → elemAligned col sz.toNat (sOff va) = false →
      exec (.st h a b col sz) s = .next (s.raise m ftAlign))) ∧
  (∀ (s : State) (h : Hd) (d : Dst) (num : BitVec 16), s.inFull h → 0x8000 ≤ num.toNat →
    s.sysCtx s.cur.ctx s.cur.die = false → exec (.csrr h d num) s = .next (s.raise h.place.form ftPriv))

/-- The canonical form of the four memories is an invariant: whatever a step does, addresses stay strictly rising, no listed byte equals an
unlisted one, and the poisoned granules stay strictly rising (R6, R129; log entry 2 for what an unlisted byte reads as). -/
def Obligations.StepsKeepMemoriesCanonical : Prop :=
  ∀ s t : State, s.Canonical → step s = .next t → t.Canonical

/-- R241, R244, R246: an instruction that delivers at its block's commit (every atomic, `vst`, and every send; `jpost` and `futset`
translate their address when they fire, `futwt` is a branch that translates too, and no block may hold `powq.wait`) has no effect when
it fires but on its own task's record, where the commit finds it; where a check of its operands fails, its task ends. Where a clause
goes through what the rules leave open, it shows the model's choice (log entries 47 and 79). -/
def Obligations.BlockSendsWaitForTheCommit : Prop :=
  ∀ (s t : State) (i : Instr) (h : Hd), i.hd = some h → h.place.form = .block → s.cur.phase = .fire → commitDelivers i = true →
    (∀ d a b, i ≠ .jpost h d a b ∧ i ≠ .futset h d a b) → (∀ d a, i ≠ .futsetClr h d a ∧ i ≠ .powqWait h d a) → (∀ d a b, i ≠ .futwt h d a b) →
    exec i s = .next t →
    (t = { s with tasks := t.tasks, held := t.held } ∧ ∀ k, k ≠ s.cur.task → t.task k = s.task k) ∨ tabFind t.tasks s.cur.task = none

/-- R266, R294, R316, R332, R409, R410: the registers for which the spec states a reset value hold it, every other stored CSR is 0; no
context, queue, region or task is in use, and the timebase stands. Memory lists nothing and is canonical; an unlisted byte reads 0,
which is the model's choice for spaces S, P and W (log entry 2), as is a zero in every PE and row file before the first load (log
entry 4). -/
def Obligations.ResetHoldsTheSpecsValues : Prop :=
  let s := State.reset
  (∀ die, die < 4 → s.dcsrAt die 0x8020 = 1 ∧ s.dcsrAt die 0x8708 = 64 ∧ s.dcsrAt die 0x8A10 = 20000 ∧ s.dcsrAt die 0x8A18 = 10000 ∧
    ∀ i < 9, s.dcsrAt die (0x8C20 + 0x40 * i) = 0x3000) ∧
  (∀ die num, num ∉ [0x8020, 0x8708, 0x8A10, 0x8A18] → (∀ i < 9, num ≠ 0x8C20 + 0x40 * i) → s.dcsrAt die num = 0) ∧
  (∀ ctx num, s.ccsrAt ctx num = 0) ∧
  (∀ ctx, ctx < 64 → s.ctxState ctx = ctxFree) ∧ (∀ q, q < 4096 → s.qState q = 0) ∧
  (∀ ctx h die, (s.regionOn ctx h die).st = .free) ∧ s.tasks = [] ∧ s.tb.run = false ∧ s.agenda = [] ∧
  s.Canonical ∧ (∀ x, s.mem.byte x = 0 ∧ s.pdb.byte x = 0 ∧ s.wst.byte x = 0 ∧ s.dram.byte x = 0) ∧
  (∀ k, (s.pe k).latch = Val.zero ∧ (s.pe k).pred = 0 ∧ (s.pe k).ppois = 0 ∧ (s.pe k).flags = 0) ∧
  (∀ tile e, s.row tile e = Val.zero)
end

