-- ==== Sys2Proof/Laws/Mem.lean ====
section
/-! SUPPORT. Tables and memories: reads after writes, and that every operation keeps the canonical form. -/

namespace Sys2Proof.Machine

/-! ### Tables -/

@[simp] theorem tabGet_nil {α : Type} (d : α) (k : Nat) : tabGet d [] k = d := rfl

@[simp] theorem tabFind_nil {α : Type} (k : Nat) : tabFind ([] : Tab α) k = none := rfl

theorem tabGet_tabPut_same {α : Type} (d : α) (t : Tab α) (k : Nat) (v : α) : tabGet d (tabPut t k v) k = v := by
  induction t with
  | nil => simp [tabPut, tabGet]
  | cons p r ih =>
    simp only [tabPut]
    split
    · simp [tabGet]
    · split
      · simp [tabGet]
      · simp [tabGet, *]

theorem tabGet_tabPut_other {α : Type} (d : α) (t : Tab α) {k j : Nat} (v : α) (h : j ≠ k) :
    tabGet d (tabPut t k v) j = tabGet d t j := by
  induction t with
  | nil => simp [tabPut, tabGet, h.symm]
  | cons p r ih =>
    simp only [tabPut]
    split
    · simp [tabGet, h.symm]
    · split
      · next hp => simp [tabGet, h.symm, hp]
      · simp [tabGet, ih]

/-- A table reads what was put, and elsewhere what it held. -/
@[simp] theorem tabGet_tabPut {α : Type} (d : α) (t : Tab α) (k j : Nat) (v : α) :
    tabGet d (tabPut t k v) j = if j = k then v else tabGet d t j := by
  split
  · next h => rw [h, tabGet_tabPut_same]
  · next h => exact tabGet_tabPut_other d t v h

@[simp] theorem tabFind_tabPut {α : Type} (t : Tab α) (k j : Nat) (v : α) :
    tabFind (tabPut t k v) j = if j = k then some v else tabFind t j := by
  induction t with
  | nil => simp [tabPut, tabFind, eq_comm]
  | cons p r ih =>
    simp only [tabPut]
    split
    · simp [tabFind, eq_comm]
    · split
      · next hp =>
        by_cases h : j = k
        · simp [tabFind, h]
        · simp [tabFind, hp, h, Ne.symm h]
      · by_cases h : j = k
        · subst h; simp_all [tabFind]
        · simp [tabFind, ih, h]

/-! ### Strictly rising lists -/

theorem keysRise_cons (a : Nat) (l : List Nat) :
    keysRise (a :: l) = true ↔ (∀ b ∈ l.head?, a < b) ∧ keysRise l = true := by
  cases l <;> simp [keysRise]

/-- A strictly rising list is one in which every element is below all that follow it. -/
theorem keysRise_iff_pairwise (l : List Nat) : keysRise l = true ↔ l.Pairwise (· < ·) := by
  induction l with
  | nil => simp [keysRise]
  | cons a r ih =>
    rw [keysRise_cons, List.pairwise_cons, ← ih]
    refine ⟨fun h => ⟨fun b hb => ?_, h.2⟩, fun h => ⟨fun b hb => h.1 b (List.mem_of_mem_head? hb), h.2⟩⟩
    cases r with
    | nil => cases hb
    | cons c r =>
      have hc := h.1 c rfl
      rcases List.mem_cons.1 hb with rfl | hb
      · exact hc
      · exact Nat.lt_trans hc ((List.pairwise_cons.1 (ih.1 h.2)).1 b hb)

theorem keysRise_filter (l : List Nat) (p : Nat → Bool) (h : keysRise l = true) : keysRise (l.filter p) = true := by
  rw [keysRise_iff_pairwise] at *
  exact h.filter p

theorem mem_setIns (l : List Nat) (n a : Nat) : a ∈ setIns l n ↔ a = n ∨ a ∈ l := by
  induction l with
  | nil => simp [setIns]
  | cons b r ih =>
    simp only [setIns]
    split
    · simp
    · split
      · next h => subst h; simp
      · simp only [List.mem_cons, ih]; constructor <;> (rintro (h | h | h) <;> simp [h])

theorem keysRise_setIns (l : List Nat) (n : Nat) (h : keysRise l = true) : keysRise (setIns l n) = true := by
  rw [keysRise_iff_pairwise] at *
  induction l with
  | nil => simp [setIns]
  | cons a r ih =>
    have h' := List.pairwise_cons.1 h
    simp only [setIns]
    split
    · next hn =>
      refine List.pairwise_cons.2 ⟨fun b hb => ?_, h⟩
      rcases List.mem_cons.1 hb with rfl | hb
      · exact hn
      · exact Nat.lt_trans hn (h'.1 b hb)
    · split
      · exact h
      · refine List.pairwise_cons.2 ⟨fun b hb => ?_, ih h'.2⟩
        rcases (mem_setIns r n b).1 hb with rfl | hb
        · omega
        · exact h'.1 b hb

theorem keysRise_setDel (l : List Nat) (n : Nat) (h : keysRise l = true) : keysRise (setDel l n) = true :=
  keysRise_filter l _ h

/-! ### Cells -/

theorem mem_cellPut (cs : List Host.Cell) (a : Nat) (b : Byte) (c : Host.Cell) (h : c ∈ cellPut cs a b) :
    c ∈ cs ∨ c = (a, b) ∧ b ≠ unlisted := by
  induction cs with
  | nil =>
    simp only [cellPut] at h
    split at h
    · cases h
    · next hb => exact .inr ⟨by simpa using h, hb⟩
  | cons p r ih =>
    simp only [cellPut] at h
    split at h
    · split at h
      · exact .inl h
      · next hb =>
        rcases List.mem_cons.1 h with rfl | h
        · exact .inr ⟨rfl, hb⟩
        · exact .inl h
    · split at h
      · split at h
        · exact .inl (List.mem_cons_of_mem _ h)
        · next hb =>
          rcases List.mem_cons.1 h with rfl | h
          · exact .inr ⟨rfl, hb⟩
          · exact .inl (List.mem_cons_of_mem _ h)
      · rcases List.mem_cons.1 h with rfl | h
        · exact .inl (List.mem_cons_self ..)
        · rcases ih h with h | h
          · exact .inl (List.mem_cons_of_mem _ h)
          · exact .inr h

theorem cellPut_sorted (cs : List Host.Cell) (a : Nat) (b : Byte) (h : (cs.map Prod.fst).Pairwise (· < ·)) :
    ((cellPut cs a b).map Prod.fst).Pairwise (· < ·) := by
  induction cs with
  | nil => simp only [cellPut]; split <;> simp
  | cons p r ih =>
    have h' := List.pairwise_cons.1 h
    simp only [cellPut]
    split
    · next hp =>
      split
      · exact h
      · refine List.pairwise_cons.2 ⟨fun x hx => ?_, h⟩
        rcases List.mem_cons.1 hx with rfl | hx
        · exact hp
        · exact Nat.lt_trans hp (h'.1 x hx)
    · split
      · next hp =>
        split
        · exact h'.2
        · exact List.pairwise_cons.2 ⟨fun x hx => hp ▸ h'.1 x hx, h'.2⟩
      · refine List.pairwise_cons.2 ⟨fun x hx => ?_, ih h'.2⟩
        obtain ⟨c, hc, rfl⟩ := List.mem_map.1 hx
        rcases mem_cellPut r a b c hc with hc | hc
        · exact h'.1 _ (List.mem_map_of_mem hc)
        · rw [hc.1]; show p.1 < a; omega

/-- The cells of a memory in canonical form. -/
def cellsWf (cs : List Host.Cell) : Prop := keysRise (cs.map Prod.fst) = true ∧ cs.all (fun p => p.2 != unlisted) = true

theorem cellsWf_cellPut (cs : List Host.Cell) (a : Nat) (b : Byte) (h : cellsWf cs) : cellsWf (cellPut cs a b) := by
  refine ⟨(keysRise_iff_pairwise _).2 (cellPut_sorted cs a b ((keysRise_iff_pairwise _).1 h.1)), ?_⟩
  rw [List.all_eq_true]
  intro c hc
  rcases mem_cellPut cs a b c hc with hc | ⟨rfl, hb⟩
  · exact (List.all_eq_true.1 h.2) c hc
  · simpa using hb

theorem cellsWf_filter (cs : List Host.Cell) (p : Host.Cell → Bool) (h : cellsWf cs) : cellsWf (cs.filter p) := by
  refine ⟨(keysRise_iff_pairwise _).2 ?_, ?_⟩
  · exact ((keysRise_iff_pairwise _).1 h.1).sublist (List.filter_sublist.map Prod.fst)
  · rw [List.all_eq_true]
    intro c hc
    exact (List.all_eq_true.1 h.2) c ((List.mem_filter.1 hc).1)

theorem cellGet_of_lt (cs : List Host.Cell) (a : Nat) (h : ∀ c ∈ cs, a < c.1) : cellGet cs a = unlisted := by
  induction cs with
  | nil => rfl
  | cons p r ih =>
    have hp := h p (List.mem_cons_self ..)
    simp only [cellGet]
    rw [if_neg (by omega), ih fun c hc => h c (List.mem_cons_of_mem _ hc)]

/-- A byte written reads back, and every other byte reads as before. -/
theorem cellGet_cellPut (cs : List Host.Cell) (a x : Nat) (b : Byte) (h : cellsWf cs) :
    cellGet (cellPut cs a b) x = if x = a then b else cellGet cs x := by
  have hs := (keysRise_iff_pairwise _).1 h.1
  clear h
  induction cs with
  | nil =>
    simp only [cellPut]
    split
    · next hb => simp [cellGet, hb]
    · simp [cellGet, eq_comm]
  | cons p r ih =>
    have h' := List.pairwise_cons.1 hs
    have hr : ∀ c ∈ r, p.1 < c.1 := fun c hc => h'.1 _ (List.mem_map_of_mem hc)
    simp only [cellPut]
    split
    · next hp =>
      split
      · next hb =>
        split
        · next hx =>
          rw [hb, hx]
          exact cellGet_of_lt _ _ fun c hc => by
            rcases List.mem_cons.1 hc with rfl | hc
            · exact hp
            · exact Nat.lt_trans hp (hr c hc)
        · rfl
      · simp [cellGet, eq_comm]
    · split
      · next hp =>
        split
        · next hb =>
          split
          · next hx => rw [hb, hx]; exact cellGet_of_lt _ _ fun c hc => hp ▸ hr c hc
          · next hx => simp only [cellGet]; rw [if_neg (by omega)]
        · by_cases hx : x = a
          · simp [cellGet, hx]
          · simp [cellGet, hx, Ne.symm hx, hp]
      · next hp =>
        simp only [cellGet, ih h'.2]
        split
        · next hx => rw [if_neg (by omega)]
        · rfl

/-! ### Memories -/

theorem Mem.wf_iff (m : Mem) : m.wf = true ↔ cellsWf m.cells ∧ keysRise m.pois = true := by
  simp [Mem.wf, cellsWf, and_assoc]

@[simp] theorem Mem.wf_empty : Mem.empty.wf = true := rfl

theorem Mem.wf_putByte (m : Mem) (a : Nat) (b : Byte) (h : m.wf = true) : (m.putByte a b).wf = true := by
  rw [Mem.wf_iff] at *
  exact ⟨cellsWf_cellPut _ _ _ h.1, h.2⟩

theorem Mem.wf_putBytes (bs : List Byte) : ∀ (m : Mem) (a : Nat), m.wf = true → (m.putBytes a bs).wf = true := by
  induction bs with
  | nil => exact fun _ _ h => h
  | cons b r ih => exact fun m a h => ih _ _ (m.wf_putByte a b h)

theorem Mem.wf_mark (m : Mem) (g a n : Nat) (p : Bool) (k : Nat) (h : m.wf = true) : (m.mark g a n p k).wf = true := by
  rw [Mem.wf_iff] at *
  simp only [Mem.mark]
  split
  · exact ⟨h.1, keysRise_setIns _ _ h.2⟩
  · split
    · exact ⟨h.1, keysRise_setDel _ _ h.2⟩
    · exact h

theorem Mem.wf_marks (g a n : Nat) (p : Bool) (ks : List Nat) :
    ∀ (m : Mem), m.wf = true → (ks.foldl (fun m k => m.mark g a n p k) m).wf = true := by
  induction ks with
  | nil => exact fun _ h => h
  | cons k r ih => exact fun m h => ih _ (m.wf_mark g a n p k h)

/-- A store keeps the canonical form. -/
theorem Mem.wf_store (m : Mem) (g a : Nat) (bs : List Byte) (p : Bool) (h : m.wf = true) : (m.store g a bs p).wf = true :=
  Mem.wf_marks g a bs.length p _ _ (Mem.wf_putBytes bs m a h)

theorem Mem.wf_storeVal (m : Mem) (g a n : Nat) (v : Val) (h : m.wf = true) : (m.storeVal g a n v).wf = true :=
  m.wf_store g a _ v.p h

/-- What a page's memory keeps when others are taken out of it is in canonical form. -/
theorem Mem.wf_filter (m : Mem) (p : Host.Cell → Bool) (q : Nat → Bool) (h : m.wf = true) :
    ({ cells := m.cells.filter p, pois := m.pois.filter q } : Mem).wf = true := by
  rw [Mem.wf_iff] at *
  exact ⟨cellsWf_filter _ _ h.1, keysRise_filter _ _ h.2⟩

/-- Cells put one by one, in any order, keep the canonical form. -/
theorem cellsWf_foldl {α : Type} (f : α → Nat) (g : α → Byte) (l : List α) :
    ∀ cs : List Host.Cell, cellsWf cs → cellsWf (l.foldl (fun t c => cellPut t (f c) (g c)) cs) := by
  induction l with
  | nil => exact fun _ h => h
  | cons c r ih => exact fun cs h => ih _ (cellsWf_cellPut cs (f c) (g c) h)

theorem keysRise_foldl_setIns (f : Nat → Nat) (l : List Nat) :
    ∀ ps : List Nat, keysRise ps = true → keysRise (l.foldl (fun t c => setIns t (f c)) ps) = true := by
  induction l with
  | nil => exact fun _ h => h
  | cons c r ih => exact fun ps h => ih _ (keysRise_setIns ps (f c) h)

@[simp] theorem Mem.pois_putByte (m : Mem) (a : Nat) (b : Byte) : (m.putByte a b).pois = m.pois := rfl

theorem Mem.pois_putBytes (bs : List Byte) : ∀ (m : Mem) (a : Nat), (m.putBytes a bs).pois = m.pois := by
  induction bs with
  | nil => exact fun _ _ => rfl
  | cons b r ih => exact fun m a => ih _ _

@[simp] theorem Mem.cells_mark (m : Mem) (g a n : Nat) (p : Bool) (k : Nat) : (m.mark g a n p k).cells = m.cells := by
  simp only [Mem.mark]
  split
  · rfl
  · split <;> rfl

theorem Mem.cells_marks (g a n : Nat) (p : Bool) (ks : List Nat) :
    ∀ (m : Mem), (ks.foldl (fun m k => m.mark g a n p k) m).cells = m.cells := by
  induction ks with
  | nil => exact fun _ => rfl
  | cons k r ih => exact fun m => (ih _).trans (m.cells_mark g a n p k)

theorem Mem.byte_putByte (m : Mem) (a x : Nat) (b : Byte) (h : m.wf = true) :
    (m.putByte a b).byte x = if x = a then b else m.byte x :=
  cellGet_cellPut _ _ _ _ ((m.wf_iff).1 h).1

/-- Bytes written one after another: each reads back, and every byte outside reads as before. -/
theorem Mem.byte_putBytes (bs : List Byte) :
    ∀ (m : Mem) (a x : Nat), m.wf = true →
      (m.putBytes a bs).byte x = if a ≤ x ∧ x < a + bs.length then bs.getD (x - a) 0 else m.byte x := by
  induction bs with
  | nil => intro m a x _; rw [if_neg (by simp)]; rfl
  | cons b r ih =>
    intro m a x h
    simp only [Mem.putBytes]
    rw [ih _ _ _ (m.wf_putByte a b h), m.byte_putByte a x b h]
    by_cases hx : x = a
    · subst hx; rw [if_neg (by omega)]; simp
    · by_cases h1 : a + 1 ≤ x ∧ x < a + 1 + r.length
      · have e : x - a = (x - (a + 1)) + 1 := by omega
        rw [if_pos h1, if_pos (by simp; omega), e]; simp
      · rw [if_neg h1, if_neg hx, if_neg (by simp; omega)]

/-- A store writes its own bytes and no other. -/
theorem Mem.byte_store (m : Mem) (g a : Nat) (bs : List Byte) (p : Bool) (x : Nat) (h : m.wf = true) :
    (m.store g a bs p).byte x = if a ≤ x ∧ x < a + bs.length then bs.getD (x - a) 0 else m.byte x := by
  have e : (m.store g a bs p).cells = (m.putBytes a bs).cells := Mem.cells_marks _ _ _ _ _ _
  rw [← m.byte_putBytes bs a x h, Mem.byte, Mem.byte, e]

end Sys2Proof.Machine
end

