-- ==== Sys2Proof/Laws/State.lean ====
section
/-! SUPPORT. What every plain update of the state gives and leaves: one lemma per field per update, true by `rfl`. -/

namespace Sys2Proof.Machine

variable (s : State)

/-! ### `setPe` -/

@[simp] theorem State.setPe_agenda (k : Nat) (p : Pe) : (s.setPe k p).agenda = s.agenda := rfl
@[simp] theorem State.setPe_cur (k : Nat) (p : Pe) : (s.setPe k p).cur = s.cur := rfl
@[simp] theorem State.setPe_held (k : Nat) (p : Pe) : (s.setPe k p).held = s.held := rfl
@[simp] theorem State.setPe_cycle (k : Nat) (p : Pe) : (s.setPe k p).cycle = s.cycle := rfl
@[simp] theorem State.setPe_free (k : Nat) (p : Pe) : (s.setPe k p).free = s.free := rfl
@[simp] theorem State.setPe_pes (k : Nat) (p : Pe) : (s.setPe k p).pes = tabPut s.pes k p := rfl
@[simp] theorem State.setPe_rows (k : Nat) (p : Pe) : (s.setPe k p).rows = s.rows := rfl
@[simp] theorem State.setPe_routesIn (k : Nat) (p : Pe) : (s.setPe k p).routesIn = s.routesIn := rfl
@[simp] theorem State.setPe_regions (k : Nat) (p : Pe) : (s.setPe k p).regions = s.regions := rfl
@[simp] theorem State.setPe_reqs (k : Nat) (p : Pe) : (s.setPe k p).reqs = s.reqs := rfl
@[simp] theorem State.setPe_replies (k : Nat) (p : Pe) : (s.setPe k p).replies = s.replies := rfl
@[simp] theorem State.setPe_tasks (k : Nat) (p : Pe) : (s.setPe k p).tasks = s.tasks := rfl
@[simp] theorem State.setPe_nextTask (k : Nat) (p : Pe) : (s.setPe k p).nextTask = s.nextTask := rfl
@[simp] theorem State.setPe_tiles (k : Nat) (p : Pe) : (s.setPe k p).tiles = s.tiles := rfl
@[simp] theorem State.setPe_mem (k : Nat) (p : Pe) : (s.setPe k p).mem = s.mem := rfl
@[simp] theorem State.setPe_pdb (k : Nat) (p : Pe) : (s.setPe k p).pdb = s.pdb := rfl
@[simp] theorem State.setPe_wst (k : Nat) (p : Pe) : (s.setPe k p).wst = s.wst := rfl
@[simp] theorem State.setPe_dram (k : Nat) (p : Pe) : (s.setPe k p).dram = s.dram := rfl
@[simp] theorem State.setPe_vers (k : Nat) (p : Pe) : (s.setPe k p).vers = s.vers := rfl
@[simp] theorem State.setPe_vparts (k : Nat) (p : Pe) : (s.setPe k p).vparts = s.vparts := rfl
@[simp] theorem State.setPe_dqs (k : Nat) (p : Pe) : (s.setPe k p).dqs = s.dqs := rfl
@[simp] theorem State.setPe_dseq (k : Nat) (p : Pe) : (s.setPe k p).dseq = s.dseq := rfl
@[simp] theorem State.setPe_counters (k : Nat) (p : Pe) : (s.setPe k p).counters = s.counters := rfl
@[simp] theorem State.setPe_dcsr (k : Nat) (p : Pe) : (s.setPe k p).dcsr = s.dcsr := rfl
@[simp] theorem State.setPe_ccsr (k : Nat) (p : Pe) : (s.setPe k p).ccsr = s.ccsr := rfl
@[simp] theorem State.setPe_hostRing (k : Nat) (p : Pe) : (s.setPe k p).hostRing = s.hostRing := rfl
@[simp] theorem State.setPe_umber (k : Nat) (p : Pe) : (s.setPe k p).umber = s.umber := rfl
@[simp] theorem State.setPe_tlb (k : Nat) (p : Pe) : (s.setPe k p).tlb = s.tlb := rfl
@[simp] theorem State.setPe_tb (k : Nat) (p : Pe) : (s.setPe k p).tb = s.tb := rfl
@[simp] theorem State.setPe_stc (k : Nat) (p : Pe) : (s.setPe k p).stc = s.stc := rfl
@[simp] theorem State.setPe_frecs (k : Nat) (p : Pe) : (s.setPe k p).frecs = s.frecs := rfl
@[simp] theorem State.setPe_fwait (k : Nat) (p : Pe) : (s.setPe k p).fwait = s.fwait := rfl
@[simp] theorem State.setPe_serials (k : Nat) (p : Pe) : (s.setPe k p).serials = s.serials := rfl
@[simp] theorem State.setPe_jobs (k : Nat) (p : Pe) : (s.setPe k p).jobs = s.jobs := rfl
@[simp] theorem State.setPe_graphs (k : Nat) (p : Pe) : (s.setPe k p).graphs = s.graphs := rfl
@[simp] theorem State.setPe_cards (k : Nat) (p : Pe) : (s.setPe k p).cards = s.cards := rfl
@[simp] theorem State.setPe_nextCard (k : Nat) (p : Pe) : (s.setPe k p).nextCard = s.nextCard := rfl
@[simp] theorem State.setPe_pages (k : Nat) (p : Pe) : (s.setPe k p).pages = s.pages := rfl
@[simp] theorem State.setPe_ccache (k : Nat) (p : Pe) : (s.setPe k p).ccache = s.ccache := rfl
@[simp] theorem State.setPe_misls (k : Nat) (p : Pe) : (s.setPe k p).misls = s.misls := rfl
@[simp] theorem State.setPe_sisls (k : Nat) (p : Pe) : (s.setPe k p).sisls = s.sisls := rfl
@[simp] theorem State.setPe_frames (k : Nat) (p : Pe) : (s.setPe k p).frames = s.frames := rfl
@[simp] theorem State.setPe_hostFrames (k : Nat) (p : Pe) : (s.setPe k p).hostFrames = s.hostFrames := rfl
@[simp] theorem State.setPe_cinvs (k : Nat) (p : Pe) : (s.setPe k p).cinvs = s.cinvs := rfl
@[simp] theorem State.setPe_downDies (k : Nat) (p : Pe) : (s.setPe k p).downDies = s.downDies := rfl
@[simp] theorem State.setPe_tabs (k : Nat) (p : Pe) : (s.setPe k p).tabs = s.tabs := rfl
@[simp] theorem State.setPe_grants (k : Nat) (p : Pe) : (s.setPe k p).grants = s.grants := rfl
@[simp] theorem State.setPe_dbgs (k : Nat) (p : Pe) : (s.setPe k p).dbgs = s.dbgs := rfl
@[simp] theorem State.setPe_acctSeq (k : Nat) (p : Pe) : (s.setPe k p).acctSeq = s.acctSeq := rfl
@[simp] theorem State.setPe_groups (k : Nat) (p : Pe) : (s.setPe k p).groups = s.groups := rfl
@[simp] theorem State.setPe_groupNo (k : Nat) (p : Pe) : (s.setPe k p).groupNo = s.groupNo := rfl
@[simp] theorem State.setPe_groupEnds (k : Nat) (p : Pe) : (s.setPe k p).groupEnds = s.groupEnds := rfl
@[simp] theorem State.setPe_saved (k : Nat) (p : Pe) : (s.setPe k p).saved = s.saved := rfl
@[simp] theorem State.setPe_meas0 (k : Nat) (p : Pe) : (s.setPe k p).meas0 = s.meas0 := rfl
@[simp] theorem State.setPe_meas1 (k : Nat) (p : Pe) : (s.setPe k p).meas1 = s.meas1 := rfl
@[simp] theorem State.setPe_queues (k : Nat) (p : Pe) : (s.setPe k p).queues = s.queues := rfl
@[simp] theorem State.setPe_fe (k : Nat) (p : Pe) : (s.setPe k p).fe = s.fe := rfl
@[simp] theorem State.setPe_stalls (k : Nat) (p : Pe) : (s.setPe k p).stalls = s.stalls := rfl
@[simp] theorem State.setPe_ladders (k : Nat) (p : Pe) : (s.setPe k p).ladders = s.ladders := rfl
@[simp] theorem State.setPe_islSaves (k : Nat) (p : Pe) : (s.setPe k p).islSaves = s.islSaves := rfl
@[simp] theorem State.setPe_vinvs (k : Nat) (p : Pe) : (s.setPe k p).vinvs = s.vinvs := rfl
@[simp] theorem State.setPe_ccs (k : Nat) (p : Pe) : (s.setPe k p).ccs = s.ccs := rfl
@[simp] theorem State.setPe_gens (k : Nat) (p : Pe) : (s.setPe k p).gens = s.gens := rfl
@[simp] theorem State.setPe_pairs (k : Nat) (p : Pe) : (s.setPe k p).pairs = s.pairs := rfl
@[simp] theorem State.setPe_links (k : Nat) (p : Pe) : (s.setPe k p).links = s.links := rfl
@[simp] theorem State.setPe_tickAt (k : Nat) (p : Pe) : (s.setPe k p).tickAt = s.tickAt := rfl
@[simp] theorem State.setPe_tests (k : Nat) (p : Pe) : (s.setPe k p).tests = s.tests := rfl
@[simp] theorem State.setPe_testInfo (k : Nat) (p : Pe) : (s.setPe k p).testInfo = s.testInfo := rfl
@[simp] theorem State.setPe_testFails (k : Nat) (p : Pe) : (s.setPe k p).testFails = s.testFails := rfl
@[simp] theorem State.setPe_boot (k : Nat) (p : Pe) : (s.setPe k p).boot = s.boot := rfl
@[simp] theorem State.setPe_svn (k : Nat) (p : Pe) : (s.setPe k p).svn = s.svn := rfl
@[simp] theorem State.setPe_firmware (k : Nat) (p : Pe) : (s.setPe k p).firmware = s.firmware := rfl
@[simp] theorem State.setPe_loader (k : Nat) (p : Pe) : (s.setPe k p).loader = s.loader := rfl
@[simp] theorem State.setPe_record (k : Nat) (p : Pe) : (s.setPe k p).record = s.record := rfl
@[simp] theorem State.setPe_flash (k : Nat) (p : Pe) : (s.setPe k p).flash = s.flash := rfl
@[simp] theorem State.setPe_recLog (k : Nat) (p : Pe) : (s.setPe k p).recLog = s.recLog := rfl
@[simp] theorem State.setPe_sigsUsed (k : Nat) (p : Pe) : (s.setPe k p).sigsUsed = s.sigsUsed := rfl
@[simp] theorem State.setPe_ethDown (k : Nat) (p : Pe) : (s.setPe k p).ethDown = s.ethDown := rfl
@[simp] theorem State.setPe_storageUp (k : Nat) (p : Pe) : (s.setPe k p).storageUp = s.storageUp := rfl
@[simp] theorem State.setPe_trigs (k : Nat) (p : Pe) : (s.setPe k p).trigs = s.trigs := rfl
@[simp] theorem State.setPe_ccDead (k : Nat) (p : Pe) : (s.setPe k p).ccDead = s.ccDead := rfl
@[simp] theorem State.setPe_owed (k : Nat) (p : Pe) : (s.setPe k p).owed = s.owed := rfl
@[simp] theorem State.setPe_placed (k : Nat) (p : Pe) : (s.setPe k p).placed = s.placed := rfl
@[simp] theorem State.setPe_busData (k : Nat) (p : Pe) : (s.setPe k p).busData = s.busData := rfl
@[simp] theorem State.setPe_busErr (k : Nat) (p : Pe) : (s.setPe k p).busErr = s.busErr := rfl
@[simp] theorem State.setPe_busy (k : Nat) (p : Pe) : (s.setPe k p).busy = s.busy := rfl
@[simp] theorem State.setPe_holds (k : Nat) (p : Pe) : (s.setPe k p).holds = s.holds := rfl
@[simp] theorem State.setPe_weak (k : Nat) (p : Pe) : (s.setPe k p).weak = s.weak := rfl
@[simp] theorem State.setPe_eccLog (k : Nat) (p : Pe) : (s.setPe k p).eccLog = s.eccLog := rfl

/-! ### `setRow` -/

@[simp] theorem State.setRow_agenda (tile e : Nat) (v : Val) : (s.setRow tile e v).agenda = s.agenda := rfl
@[simp] theorem State.setRow_cur (tile e : Nat) (v : Val) : (s.setRow tile e v).cur = s.cur := rfl
@[simp] theorem State.setRow_held (tile e : Nat) (v : Val) : (s.setRow tile e v).held = s.held := rfl
@[simp] theorem State.setRow_cycle (tile e : Nat) (v : Val) : (s.setRow tile e v).cycle = s.cycle := rfl
@[simp] theorem State.setRow_free (tile e : Nat) (v : Val) : (s.setRow tile e v).free = s.free := rfl
@[simp] theorem State.setRow_pes (tile e : Nat) (v : Val) : (s.setRow tile e v).pes = s.pes := rfl
@[simp] theorem State.setRow_rows (tile e : Nat) (v : Val) : (s.setRow tile e v).rows = tabPut s.rows (tile * 192 + e) v := rfl
@[simp] theorem State.setRow_routesIn (tile e : Nat) (v : Val) : (s.setRow tile e v).routesIn = s.routesIn := rfl
@[simp] theorem State.setRow_regions (tile e : Nat) (v : Val) : (s.setRow tile e v).regions = s.regions := rfl
@[simp] theorem State.setRow_reqs (tile e : Nat) (v : Val) : (s.setRow tile e v).reqs = s.reqs := rfl
@[simp] theorem State.setRow_replies (tile e : Nat) (v : Val) : (s.setRow tile e v).replies = s.replies := rfl
@[simp] theorem State.setRow_tasks (tile e : Nat) (v : Val) : (s.setRow tile e v).tasks = s.tasks := rfl
@[simp] theorem State.setRow_nextTask (tile e : Nat) (v : Val) : (s.setRow tile e v).nextTask = s.nextTask := rfl
@[simp] theorem State.setRow_tiles (tile e : Nat) (v : Val) : (s.setRow tile e v).tiles = s.tiles := rfl
@[simp] theorem State.setRow_mem (tile e : Nat) (v : Val) : (s.setRow tile e v).mem = s.mem := rfl
@[simp] theorem State.setRow_pdb (tile e : Nat) (v : Val) : (s.setRow tile e v).pdb = s.pdb := rfl
@[simp] theorem State.setRow_wst (tile e : Nat) (v : Val) : (s.setRow tile e v).wst = s.wst := rfl
@[simp] theorem State.setRow_dram (tile e : Nat) (v : Val) : (s.setRow tile e v).dram = s.dram := rfl
@[simp] theorem State.setRow_vers (tile e : Nat) (v : Val) : (s.setRow tile e v).vers = s.vers := rfl
@[simp] theorem State.setRow_vparts (tile e : Nat) (v : Val) : (s.setRow tile e v).vparts = s.vparts := rfl
@[simp] theorem State.setRow_dqs (tile e : Nat) (v : Val) : (s.setRow tile e v).dqs = s.dqs := rfl
@[simp] theorem State.setRow_dseq (tile e : Nat) (v : Val) : (s.setRow tile e v).dseq = s.dseq := rfl
@[simp] theorem State.setRow_counters (tile e : Nat) (v : Val) : (s.setRow tile e v).counters = s.counters := rfl
@[simp] theorem State.setRow_dcsr (tile e : Nat) (v : Val) : (s.setRow tile e v).dcsr = s.dcsr := rfl
@[simp] theorem State.setRow_ccsr (tile e : Nat) (v : Val) : (s.setRow tile e v).ccsr = s.ccsr := rfl
@[simp] theorem State.setRow_hostRing (tile e : Nat) (v : Val) : (s.setRow tile e v).hostRing = s.hostRing := rfl
@[simp] theorem State.setRow_umber (tile e : Nat) (v : Val) : (s.setRow tile e v).umber = s.umber := rfl
@[simp] theorem State.setRow_tlb (tile e : Nat) (v : Val) : (s.setRow tile e v).tlb = s.tlb := rfl
@[simp] theorem State.setRow_tb (tile e : Nat) (v : Val) : (s.setRow tile e v).tb = s.tb := rfl
@[simp] theorem State.setRow_stc (tile e : Nat) (v : Val) : (s.setRow tile e v).stc = s.stc := rfl
@[simp] theorem State.setRow_frecs (tile e : Nat) (v : Val) : (s.setRow tile e v).frecs = s.frecs := rfl
@[simp] theorem State.setRow_fwait (tile e : Nat) (v : Val) : (s.setRow tile e v).fwait = s.fwait := rfl
@[simp] theorem State.setRow_serials (tile e : Nat) (v : Val) : (s.setRow tile e v).serials = s.serials := rfl
@[simp] theorem State.setRow_jobs (tile e : Nat) (v : Val) : (s.setRow tile e v).jobs = s.jobs := rfl
@[simp] theorem State.setRow_graphs (tile e : Nat) (v : Val) : (s.setRow tile e v).graphs = s.graphs := rfl
@[simp] theorem State.setRow_cards (tile e : Nat) (v : Val) : (s.setRow tile e v).cards = s.cards := rfl
@[simp] theorem State.setRow_nextCard (tile e : Nat) (v : Val) : (s.setRow tile e v).nextCard = s.nextCard := rfl
@[simp] theorem State.setRow_pages (tile e : Nat) (v : Val) : (s.setRow tile e v).pages = s.pages := rfl
@[simp] theorem State.setRow_ccache (tile e : Nat) (v : Val) : (s.setRow tile e v).ccache = s.ccache := rfl
@[simp] theorem State.setRow_misls (tile e : Nat) (v : Val) : (s.setRow tile e v).misls = s.misls := rfl
@[simp] theorem State.setRow_sisls (tile e : Nat) (v : Val) : (s.setRow tile e v).sisls = s.sisls := rfl
@[simp] theorem State.setRow_frames (tile e : Nat) (v : Val) : (s.setRow tile e v).frames = s.frames := rfl
@[simp] theorem State.setRow_hostFrames (tile e : Nat) (v : Val) : (s.setRow tile e v).hostFrames = s.hostFrames := rfl
@[simp] theorem State.setRow_cinvs (tile e : Nat) (v : Val) : (s.setRow tile e v).cinvs = s.cinvs := rfl
@[simp] theorem State.setRow_downDies (tile e : Nat) (v : Val) : (s.setRow tile e v).downDies = s.downDies := rfl
@[simp] theorem State.setRow_tabs (tile e : Nat) (v : Val) : (s.setRow tile e v).tabs = s.tabs := rfl
@[simp] theorem State.setRow_grants (tile e : Nat) (v : Val) : (s.setRow tile e v).grants = s.grants := rfl
@[simp] theorem State.setRow_dbgs (tile e : Nat) (v : Val) : (s.setRow tile e v).dbgs = s.dbgs := rfl
@[simp] theorem State.setRow_acctSeq (tile e : Nat) (v : Val) : (s.setRow tile e v).acctSeq = s.acctSeq := rfl
@[simp] theorem State.setRow_groups (tile e : Nat) (v : Val) : (s.setRow tile e v).groups = s.groups := rfl
@[simp] theorem State.setRow_groupNo (tile e : Nat) (v : Val) : (s.setRow tile e v).groupNo = s.groupNo := rfl
@[simp] theorem State.setRow_groupEnds (tile e : Nat) (v : Val) : (s.setRow tile e v).groupEnds = s.groupEnds := rfl
@[simp] theorem State.setRow_saved (tile e : Nat) (v : Val) : (s.setRow tile e v).saved = s.saved := rfl
@[simp] theorem State.setRow_meas0 (tile e : Nat) (v : Val) : (s.setRow tile e v).meas0 = s.meas0 := rfl
@[simp] theorem State.setRow_meas1 (tile e : Nat) (v : Val) : (s.setRow tile e v).meas1 = s.meas1 := rfl
@[simp] theorem State.setRow_queues (tile e : Nat) (v : Val) : (s.setRow tile e v).queues = s.queues := rfl
@[simp] theorem State.setRow_fe (tile e : Nat) (v : Val) : (s.setRow tile e v).fe = s.fe := rfl
@[simp] theorem State.setRow_stalls (tile e : Nat) (v : Val) : (s.setRow tile e v).stalls = s.stalls := rfl
@[simp] theorem State.setRow_ladders (tile e : Nat) (v : Val) : (s.setRow tile e v).ladders = s.ladders := rfl
@[simp] theorem State.setRow_islSaves (tile e : Nat) (v : Val) : (s.setRow tile e v).islSaves = s.islSaves := rfl
@[simp] theorem State.setRow_vinvs (tile e : Nat) (v : Val) : (s.setRow tile e v).vinvs = s.vinvs := rfl
@[simp] theorem State.setRow_ccs (tile e : Nat) (v : Val) : (s.setRow tile e v).ccs = s.ccs := rfl
@[simp] theorem State.setRow_gens (tile e : Nat) (v : Val) : (s.setRow tile e v).gens = s.gens := rfl
@[simp] theorem State.setRow_pairs (tile e : Nat) (v : Val) : (s.setRow tile e v).pairs = s.pairs := rfl
@[simp] theorem State.setRow_links (tile e : Nat) (v : Val) : (s.setRow tile e v).links = s.links := rfl
@[simp] theorem State.setRow_tickAt (tile e : Nat) (v : Val) : (s.setRow tile e v).tickAt = s.tickAt := rfl
@[simp] theorem State.setRow_tests (tile e : Nat) (v : Val) : (s.setRow tile e v).tests = s.tests := rfl
@[simp] theorem State.setRow_testInfo (tile e : Nat) (v : Val) : (s.setRow tile e v).testInfo = s.testInfo := rfl
@[simp] theorem State.setRow_testFails (tile e : Nat) (v : Val) : (s.setRow tile e v).testFails = s.testFails := rfl
@[simp] theorem State.setRow_boot (tile e : Nat) (v : Val) : (s.setRow tile e v).boot = s.boot := rfl
@[simp] theorem State.setRow_svn (tile e : Nat) (v : Val) : (s.setRow tile e v).svn = s.svn := rfl
@[simp] theorem State.setRow_firmware (tile e : Nat) (v : Val) : (s.setRow tile e v).firmware = s.firmware := rfl
@[simp] theorem State.setRow_loader (tile e : Nat) (v : Val) : (s.setRow tile e v).loader = s.loader := rfl
@[simp] theorem State.setRow_record (tile e : Nat) (v : Val) : (s.setRow tile e v).record = s.record := rfl
@[simp] theorem State.setRow_flash (tile e : Nat) (v : Val) : (s.setRow tile e v).flash = s.flash := rfl
@[simp] theorem State.setRow_recLog (tile e : Nat) (v : Val) : (s.setRow tile e v).recLog = s.recLog := rfl
@[simp] theorem State.setRow_sigsUsed (tile e : Nat) (v : Val) : (s.setRow tile e v).sigsUsed = s.sigsUsed := rfl
@[simp] theorem State.setRow_ethDown (tile e : Nat) (v : Val) : (s.setRow tile e v).ethDown = s.ethDown := rfl
@[simp] theorem State.setRow_storageUp (tile e : Nat) (v : Val) : (s.setRow tile e v).storageUp = s.storageUp := rfl
@[simp] theorem State.setRow_trigs (tile e : Nat) (v : Val) : (s.setRow tile e v).trigs = s.trigs := rfl
@[simp] theorem State.setRow_ccDead (tile e : Nat) (v : Val) : (s.setRow tile e v).ccDead = s.ccDead := rfl
@[simp] theorem State.setRow_owed (tile e : Nat) (v : Val) : (s.setRow tile e v).owed = s.owed := rfl
@[simp] theorem State.setRow_placed (tile e : Nat) (v : Val) : (s.setRow tile e v).placed = s.placed := rfl
@[simp] theorem State.setRow_busData (tile e : Nat) (v : Val) : (s.setRow tile e v).busData = s.busData := rfl
@[simp] theorem State.setRow_busErr (tile e : Nat) (v : Val) : (s.setRow tile e v).busErr = s.busErr := rfl
@[simp] theorem State.setRow_busy (tile e : Nat) (v : Val) : (s.setRow tile e v).busy = s.busy := rfl
@[simp] theorem State.setRow_holds (tile e : Nat) (v : Val) : (s.setRow tile e v).holds = s.holds := rfl
@[simp] theorem State.setRow_weak (tile e : Nat) (v : Val) : (s.setRow tile e v).weak = s.weak := rfl
@[simp] theorem State.setRow_eccLog (tile e : Nat) (v : Val) : (s.setRow tile e v).eccLog = s.eccLog := rfl

/-! ### `setRouteIn` -/

@[simp] theorem State.setRouteIn_agenda (tile n : Nat) (b : Beat) : (s.setRouteIn tile n b).agenda = s.agenda := rfl
@[simp] theorem State.setRouteIn_cur (tile n : Nat) (b : Beat) : (s.setRouteIn tile n b).cur = s.cur := rfl
@[simp] theorem State.setRouteIn_held (tile n : Nat) (b : Beat) : (s.setRouteIn tile n b).held = s.held := rfl
@[simp] theorem State.setRouteIn_cycle (tile n : Nat) (b : Beat) : (s.setRouteIn tile n b).cycle = s.cycle := rfl
@[simp] theorem State.setRouteIn_free (tile n : Nat) (b : Beat) : (s.setRouteIn tile n b).free = s.free := rfl
@[simp] theorem State.setRouteIn_pes (tile n : Nat) (b : Beat) : (s.setRouteIn tile n b).pes = s.pes := rfl
@[simp] theorem State.setRouteIn_rows (tile n : Nat) (b : Beat) : (s.setRouteIn tile n b).rows = s.rows := rfl
@[simp] theorem State.setRouteIn_routesIn (tile n : Nat) (b : Beat) : (s.setRouteIn tile n b).routesIn = tabPut s.routesIn (tile * 8 + n) b := rfl
@[simp] theorem State.setRouteIn_regions (tile n : Nat) (b : Beat) : (s.setRouteIn tile n b).regions = s.regions := rfl
@[simp] theorem State.setRouteIn_reqs (tile n : Nat) (b : Beat) : (s.setRouteIn tile n b).reqs = s.reqs := rfl
@[simp] theorem State.setRouteIn_replies (tile n : Nat) (b : Beat) : (s.setRouteIn tile n b).replies = s.replies := rfl
@[simp] theorem State.setRouteIn_tasks (tile n : Nat) (b : Beat) : (s.setRouteIn tile n b).tasks = s.tasks := rfl
@[simp] theorem State.setRouteIn_nextTask (tile n : Nat) (b : Beat) : (s.setRouteIn tile n b).nextTask = s.nextTask := rfl
@[simp] theorem State.setRouteIn_tiles (tile n : Nat) (b : Beat) : (s.setRouteIn tile n b).tiles = s.tiles := rfl
@[simp] theorem State.setRouteIn_mem (tile n : Nat) (b : Beat) : (s.setRouteIn tile n b).mem = s.mem := rfl
@[simp] theorem State.setRouteIn_pdb (tile n : Nat) (b : Beat) : (s.setRouteIn tile n b).pdb = s.pdb := rfl
@[simp] theorem State.setRouteIn_wst (tile n : Nat) (b : Beat) : (s.setRouteIn tile n b).wst = s.wst := rfl
@[simp] theorem State.setRouteIn_dram (tile n : Nat) (b : Beat) : (s.setRouteIn tile n b).dram = s.dram := rfl
@[simp] theorem State.setRouteIn_vers (tile n : Nat) (b : Beat) : (s.setRouteIn tile n b).vers = s.vers := rfl
@[simp] theorem State.setRouteIn_vparts (tile n : Nat) (b : Beat) : (s.setRouteIn tile n b).vparts = s.vparts := rfl
@[simp] theorem State.setRouteIn_dqs (tile n : Nat) (b : Beat) : (s.setRouteIn tile n b).dqs = s.dqs := rfl
@[simp] theorem State.setRouteIn_dseq (tile n : Nat) (b : Beat) : (s.setRouteIn tile n b).dseq = s.dseq := rfl
@[simp] theorem State.setRouteIn_counters (tile n : Nat) (b : Beat) : (s.setRouteIn tile n b).counters = s.counters := rfl
@[simp] theorem State.setRouteIn_dcsr (tile n : Nat) (b : Beat) : (s.setRouteIn tile n b).dcsr = s.dcsr := rfl
@[simp] theorem State.setRouteIn_ccsr (tile n : Nat) (b : Beat) : (s.setRouteIn tile n b).ccsr = s.ccsr := rfl
@[simp] theorem State.setRouteIn_hostRing (tile n : Nat) (b : Beat) : (s.setRouteIn tile n b).hostRing = s.hostRing := rfl
@[simp] theorem State.setRouteIn_umber (tile n : Nat) (b : Beat) : (s.setRouteIn tile n b).umber = s.umber := rfl
@[simp] theorem State.setRouteIn_tlb (tile n : Nat) (b : Beat) : (s.setRouteIn tile n b).tlb = s.tlb := rfl
@[simp] theorem State.setRouteIn_tb (tile n : Nat) (b : Beat) : (s.setRouteIn tile n b).tb = s.tb := rfl
@[simp] theorem State.setRouteIn_stc (tile n : Nat) (b : Beat) : (s.setRouteIn tile n b).stc = s.stc := rfl
@[simp] theorem State.setRouteIn_frecs (tile n : Nat) (b : Beat) : (s.setRouteIn tile n b).frecs = s.frecs := rfl
@[simp] theorem State.setRouteIn_fwait (tile n : Nat) (b : Beat) : (s.setRouteIn tile n b).fwait = s.fwait := rfl
@[simp] theorem State.setRouteIn_serials (tile n : Nat) (b : Beat) : (s.setRouteIn tile n b).serials = s.serials := rfl
@[simp] theorem State.setRouteIn_jobs (tile n : Nat) (b : Beat) : (s.setRouteIn tile n b).jobs = s.jobs := rfl
@[simp] theorem State.setRouteIn_graphs (tile n : Nat) (b : Beat) : (s.setRouteIn tile n b).graphs = s.graphs := rfl
@[simp] theorem State.setRouteIn_cards (tile n : Nat) (b : Beat) : (s.setRouteIn tile n b).cards = s.cards := rfl
@[simp] theorem State.setRouteIn_nextCard (tile n : Nat) (b : Beat) : (s.setRouteIn tile n b).nextCard = s.nextCard := rfl
@[simp] theorem State.setRouteIn_pages (tile n : Nat) (b : Beat) : (s.setRouteIn tile n b).pages = s.pages := rfl
@[simp] theorem State.setRouteIn_ccache (tile n : Nat) (b : Beat) : (s.setRouteIn tile n b).ccache = s.ccache := rfl
@[simp] theorem State.setRouteIn_misls (tile n : Nat) (b : Beat) : (s.setRouteIn tile n b).misls = s.misls := rfl
@[simp] theorem State.setRouteIn_sisls (tile n : Nat) (b : Beat) : (s.setRouteIn tile n b).sisls = s.sisls := rfl
@[simp] theorem State.setRouteIn_frames (tile n : Nat) (b : Beat) : (s.setRouteIn tile n b).frames = s.frames := rfl
@[simp] theorem State.setRouteIn_hostFrames (tile n : Nat) (b : Beat) : (s.setRouteIn tile n b).hostFrames = s.hostFrames := rfl
@[simp] theorem State.setRouteIn_cinvs (tile n : Nat) (b : Beat) : (s.setRouteIn tile n b).cinvs = s.cinvs := rfl
@[simp] theorem State.setRouteIn_downDies (tile n : Nat) (b : Beat) : (s.setRouteIn tile n b).downDies = s.downDies := rfl
@[simp] theorem State.setRouteIn_tabs (tile n : Nat) (b : Beat) : (s.setRouteIn tile n b).tabs = s.tabs := rfl
@[simp] theorem State.setRouteIn_grants (tile n : Nat) (b : Beat) : (s.setRouteIn tile n b).grants = s.grants := rfl
@[simp] theorem State.setRouteIn_dbgs (tile n : Nat) (b : Beat) : (s.setRouteIn tile n b).dbgs = s.dbgs := rfl
@[simp] theorem State.setRouteIn_acctSeq (tile n : Nat) (b : Beat) : (s.setRouteIn tile n b).acctSeq = s.acctSeq := rfl
@[simp] theorem State.setRouteIn_groups (tile n : Nat) (b : Beat) : (s.setRouteIn tile n b).groups = s.groups := rfl
@[simp] theorem State.setRouteIn_groupNo (tile n : Nat) (b : Beat) : (s.setRouteIn tile n b).groupNo = s.groupNo := rfl
@[simp] theorem State.setRouteIn_groupEnds (tile n : Nat) (b : Beat) : (s.setRouteIn tile n b).groupEnds = s.groupEnds := rfl
@[simp] theorem State.setRouteIn_saved (tile n : Nat) (b : Beat) : (s.setRouteIn tile n b).saved = s.saved := rfl
@[simp] theorem State.setRouteIn_meas0 (tile n : Nat) (b : Beat) : (s.setRouteIn tile n b).meas0 = s.meas0 := rfl
@[simp] theorem State.setRouteIn_meas1 (tile n : Nat) (b : Beat) : (s.setRouteIn tile n b).meas1 = s.meas1 := rfl
@[simp] theorem State.setRouteIn_queues (tile n : Nat) (b : Beat) : (s.setRouteIn tile n b).queues = s.queues := rfl
@[simp] theorem State.setRouteIn_fe (tile n : Nat) (b : Beat) : (s.setRouteIn tile n b).fe = s.fe := rfl
@[simp] theorem State.setRouteIn_stalls (tile n : Nat) (b : Beat) : (s.setRouteIn tile n b).stalls = s.stalls := rfl
@[simp] theorem State.setRouteIn_ladders (tile n : Nat) (b : Beat) : (s.setRouteIn tile n b).ladders = s.ladders := rfl
@[simp] theorem State.setRouteIn_islSaves (tile n : Nat) (b : Beat) : (s.setRouteIn tile n b).islSaves = s.islSaves := rfl
@[simp] theorem State.setRouteIn_vinvs (tile n : Nat) (b : Beat) : (s.setRouteIn tile n b).vinvs = s.vinvs := rfl
@[simp] theorem State.setRouteIn_ccs (tile n : Nat) (b : Beat) : (s.setRouteIn tile n b).ccs = s.ccs := rfl
@[simp] theorem State.setRouteIn_gens (tile n : Nat) (b : Beat) : (s.setRouteIn tile n b).gens = s.gens := rfl
@[simp] theorem State.setRouteIn_pairs (tile n : Nat) (b : Beat) : (s.setRouteIn tile n b).pairs = s.pairs := rfl
@[simp] theorem State.setRouteIn_links (tile n : Nat) (b : Beat) : (s.setRouteIn tile n b).links = s.links := rfl
@[simp] theorem State.setRouteIn_tickAt (tile n : Nat) (b : Beat) : (s.setRouteIn tile n b).tickAt = s.tickAt := rfl
@[simp] theorem State.setRouteIn_tests (tile n : Nat) (b : Beat) : (s.setRouteIn tile n b).tests = s.tests := rfl
@[simp] theorem State.setRouteIn_testInfo (tile n : Nat) (b : Beat) : (s.setRouteIn tile n b).testInfo = s.testInfo := rfl
@[simp] theorem State.setRouteIn_testFails (tile n : Nat) (b : Beat) : (s.setRouteIn tile n b).testFails = s.testFails := rfl
@[simp] theorem State.setRouteIn_boot (tile n : Nat) (b : Beat) : (s.setRouteIn tile n b).boot = s.boot := rfl
@[simp] theorem State.setRouteIn_svn (tile n : Nat) (b : Beat) : (s.setRouteIn tile n b).svn = s.svn := rfl
@[simp] theorem State.setRouteIn_firmware (tile n : Nat) (b : Beat) : (s.setRouteIn tile n b).firmware = s.firmware := rfl
@[simp] theorem State.setRouteIn_loader (tile n : Nat) (b : Beat) : (s.setRouteIn tile n b).loader = s.loader := rfl
@[simp] theorem State.setRouteIn_record (tile n : Nat) (b : Beat) : (s.setRouteIn tile n b).record = s.record := rfl
@[simp] theorem State.setRouteIn_flash (tile n : Nat) (b : Beat) : (s.setRouteIn tile n b).flash = s.flash := rfl
@[simp] theorem State.setRouteIn_recLog (tile n : Nat) (b : Beat) : (s.setRouteIn tile n b).recLog = s.recLog := rfl
@[simp] theorem State.setRouteIn_sigsUsed (tile n : Nat) (b : Beat) : (s.setRouteIn tile n b).sigsUsed = s.sigsUsed := rfl
@[simp] theorem State.setRouteIn_ethDown (tile n : Nat) (b : Beat) : (s.setRouteIn tile n b).ethDown = s.ethDown := rfl
@[simp] theorem State.setRouteIn_storageUp (tile n : Nat) (b : Beat) : (s.setRouteIn tile n b).storageUp = s.storageUp := rfl
@[simp] theorem State.setRouteIn_trigs (tile n : Nat) (b : Beat) : (s.setRouteIn tile n b).trigs = s.trigs := rfl
@[simp] theorem State.setRouteIn_ccDead (tile n : Nat) (b : Beat) : (s.setRouteIn tile n b).ccDead = s.ccDead := rfl
@[simp] theorem State.setRouteIn_owed (tile n : Nat) (b : Beat) : (s.setRouteIn tile n b).owed = s.owed := rfl
@[simp] theorem State.setRouteIn_placed (tile n : Nat) (b : Beat) : (s.setRouteIn tile n b).placed = s.placed := rfl
@[simp] theorem State.setRouteIn_busData (tile n : Nat) (b : Beat) : (s.setRouteIn tile n b).busData = s.busData := rfl
@[simp] theorem State.setRouteIn_busErr (tile n : Nat) (b : Beat) : (s.setRouteIn tile n b).busErr = s.busErr := rfl
@[simp] theorem State.setRouteIn_busy (tile n : Nat) (b : Beat) : (s.setRouteIn tile n b).busy = s.busy := rfl
@[simp] theorem State.setRouteIn_holds (tile n : Nat) (b : Beat) : (s.setRouteIn tile n b).holds = s.holds := rfl
@[simp] theorem State.setRouteIn_weak (tile n : Nat) (b : Beat) : (s.setRouteIn tile n b).weak = s.weak := rfl
@[simp] theorem State.setRouteIn_eccLog (tile n : Nat) (b : Beat) : (s.setRouteIn tile n b).eccLog = s.eccLog := rfl

/-! ### `setRegion` -/

@[simp] theorem State.setRegion_agenda (c h d : Nat) (r : Region) : (s.setRegion c h d r).agenda = s.agenda := rfl
@[simp] theorem State.setRegion_cur (c h d : Nat) (r : Region) : (s.setRegion c h d r).cur = s.cur := rfl
@[simp] theorem State.setRegion_held (c h d : Nat) (r : Region) : (s.setRegion c h d r).held = s.held := rfl
@[simp] theorem State.setRegion_cycle (c h d : Nat) (r : Region) : (s.setRegion c h d r).cycle = s.cycle := rfl
@[simp] theorem State.setRegion_free (c h d : Nat) (r : Region) : (s.setRegion c h d r).free = s.free := rfl
@[simp] theorem State.setRegion_pes (c h d : Nat) (r : Region) : (s.setRegion c h d r).pes = s.pes := rfl
@[simp] theorem State.setRegion_rows (c h d : Nat) (r : Region) : (s.setRegion c h d r).rows = s.rows := rfl
@[simp] theorem State.setRegion_routesIn (c h d : Nat) (r : Region) : (s.setRegion c h d r).routesIn = s.routesIn := rfl
@[simp] theorem State.setRegion_regions (c h d : Nat) (r : Region) : (s.setRegion c h d r).regions = tabPut s.regions (regKey c h d) r := rfl
@[simp] theorem State.setRegion_reqs (c h d : Nat) (r : Region) : (s.setRegion c h d r).reqs = s.reqs := rfl
@[simp] theorem State.setRegion_replies (c h d : Nat) (r : Region) : (s.setRegion c h d r).replies = s.replies := rfl
@[simp] theorem State.setRegion_tasks (c h d : Nat) (r : Region) : (s.setRegion c h d r).tasks = s.tasks := rfl
@[simp] theorem State.setRegion_nextTask (c h d : Nat) (r : Region) : (s.setRegion c h d r).nextTask = s.nextTask := rfl
@[simp] theorem State.setRegion_tiles (c h d : Nat) (r : Region) : (s.setRegion c h d r).tiles = s.tiles := rfl
@[simp] theorem State.setRegion_mem (c h d : Nat) (r : Region) : (s.setRegion c h d r).mem = s.mem := rfl
@[simp] theorem State.setRegion_pdb (c h d : Nat) (r : Region) : (s.setRegion c h d r).pdb = s.pdb := rfl
@[simp] theorem State.setRegion_wst (c h d : Nat) (r : Region) : (s.setRegion c h d r).wst = s.wst := rfl
@[simp] theorem State.setRegion_dram (c h d : Nat) (r : Region) : (s.setRegion c h d r).dram = s.dram := rfl
@[simp] theorem State.setRegion_vers (c h d : Nat) (r : Region) : (s.setRegion c h d r).vers = s.vers := rfl
@[simp] theorem State.setRegion_vparts (c h d : Nat) (r : Region) : (s.setRegion c h d r).vparts = s.vparts := rfl
@[simp] theorem State.setRegion_dqs (c h d : Nat) (r : Region) : (s.setRegion c h d r).dqs = s.dqs := rfl
@[simp] theorem State.setRegion_dseq (c h d : Nat) (r : Region) : (s.setRegion c h d r).dseq = s.dseq := rfl
@[simp] theorem State.setRegion_counters (c h d : Nat) (r : Region) : (s.setRegion c h d r).counters = s.counters := rfl
@[simp] theorem State.setRegion_dcsr (c h d : Nat) (r : Region) : (s.setRegion c h d r).dcsr = s.dcsr := rfl
@[simp] theorem State.setRegion_ccsr (c h d : Nat) (r : Region) : (s.setRegion c h d r).ccsr = s.ccsr := rfl
@[simp] theorem State.setRegion_hostRing (c h d : Nat) (r : Region) : (s.setRegion c h d r).hostRing = s.hostRing := rfl
@[simp] theorem State.setRegion_umber (c h d : Nat) (r : Region) : (s.setRegion c h d r).umber = s.umber := rfl
@[simp] theorem State.setRegion_tlb (c h d : Nat) (r : Region) : (s.setRegion c h d r).tlb = s.tlb := rfl
@[simp] theorem State.setRegion_tb (c h d : Nat) (r : Region) : (s.setRegion c h d r).tb = s.tb := rfl
@[simp] theorem State.setRegion_stc (c h d : Nat) (r : Region) : (s.setRegion c h d r).stc = s.stc := rfl
@[simp] theorem State.setRegion_frecs (c h d : Nat) (r : Region) : (s.setRegion c h d r).frecs = s.frecs := rfl
@[simp] theorem State.setRegion_fwait (c h d : Nat) (r : Region) : (s.setRegion c h d r).fwait = s.fwait := rfl
@[simp] theorem State.setRegion_serials (c h d : Nat) (r : Region) : (s.setRegion c h d r).serials = s.serials := rfl
@[simp] theorem State.setRegion_jobs (c h d : Nat) (r : Region) : (s.setRegion c h d r).jobs = s.jobs := rfl
@[simp] theorem State.setRegion_graphs (c h d : Nat) (r : Region) : (s.setRegion c h d r).graphs = s.graphs := rfl
@[simp] theorem State.setRegion_cards (c h d : Nat) (r : Region) : (s.setRegion c h d r).cards = s.cards := rfl
@[simp] theorem State.setRegion_nextCard (c h d : Nat) (r : Region) : (s.setRegion c h d r).nextCard = s.nextCard := rfl
@[simp] theorem State.setRegion_pages (c h d : Nat) (r : Region) : (s.setRegion c h d r).pages = s.pages := rfl
@[simp] theorem State.setRegion_ccache (c h d : Nat) (r : Region) : (s.setRegion c h d r).ccache = s.ccache := rfl
@[simp] theorem State.setRegion_misls (c h d : Nat) (r : Region) : (s.setRegion c h d r).misls = s.misls := rfl
@[simp] theorem State.setRegion_sisls (c h d : Nat) (r : Region) : (s.setRegion c h d r).sisls = s.sisls := rfl
@[simp] theorem State.setRegion_frames (c h d : Nat) (r : Region) : (s.setRegion c h d r).frames = s.frames := rfl
@[simp] theorem State.setRegion_hostFrames (c h d : Nat) (r : Region) : (s.setRegion c h d r).hostFrames = s.hostFrames := rfl
@[simp] theorem State.setRegion_cinvs (c h d : Nat) (r : Region) : (s.setRegion c h d r).cinvs = s.cinvs := rfl
@[simp] theorem State.setRegion_downDies (c h d : Nat) (r : Region) : (s.setRegion c h d r).downDies = s.downDies := rfl
@[simp] theorem State.setRegion_tabs (c h d : Nat) (r : Region) : (s.setRegion c h d r).tabs = s.tabs := rfl
@[simp] theorem State.setRegion_grants (c h d : Nat) (r : Region) : (s.setRegion c h d r).grants = s.grants := rfl
@[simp] theorem State.setRegion_dbgs (c h d : Nat) (r : Region) : (s.setRegion c h d r).dbgs = s.dbgs := rfl
@[simp] theorem State.setRegion_acctSeq (c h d : Nat) (r : Region) : (s.setRegion c h d r).acctSeq = s.acctSeq := rfl
@[simp] theorem State.setRegion_groups (c h d : Nat) (r : Region) : (s.setRegion c h d r).groups = s.groups := rfl
@[simp] theorem State.setRegion_groupNo (c h d : Nat) (r : Region) : (s.setRegion c h d r).groupNo = s.groupNo := rfl
@[simp] theorem State.setRegion_groupEnds (c h d : Nat) (r : Region) : (s.setRegion c h d r).groupEnds = s.groupEnds := rfl
@[simp] theorem State.setRegion_saved (c h d : Nat) (r : Region) : (s.setRegion c h d r).saved = s.saved := rfl
@[simp] theorem State.setRegion_meas0 (c h d : Nat) (r : Region) : (s.setRegion c h d r).meas0 = s.meas0 := rfl
@[simp] theorem State.setRegion_meas1 (c h d : Nat) (r : Region) : (s.setRegion c h d r).meas1 = s.meas1 := rfl
@[simp] theorem State.setRegion_queues (c h d : Nat) (r : Region) : (s.setRegion c h d r).queues = s.queues := rfl
@[simp] theorem State.setRegion_fe (c h d : Nat) (r : Region) : (s.setRegion c h d r).fe = s.fe := rfl
@[simp] theorem State.setRegion_stalls (c h d : Nat) (r : Region) : (s.setRegion c h d r).stalls = s.stalls := rfl
@[simp] theorem State.setRegion_ladders (c h d : Nat) (r : Region) : (s.setRegion c h d r).ladders = s.ladders := rfl
@[simp] theorem State.setRegion_islSaves (c h d : Nat) (r : Region) : (s.setRegion c h d r).islSaves = s.islSaves := rfl
@[simp] theorem State.setRegion_vinvs (c h d : Nat) (r : Region) : (s.setRegion c h d r).vinvs = s.vinvs := rfl
@[simp] theorem State.setRegion_ccs (c h d : Nat) (r : Region) : (s.setRegion c h d r).ccs = s.ccs := rfl
@[simp] theorem State.setRegion_gens (c h d : Nat) (r : Region) : (s.setRegion c h d r).gens = s.gens := rfl
@[simp] theorem State.setRegion_pairs (c h d : Nat) (r : Region) : (s.setRegion c h d r).pairs = s.pairs := rfl
@[simp] theorem State.setRegion_links (c h d : Nat) (r : Region) : (s.setRegion c h d r).links = s.links := rfl
@[simp] theorem State.setRegion_tickAt (c h d : Nat) (r : Region) : (s.setRegion c h d r).tickAt = s.tickAt := rfl
@[simp] theorem State.setRegion_tests (c h d : Nat) (r : Region) : (s.setRegion c h d r).tests = s.tests := rfl
@[simp] theorem State.setRegion_testInfo (c h d : Nat) (r : Region) : (s.setRegion c h d r).testInfo = s.testInfo := rfl
@[simp] theorem State.setRegion_testFails (c h d : Nat) (r : Region) : (s.setRegion c h d r).testFails = s.testFails := rfl
@[simp] theorem State.setRegion_boot (c h d : Nat) (r : Region) : (s.setRegion c h d r).boot = s.boot := rfl
@[simp] theorem State.setRegion_svn (c h d : Nat) (r : Region) : (s.setRegion c h d r).svn = s.svn := rfl
@[simp] theorem State.setRegion_firmware (c h d : Nat) (r : Region) : (s.setRegion c h d r).firmware = s.firmware := rfl
@[simp] theorem State.setRegion_loader (c h d : Nat) (r : Region) : (s.setRegion c h d r).loader = s.loader := rfl
@[simp] theorem State.setRegion_record (c h d : Nat) (r : Region) : (s.setRegion c h d r).record = s.record := rfl
@[simp] theorem State.setRegion_flash (c h d : Nat) (r : Region) : (s.setRegion c h d r).flash = s.flash := rfl
@[simp] theorem State.setRegion_recLog (c h d : Nat) (r : Region) : (s.setRegion c h d r).recLog = s.recLog := rfl
@[simp] theorem State.setRegion_sigsUsed (c h d : Nat) (r : Region) : (s.setRegion c h d r).sigsUsed = s.sigsUsed := rfl
@[simp] theorem State.setRegion_ethDown (c h d : Nat) (r : Region) : (s.setRegion c h d r).ethDown = s.ethDown := rfl
@[simp] theorem State.setRegion_storageUp (c h d : Nat) (r : Region) : (s.setRegion c h d r).storageUp = s.storageUp := rfl
@[simp] theorem State.setRegion_trigs (c h d : Nat) (r : Region) : (s.setRegion c h d r).trigs = s.trigs := rfl
@[simp] theorem State.setRegion_ccDead (c h d : Nat) (r : Region) : (s.setRegion c h d r).ccDead = s.ccDead := rfl
@[simp] theorem State.setRegion_owed (c h d : Nat) (r : Region) : (s.setRegion c h d r).owed = s.owed := rfl
@[simp] theorem State.setRegion_placed (c h d : Nat) (r : Region) : (s.setRegion c h d r).placed = s.placed := rfl
@[simp] theorem State.setRegion_busData (c h d : Nat) (r : Region) : (s.setRegion c h d r).busData = s.busData := rfl
@[simp] theorem State.setRegion_busErr (c h d : Nat) (r : Region) : (s.setRegion c h d r).busErr = s.busErr := rfl
@[simp] theorem State.setRegion_busy (c h d : Nat) (r : Region) : (s.setRegion c h d r).busy = s.busy := rfl
@[simp] theorem State.setRegion_holds (c h d : Nat) (r : Region) : (s.setRegion c h d r).holds = s.holds := rfl
@[simp] theorem State.setRegion_weak (c h d : Nat) (r : Region) : (s.setRegion c h d r).weak = s.weak := rfl
@[simp] theorem State.setRegion_eccLog (c h d : Nat) (r : Region) : (s.setRegion c h d r).eccLog = s.eccLog := rfl

/-! ### `setTask` -/

@[simp] theorem State.setTask_agenda (k : Nat) (t : Task) : (s.setTask k t).agenda = s.agenda := rfl
@[simp] theorem State.setTask_cur (k : Nat) (t : Task) : (s.setTask k t).cur = s.cur := rfl
@[simp] theorem State.setTask_held (k : Nat) (t : Task) : (s.setTask k t).held = s.held := rfl
@[simp] theorem State.setTask_cycle (k : Nat) (t : Task) : (s.setTask k t).cycle = s.cycle := rfl
@[simp] theorem State.setTask_free (k : Nat) (t : Task) : (s.setTask k t).free = s.free := rfl
@[simp] theorem State.setTask_pes (k : Nat) (t : Task) : (s.setTask k t).pes = s.pes := rfl
@[simp] theorem State.setTask_rows (k : Nat) (t : Task) : (s.setTask k t).rows = s.rows := rfl
@[simp] theorem State.setTask_routesIn (k : Nat) (t : Task) : (s.setTask k t).routesIn = s.routesIn := rfl
@[simp] theorem State.setTask_regions (k : Nat) (t : Task) : (s.setTask k t).regions = s.regions := rfl
@[simp] theorem State.setTask_reqs (k : Nat) (t : Task) : (s.setTask k t).reqs = s.reqs := rfl
@[simp] theorem State.setTask_replies (k : Nat) (t : Task) : (s.setTask k t).replies = s.replies := rfl
@[simp] theorem State.setTask_tasks (k : Nat) (t : Task) : (s.setTask k t).tasks = tabPut s.tasks k t := rfl
@[simp] theorem State.setTask_nextTask (k : Nat) (t : Task) : (s.setTask k t).nextTask = s.nextTask := rfl
@[simp] theorem State.setTask_tiles (k : Nat) (t : Task) : (s.setTask k t).tiles = s.tiles := rfl
@[simp] theorem State.setTask_mem (k : Nat) (t : Task) : (s.setTask k t).mem = s.mem := rfl
@[simp] theorem State.setTask_pdb (k : Nat) (t : Task) : (s.setTask k t).pdb = s.pdb := rfl
@[simp] theorem State.setTask_wst (k : Nat) (t : Task) : (s.setTask k t).wst = s.wst := rfl
@[simp] theorem State.setTask_dram (k : Nat) (t : Task) : (s.setTask k t).dram = s.dram := rfl
@[simp] theorem State.setTask_vers (k : Nat) (t : Task) : (s.setTask k t).vers = s.vers := rfl
@[simp] theorem State.setTask_vparts (k : Nat) (t : Task) : (s.setTask k t).vparts = s.vparts := rfl
@[simp] theorem State.setTask_dqs (k : Nat) (t : Task) : (s.setTask k t).dqs = s.dqs := rfl
@[simp] theorem State.setTask_dseq (k : Nat) (t : Task) : (s.setTask k t).dseq = s.dseq := rfl
@[simp] theorem State.setTask_counters (k : Nat) (t : Task) : (s.setTask k t).counters = s.counters := rfl
@[simp] theorem State.setTask_dcsr (k : Nat) (t : Task) : (s.setTask k t).dcsr = s.dcsr := rfl
@[simp] theorem State.setTask_ccsr (k : Nat) (t : Task) : (s.setTask k t).ccsr = s.ccsr := rfl
@[simp] theorem State.setTask_hostRing (k : Nat) (t : Task) : (s.setTask k t).hostRing = s.hostRing := rfl
@[simp] theorem State.setTask_umber (k : Nat) (t : Task) : (s.setTask k t).umber = s.umber := rfl
@[simp] theorem State.setTask_tlb (k : Nat) (t : Task) : (s.setTask k t).tlb = s.tlb := rfl
@[simp] theorem State.setTask_tb (k : Nat) (t : Task) : (s.setTask k t).tb = s.tb := rfl
@[simp] theorem State.setTask_stc (k : Nat) (t : Task) : (s.setTask k t).stc = s.stc := rfl
@[simp] theorem State.setTask_frecs (k : Nat) (t : Task) : (s.setTask k t).frecs = s.frecs := rfl
@[simp] theorem State.setTask_fwait (k : Nat) (t : Task) : (s.setTask k t).fwait = s.fwait := rfl
@[simp] theorem State.setTask_serials (k : Nat) (t : Task) : (s.setTask k t).serials = s.serials := rfl
@[simp] theorem State.setTask_jobs (k : Nat) (t : Task) : (s.setTask k t).jobs = s.jobs := rfl
@[simp] theorem State.setTask_graphs (k : Nat) (t : Task) : (s.setTask k t).graphs = s.graphs := rfl
@[simp] theorem State.setTask_cards (k : Nat) (t : Task) : (s.setTask k t).cards = s.cards := rfl
@[simp] theorem State.setTask_nextCard (k : Nat) (t : Task) : (s.setTask k t).nextCard = s.nextCard := rfl
@[simp] theorem State.setTask_pages (k : Nat) (t : Task) : (s.setTask k t).pages = s.pages := rfl
@[simp] theorem State.setTask_ccache (k : Nat) (t : Task) : (s.setTask k t).ccache = s.ccache := rfl
@[simp] theorem State.setTask_misls (k : Nat) (t : Task) : (s.setTask k t).misls = s.misls := rfl
@[simp] theorem State.setTask_sisls (k : Nat) (t : Task) : (s.setTask k t).sisls = s.sisls := rfl
@[simp] theorem State.setTask_frames (k : Nat) (t : Task) : (s.setTask k t).frames = s.frames := rfl
@[simp] theorem State.setTask_hostFrames (k : Nat) (t : Task) : (s.setTask k t).hostFrames = s.hostFrames := rfl
@[simp] theorem State.setTask_cinvs (k : Nat) (t : Task) : (s.setTask k t).cinvs = s.cinvs := rfl
@[simp] theorem State.setTask_downDies (k : Nat) (t : Task) : (s.setTask k t).downDies = s.downDies := rfl
@[simp] theorem State.setTask_tabs (k : Nat) (t : Task) : (s.setTask k t).tabs = s.tabs := rfl
@[simp] theorem State.setTask_grants (k : Nat) (t : Task) : (s.setTask k t).grants = s.grants := rfl
@[simp] theorem State.setTask_dbgs (k : Nat) (t : Task) : (s.setTask k t).dbgs = s.dbgs := rfl
@[simp] theorem State.setTask_acctSeq (k : Nat) (t : Task) : (s.setTask k t).acctSeq = s.acctSeq := rfl
@[simp] theorem State.setTask_groups (k : Nat) (t : Task) : (s.setTask k t).groups = s.groups := rfl
@[simp] theorem State.setTask_groupNo (k : Nat) (t : Task) : (s.setTask k t).groupNo = s.groupNo := rfl
@[simp] theorem State.setTask_groupEnds (k : Nat) (t : Task) : (s.setTask k t).groupEnds = s.groupEnds := rfl
@[simp] theorem State.setTask_saved (k : Nat) (t : Task) : (s.setTask k t).saved = s.saved := rfl
@[simp] theorem State.setTask_meas0 (k : Nat) (t : Task) : (s.setTask k t).meas0 = s.meas0 := rfl
@[simp] theorem State.setTask_meas1 (k : Nat) (t : Task) : (s.setTask k t).meas1 = s.meas1 := rfl
@[simp] theorem State.setTask_queues (k : Nat) (t : Task) : (s.setTask k t).queues = s.queues := rfl
@[simp] theorem State.setTask_fe (k : Nat) (t : Task) : (s.setTask k t).fe = s.fe := rfl
@[simp] theorem State.setTask_stalls (k : Nat) (t : Task) : (s.setTask k t).stalls = s.stalls := rfl
@[simp] theorem State.setTask_ladders (k : Nat) (t : Task) : (s.setTask k t).ladders = s.ladders := rfl
@[simp] theorem State.setTask_islSaves (k : Nat) (t : Task) : (s.setTask k t).islSaves = s.islSaves := rfl
@[simp] theorem State.setTask_vinvs (k : Nat) (t : Task) : (s.setTask k t).vinvs = s.vinvs := rfl
@[simp] theorem State.setTask_ccs (k : Nat) (t : Task) : (s.setTask k t).ccs = s.ccs := rfl
@[simp] theorem State.setTask_gens (k : Nat) (t : Task) : (s.setTask k t).gens = s.gens := rfl
@[simp] theorem State.setTask_pairs (k : Nat) (t : Task) : (s.setTask k t).pairs = s.pairs := rfl
@[simp] theorem State.setTask_links (k : Nat) (t : Task) : (s.setTask k t).links = s.links := rfl
@[simp] theorem State.setTask_tickAt (k : Nat) (t : Task) : (s.setTask k t).tickAt = s.tickAt := rfl
@[simp] theorem State.setTask_tests (k : Nat) (t : Task) : (s.setTask k t).tests = s.tests := rfl
@[simp] theorem State.setTask_testInfo (k : Nat) (t : Task) : (s.setTask k t).testInfo = s.testInfo := rfl
@[simp] theorem State.setTask_testFails (k : Nat) (t : Task) : (s.setTask k t).testFails = s.testFails := rfl
@[simp] theorem State.setTask_boot (k : Nat) (t : Task) : (s.setTask k t).boot = s.boot := rfl
@[simp] theorem State.setTask_svn (k : Nat) (t : Task) : (s.setTask k t).svn = s.svn := rfl
@[simp] theorem State.setTask_firmware (k : Nat) (t : Task) : (s.setTask k t).firmware = s.firmware := rfl
@[simp] theorem State.setTask_loader (k : Nat) (t : Task) : (s.setTask k t).loader = s.loader := rfl
@[simp] theorem State.setTask_record (k : Nat) (t : Task) : (s.setTask k t).record = s.record := rfl
@[simp] theorem State.setTask_flash (k : Nat) (t : Task) : (s.setTask k t).flash = s.flash := rfl
@[simp] theorem State.setTask_recLog (k : Nat) (t : Task) : (s.setTask k t).recLog = s.recLog := rfl
@[simp] theorem State.setTask_sigsUsed (k : Nat) (t : Task) : (s.setTask k t).sigsUsed = s.sigsUsed := rfl
@[simp] theorem State.setTask_ethDown (k : Nat) (t : Task) : (s.setTask k t).ethDown = s.ethDown := rfl
@[simp] theorem State.setTask_storageUp (k : Nat) (t : Task) : (s.setTask k t).storageUp = s.storageUp := rfl
@[simp] theorem State.setTask_trigs (k : Nat) (t : Task) : (s.setTask k t).trigs = s.trigs := rfl
@[simp] theorem State.setTask_ccDead (k : Nat) (t : Task) : (s.setTask k t).ccDead = s.ccDead := rfl
@[simp] theorem State.setTask_owed (k : Nat) (t : Task) : (s.setTask k t).owed = s.owed := rfl
@[simp] theorem State.setTask_placed (k : Nat) (t : Task) : (s.setTask k t).placed = s.placed := rfl
@[simp] theorem State.setTask_busData (k : Nat) (t : Task) : (s.setTask k t).busData = s.busData := rfl
@[simp] theorem State.setTask_busErr (k : Nat) (t : Task) : (s.setTask k t).busErr = s.busErr := rfl
@[simp] theorem State.setTask_busy (k : Nat) (t : Task) : (s.setTask k t).busy = s.busy := rfl
@[simp] theorem State.setTask_holds (k : Nat) (t : Task) : (s.setTask k t).holds = s.holds := rfl
@[simp] theorem State.setTask_weak (k : Nat) (t : Task) : (s.setTask k t).weak = s.weak := rfl
@[simp] theorem State.setTask_eccLog (k : Nat) (t : Task) : (s.setTask k t).eccLog = s.eccLog := rfl

/-! ### `setTile` -/

@[simp] theorem State.setTile_agenda (k : Nat) (t : MemTile) : (s.setTile k t).agenda = s.agenda := rfl
@[simp] theorem State.setTile_cur (k : Nat) (t : MemTile) : (s.setTile k t).cur = s.cur := rfl
@[simp] theorem State.setTile_held (k : Nat) (t : MemTile) : (s.setTile k t).held = s.held := rfl
@[simp] theorem State.setTile_cycle (k : Nat) (t : MemTile) : (s.setTile k t).cycle = s.cycle := rfl
@[simp] theorem State.setTile_free (k : Nat) (t : MemTile) : (s.setTile k t).free = s.free := rfl
@[simp] theorem State.setTile_pes (k : Nat) (t : MemTile) : (s.setTile k t).pes = s.pes := rfl
@[simp] theorem State.setTile_rows (k : Nat) (t : MemTile) : (s.setTile k t).rows = s.rows := rfl
@[simp] theorem State.setTile_routesIn (k : Nat) (t : MemTile) : (s.setTile k t).routesIn = s.routesIn := rfl
@[simp] theorem State.setTile_regions (k : Nat) (t : MemTile) : (s.setTile k t).regions = s.regions := rfl
@[simp] theorem State.setTile_reqs (k : Nat) (t : MemTile) : (s.setTile k t).reqs = s.reqs := rfl
@[simp] theorem State.setTile_replies (k : Nat) (t : MemTile) : (s.setTile k t).replies = s.replies := rfl
@[simp] theorem State.setTile_tasks (k : Nat) (t : MemTile) : (s.setTile k t).tasks = s.tasks := rfl
@[simp] theorem State.setTile_nextTask (k : Nat) (t : MemTile) : (s.setTile k t).nextTask = s.nextTask := rfl
@[simp] theorem State.setTile_tiles (k : Nat) (t : MemTile) : (s.setTile k t).tiles = tabPut s.tiles k t := rfl
@[simp] theorem State.setTile_mem (k : Nat) (t : MemTile) : (s.setTile k t).mem = s.mem := rfl
@[simp] theorem State.setTile_pdb (k : Nat) (t : MemTile) : (s.setTile k t).pdb = s.pdb := rfl
@[simp] theorem State.setTile_wst (k : Nat) (t : MemTile) : (s.setTile k t).wst = s.wst := rfl
@[simp] theorem State.setTile_dram (k : Nat) (t : MemTile) : (s.setTile k t).dram = s.dram := rfl
@[simp] theorem State.setTile_vers (k : Nat) (t : MemTile) : (s.setTile k t).vers = s.vers := rfl
@[simp] theorem State.setTile_vparts (k : Nat) (t : MemTile) : (s.setTile k t).vparts = s.vparts := rfl
@[simp] theorem State.setTile_dqs (k : Nat) (t : MemTile) : (s.setTile k t).dqs = s.dqs := rfl
@[simp] theorem State.setTile_dseq (k : Nat) (t : MemTile) : (s.setTile k t).dseq = s.dseq := rfl
@[simp] theorem State.setTile_counters (k : Nat) (t : MemTile) : (s.setTile k t).counters = s.counters := rfl
@[simp] theorem State.setTile_dcsr (k : Nat) (t : MemTile) : (s.setTile k t).dcsr = s.dcsr := rfl
@[simp] theorem State.setTile_ccsr (k : Nat) (t : MemTile) : (s.setTile k t).ccsr = s.ccsr := rfl
@[simp] theorem State.setTile_hostRing (k : Nat) (t : MemTile) : (s.setTile k t).hostRing = s.hostRing := rfl
@[simp] theorem State.setTile_umber (k : Nat) (t : MemTile) : (s.setTile k t).umber = s.umber := rfl
@[simp] theorem State.setTile_tlb (k : Nat) (t : MemTile) : (s.setTile k t).tlb = s.tlb := rfl
@[simp] theorem State.setTile_tb (k : Nat) (t : MemTile) : (s.setTile k t).tb = s.tb := rfl
@[simp] theorem State.setTile_stc (k : Nat) (t : MemTile) : (s.setTile k t).stc = s.stc := rfl
@[simp] theorem State.setTile_frecs (k : Nat) (t : MemTile) : (s.setTile k t).frecs = s.frecs := rfl
@[simp] theorem State.setTile_fwait (k : Nat) (t : MemTile) : (s.setTile k t).fwait = s.fwait := rfl
@[simp] theorem State.setTile_serials (k : Nat) (t : MemTile) : (s.setTile k t).serials = s.serials := rfl
@[simp] theorem State.setTile_jobs (k : Nat) (t : MemTile) : (s.setTile k t).jobs = s.jobs := rfl
@[simp] theorem State.setTile_graphs (k : Nat) (t : MemTile) : (s.setTile k t).graphs = s.graphs := rfl
@[simp] theorem State.setTile_cards (k : Nat) (t : MemTile) : (s.setTile k t).cards = s.cards := rfl
@[simp] theorem State.setTile_nextCard (k : Nat) (t : MemTile) : (s.setTile k t).nextCard = s.nextCard := rfl
@[simp] theorem State.setTile_pages (k : Nat) (t : MemTile) : (s.setTile k t).pages = s.pages := rfl
@[simp] theorem State.setTile_ccache (k : Nat) (t : MemTile) : (s.setTile k t).ccache = s.ccache := rfl
@[simp] theorem State.setTile_misls (k : Nat) (t : MemTile) : (s.setTile k t).misls = s.misls := rfl
@[simp] theorem State.setTile_sisls (k : Nat) (t : MemTile) : (s.setTile k t).sisls = s.sisls := rfl
@[simp] theorem State.setTile_frames (k : Nat) (t : MemTile) : (s.setTile k t).frames = s.frames := rfl
@[simp] theorem State.setTile_hostFrames (k : Nat) (t : MemTile) : (s.setTile k t).hostFrames = s.hostFrames := rfl
@[simp] theorem State.setTile_cinvs (k : Nat) (t : MemTile) : (s.setTile k t).cinvs = s.cinvs := rfl
@[simp] theorem State.setTile_downDies (k : Nat) (t : MemTile) : (s.setTile k t).downDies = s.downDies := rfl
@[simp] theorem State.setTile_tabs (k : Nat) (t : MemTile) : (s.setTile k t).tabs = s.tabs := rfl
@[simp] theorem State.setTile_grants (k : Nat) (t : MemTile) : (s.setTile k t).grants = s.grants := rfl
@[simp] theorem State.setTile_dbgs (k : Nat) (t : MemTile) : (s.setTile k t).dbgs = s.dbgs := rfl
@[simp] theorem State.setTile_acctSeq (k : Nat) (t : MemTile) : (s.setTile k t).acctSeq = s.acctSeq := rfl
@[simp] theorem State.setTile_groups (k : Nat) (t : MemTile) : (s.setTile k t).groups = s.groups := rfl
@[simp] theorem State.setTile_groupNo (k : Nat) (t : MemTile) : (s.setTile k t).groupNo = s.groupNo := rfl
@[simp] theorem State.setTile_groupEnds (k : Nat) (t : MemTile) : (s.setTile k t).groupEnds = s.groupEnds := rfl
@[simp] theorem State.setTile_saved (k : Nat) (t : MemTile) : (s.setTile k t).saved = s.saved := rfl
@[simp] theorem State.setTile_meas0 (k : Nat) (t : MemTile) : (s.setTile k t).meas0 = s.meas0 := rfl
@[simp] theorem State.setTile_meas1 (k : Nat) (t : MemTile) : (s.setTile k t).meas1 = s.meas1 := rfl
@[simp] theorem State.setTile_queues (k : Nat) (t : MemTile) : (s.setTile k t).queues = s.queues := rfl
@[simp] theorem State.setTile_fe (k : Nat) (t : MemTile) : (s.setTile k t).fe = s.fe := rfl
@[simp] theorem State.setTile_stalls (k : Nat) (t : MemTile) : (s.setTile k t).stalls = s.stalls := rfl
@[simp] theorem State.setTile_ladders (k : Nat) (t : MemTile) : (s.setTile k t).ladders = s.ladders := rfl
@[simp] theorem State.setTile_islSaves (k : Nat) (t : MemTile) : (s.setTile k t).islSaves = s.islSaves := rfl
@[simp] theorem State.setTile_vinvs (k : Nat) (t : MemTile) : (s.setTile k t).vinvs = s.vinvs := rfl
@[simp] theorem State.setTile_ccs (k : Nat) (t : MemTile) : (s.setTile k t).ccs = s.ccs := rfl
@[simp] theorem State.setTile_gens (k : Nat) (t : MemTile) : (s.setTile k t).gens = s.gens := rfl
@[simp] theorem State.setTile_pairs (k : Nat) (t : MemTile) : (s.setTile k t).pairs = s.pairs := rfl
@[simp] theorem State.setTile_links (k : Nat) (t : MemTile) : (s.setTile k t).links = s.links := rfl
@[simp] theorem State.setTile_tickAt (k : Nat) (t : MemTile) : (s.setTile k t).tickAt = s.tickAt := rfl
@[simp] theorem State.setTile_tests (k : Nat) (t : MemTile) : (s.setTile k t).tests = s.tests := rfl
@[simp] theorem State.setTile_testInfo (k : Nat) (t : MemTile) : (s.setTile k t).testInfo = s.testInfo := rfl
@[simp] theorem State.setTile_testFails (k : Nat) (t : MemTile) : (s.setTile k t).testFails = s.testFails := rfl
@[simp] theorem State.setTile_boot (k : Nat) (t : MemTile) : (s.setTile k t).boot = s.boot := rfl
@[simp] theorem State.setTile_svn (k : Nat) (t : MemTile) : (s.setTile k t).svn = s.svn := rfl
@[simp] theorem State.setTile_firmware (k : Nat) (t : MemTile) : (s.setTile k t).firmware = s.firmware := rfl
@[simp] theorem State.setTile_loader (k : Nat) (t : MemTile) : (s.setTile k t).loader = s.loader := rfl
@[simp] theorem State.setTile_record (k : Nat) (t : MemTile) : (s.setTile k t).record = s.record := rfl
@[simp] theorem State.setTile_flash (k : Nat) (t : MemTile) : (s.setTile k t).flash = s.flash := rfl
@[simp] theorem State.setTile_recLog (k : Nat) (t : MemTile) : (s.setTile k t).recLog = s.recLog := rfl
@[simp] theorem State.setTile_sigsUsed (k : Nat) (t : MemTile) : (s.setTile k t).sigsUsed = s.sigsUsed := rfl
@[simp] theorem State.setTile_ethDown (k : Nat) (t : MemTile) : (s.setTile k t).ethDown = s.ethDown := rfl
@[simp] theorem State.setTile_storageUp (k : Nat) (t : MemTile) : (s.setTile k t).storageUp = s.storageUp := rfl
@[simp] theorem State.setTile_trigs (k : Nat) (t : MemTile) : (s.setTile k t).trigs = s.trigs := rfl
@[simp] theorem State.setTile_ccDead (k : Nat) (t : MemTile) : (s.setTile k t).ccDead = s.ccDead := rfl
@[simp] theorem State.setTile_owed (k : Nat) (t : MemTile) : (s.setTile k t).owed = s.owed := rfl
@[simp] theorem State.setTile_placed (k : Nat) (t : MemTile) : (s.setTile k t).placed = s.placed := rfl
@[simp] theorem State.setTile_busData (k : Nat) (t : MemTile) : (s.setTile k t).busData = s.busData := rfl
@[simp] theorem State.setTile_busErr (k : Nat) (t : MemTile) : (s.setTile k t).busErr = s.busErr := rfl
@[simp] theorem State.setTile_busy (k : Nat) (t : MemTile) : (s.setTile k t).busy = s.busy := rfl
@[simp] theorem State.setTile_holds (k : Nat) (t : MemTile) : (s.setTile k t).holds = s.holds := rfl
@[simp] theorem State.setTile_weak (k : Nat) (t : MemTile) : (s.setTile k t).weak = s.weak := rfl
@[simp] theorem State.setTile_eccLog (k : Nat) (t : MemTile) : (s.setTile k t).eccLog = s.eccLog := rfl

/-! ### `setDcsr` -/

@[simp] theorem State.setDcsr_agenda (die num : Nat) (v : Word) : (s.setDcsr die num v).agenda = s.agenda := rfl
@[simp] theorem State.setDcsr_cur (die num : Nat) (v : Word) : (s.setDcsr die num v).cur = s.cur := rfl
@[simp] theorem State.setDcsr_held (die num : Nat) (v : Word) : (s.setDcsr die num v).held = s.held := rfl
@[simp] theorem State.setDcsr_cycle (die num : Nat) (v : Word) : (s.setDcsr die num v).cycle = s.cycle := rfl
@[simp] theorem State.setDcsr_free (die num : Nat) (v : Word) : (s.setDcsr die num v).free = s.free := rfl
@[simp] theorem State.setDcsr_pes (die num : Nat) (v : Word) : (s.setDcsr die num v).pes = s.pes := rfl
@[simp] theorem State.setDcsr_rows (die num : Nat) (v : Word) : (s.setDcsr die num v).rows = s.rows := rfl
@[simp] theorem State.setDcsr_routesIn (die num : Nat) (v : Word) : (s.setDcsr die num v).routesIn = s.routesIn := rfl
@[simp] theorem State.setDcsr_regions (die num : Nat) (v : Word) : (s.setDcsr die num v).regions = s.regions := rfl
@[simp] theorem State.setDcsr_reqs (die num : Nat) (v : Word) : (s.setDcsr die num v).reqs = s.reqs := rfl
@[simp] theorem State.setDcsr_replies (die num : Nat) (v : Word) : (s.setDcsr die num v).replies = s.replies := rfl
@[simp] theorem State.setDcsr_tasks (die num : Nat) (v : Word) : (s.setDcsr die num v).tasks = s.tasks := rfl
@[simp] theorem State.setDcsr_nextTask (die num : Nat) (v : Word) : (s.setDcsr die num v).nextTask = s.nextTask := rfl
@[simp] theorem State.setDcsr_tiles (die num : Nat) (v : Word) : (s.setDcsr die num v).tiles = s.tiles := rfl
@[simp] theorem State.setDcsr_mem (die num : Nat) (v : Word) : (s.setDcsr die num v).mem = s.mem := rfl
@[simp] theorem State.setDcsr_pdb (die num : Nat) (v : Word) : (s.setDcsr die num v).pdb = s.pdb := rfl
@[simp] theorem State.setDcsr_wst (die num : Nat) (v : Word) : (s.setDcsr die num v).wst = s.wst := rfl
@[simp] theorem State.setDcsr_dram (die num : Nat) (v : Word) : (s.setDcsr die num v).dram = s.dram := rfl
@[simp] theorem State.setDcsr_vers (die num : Nat) (v : Word) : (s.setDcsr die num v).vers = s.vers := rfl
@[simp] theorem State.setDcsr_vparts (die num : Nat) (v : Word) : (s.setDcsr die num v).vparts = s.vparts := rfl
@[simp] theorem State.setDcsr_dqs (die num : Nat) (v : Word) : (s.setDcsr die num v).dqs = s.dqs := rfl
@[simp] theorem State.setDcsr_dseq (die num : Nat) (v : Word) : (s.setDcsr die num v).dseq = s.dseq := rfl
@[simp] theorem State.setDcsr_counters (die num : Nat) (v : Word) : (s.setDcsr die num v).counters = s.counters := rfl
@[simp] theorem State.setDcsr_dcsr (die num : Nat) (v : Word) : (s.setDcsr die num v).dcsr = tabPut s.dcsr (die * 65536 + num) v := rfl
@[simp] theorem State.setDcsr_ccsr (die num : Nat) (v : Word) : (s.setDcsr die num v).ccsr = s.ccsr := rfl
@[simp] theorem State.setDcsr_hostRing (die num : Nat) (v : Word) : (s.setDcsr die num v).hostRing = s.hostRing := rfl
@[simp] theorem State.setDcsr_umber (die num : Nat) (v : Word) : (s.setDcsr die num v).umber = s.umber := rfl
@[simp] theorem State.setDcsr_tlb (die num : Nat) (v : Word) : (s.setDcsr die num v).tlb = s.tlb := rfl
@[simp] theorem State.setDcsr_tb (die num : Nat) (v : Word) : (s.setDcsr die num v).tb = s.tb := rfl
@[simp] theorem State.setDcsr_stc (die num : Nat) (v : Word) : (s.setDcsr die num v).stc = s.stc := rfl
@[simp] theorem State.setDcsr_frecs (die num : Nat) (v : Word) : (s.setDcsr die num v).frecs = s.frecs := rfl
@[simp] theorem State.setDcsr_fwait (die num : Nat) (v : Word) : (s.setDcsr die num v).fwait = s.fwait := rfl
@[simp] theorem State.setDcsr_serials (die num : Nat) (v : Word) : (s.setDcsr die num v).serials = s.serials := rfl
@[simp] theorem State.setDcsr_jobs (die num : Nat) (v : Word) : (s.setDcsr die num v).jobs = s.jobs := rfl
@[simp] theorem State.setDcsr_graphs (die num : Nat) (v : Word) : (s.setDcsr die num v).graphs = s.graphs := rfl
@[simp] theorem State.setDcsr_cards (die num : Nat) (v : Word) : (s.setDcsr die num v).cards = s.cards := rfl
@[simp] theorem State.setDcsr_nextCard (die num : Nat) (v : Word) : (s.setDcsr die num v).nextCard = s.nextCard := rfl
@[simp] theorem State.setDcsr_pages (die num : Nat) (v : Word) : (s.setDcsr die num v).pages = s.pages := rfl
@[simp] theorem State.setDcsr_ccache (die num : Nat) (v : Word) : (s.setDcsr die num v).ccache = s.ccache := rfl
@[simp] theorem State.setDcsr_misls (die num : Nat) (v : Word) : (s.setDcsr die num v).misls = s.misls := rfl
@[simp] theorem State.setDcsr_sisls (die num : Nat) (v : Word) : (s.setDcsr die num v).sisls = s.sisls := rfl
@[simp] theorem State.setDcsr_frames (die num : Nat) (v : Word) : (s.setDcsr die num v).frames = s.frames := rfl
@[simp] theorem State.setDcsr_hostFrames (die num : Nat) (v : Word) : (s.setDcsr die num v).hostFrames = s.hostFrames := rfl
@[simp] theorem State.setDcsr_cinvs (die num : Nat) (v : Word) : (s.setDcsr die num v).cinvs = s.cinvs := rfl
@[simp] theorem State.setDcsr_downDies (die num : Nat) (v : Word) : (s.setDcsr die num v).downDies = s.downDies := rfl
@[simp] theorem State.setDcsr_tabs (die num : Nat) (v : Word) : (s.setDcsr die num v).tabs = s.tabs := rfl
@[simp] theorem State.setDcsr_grants (die num : Nat) (v : Word) : (s.setDcsr die num v).grants = s.grants := rfl
@[simp] theorem State.setDcsr_dbgs (die num : Nat) (v : Word) : (s.setDcsr die num v).dbgs = s.dbgs := rfl
@[simp] theorem State.setDcsr_acctSeq (die num : Nat) (v : Word) : (s.setDcsr die num v).acctSeq = s.acctSeq := rfl
@[simp] theorem State.setDcsr_groups (die num : Nat) (v : Word) : (s.setDcsr die num v).groups = s.groups := rfl
@[simp] theorem State.setDcsr_groupNo (die num : Nat) (v : Word) : (s.setDcsr die num v).groupNo = s.groupNo := rfl
@[simp] theorem State.setDcsr_groupEnds (die num : Nat) (v : Word) : (s.setDcsr die num v).groupEnds = s.groupEnds := rfl
@[simp] theorem State.setDcsr_saved (die num : Nat) (v : Word) : (s.setDcsr die num v).saved = s.saved := rfl
@[simp] theorem State.setDcsr_meas0 (die num : Nat) (v : Word) : (s.setDcsr die num v).meas0 = s.meas0 := rfl
@[simp] theorem State.setDcsr_meas1 (die num : Nat) (v : Word) : (s.setDcsr die num v).meas1 = s.meas1 := rfl
@[simp] theorem State.setDcsr_queues (die num : Nat) (v : Word) : (s.setDcsr die num v).queues = s.queues := rfl
@[simp] theorem State.setDcsr_fe (die num : Nat) (v : Word) : (s.setDcsr die num v).fe = s.fe := rfl
@[simp] theorem State.setDcsr_stalls (die num : Nat) (v : Word) : (s.setDcsr die num v).stalls = s.stalls := rfl
@[simp] theorem State.setDcsr_ladders (die num : Nat) (v : Word) : (s.setDcsr die num v).ladders = s.ladders := rfl
@[simp] theorem State.setDcsr_islSaves (die num : Nat) (v : Word) : (s.setDcsr die num v).islSaves = s.islSaves := rfl
@[simp] theorem State.setDcsr_vinvs (die num : Nat) (v : Word) : (s.setDcsr die num v).vinvs = s.vinvs := rfl
@[simp] theorem State.setDcsr_ccs (die num : Nat) (v : Word) : (s.setDcsr die num v).ccs = s.ccs := rfl
@[simp] theorem State.setDcsr_gens (die num : Nat) (v : Word) : (s.setDcsr die num v).gens = s.gens := rfl
@[simp] theorem State.setDcsr_pairs (die num : Nat) (v : Word) : (s.setDcsr die num v).pairs = s.pairs := rfl
@[simp] theorem State.setDcsr_links (die num : Nat) (v : Word) : (s.setDcsr die num v).links = s.links := rfl
@[simp] theorem State.setDcsr_tickAt (die num : Nat) (v : Word) : (s.setDcsr die num v).tickAt = s.tickAt := rfl
@[simp] theorem State.setDcsr_tests (die num : Nat) (v : Word) : (s.setDcsr die num v).tests = s.tests := rfl
@[simp] theorem State.setDcsr_testInfo (die num : Nat) (v : Word) : (s.setDcsr die num v).testInfo = s.testInfo := rfl
@[simp] theorem State.setDcsr_testFails (die num : Nat) (v : Word) : (s.setDcsr die num v).testFails = s.testFails := rfl
@[simp] theorem State.setDcsr_boot (die num : Nat) (v : Word) : (s.setDcsr die num v).boot = s.boot := rfl
@[simp] theorem State.setDcsr_svn (die num : Nat) (v : Word) : (s.setDcsr die num v).svn = s.svn := rfl
@[simp] theorem State.setDcsr_firmware (die num : Nat) (v : Word) : (s.setDcsr die num v).firmware = s.firmware := rfl
@[simp] theorem State.setDcsr_loader (die num : Nat) (v : Word) : (s.setDcsr die num v).loader = s.loader := rfl
@[simp] theorem State.setDcsr_record (die num : Nat) (v : Word) : (s.setDcsr die num v).record = s.record := rfl
@[simp] theorem State.setDcsr_flash (die num : Nat) (v : Word) : (s.setDcsr die num v).flash = s.flash := rfl
@[simp] theorem State.setDcsr_recLog (die num : Nat) (v : Word) : (s.setDcsr die num v).recLog = s.recLog := rfl
@[simp] theorem State.setDcsr_sigsUsed (die num : Nat) (v : Word) : (s.setDcsr die num v).sigsUsed = s.sigsUsed := rfl
@[simp] theorem State.setDcsr_ethDown (die num : Nat) (v : Word) : (s.setDcsr die num v).ethDown = s.ethDown := rfl
@[simp] theorem State.setDcsr_storageUp (die num : Nat) (v : Word) : (s.setDcsr die num v).storageUp = s.storageUp := rfl
@[simp] theorem State.setDcsr_trigs (die num : Nat) (v : Word) : (s.setDcsr die num v).trigs = s.trigs := rfl
@[simp] theorem State.setDcsr_ccDead (die num : Nat) (v : Word) : (s.setDcsr die num v).ccDead = s.ccDead := rfl
@[simp] theorem State.setDcsr_owed (die num : Nat) (v : Word) : (s.setDcsr die num v).owed = s.owed := rfl
@[simp] theorem State.setDcsr_placed (die num : Nat) (v : Word) : (s.setDcsr die num v).placed = s.placed := rfl
@[simp] theorem State.setDcsr_busData (die num : Nat) (v : Word) : (s.setDcsr die num v).busData = s.busData := rfl
@[simp] theorem State.setDcsr_busErr (die num : Nat) (v : Word) : (s.setDcsr die num v).busErr = s.busErr := rfl
@[simp] theorem State.setDcsr_busy (die num : Nat) (v : Word) : (s.setDcsr die num v).busy = s.busy := rfl
@[simp] theorem State.setDcsr_holds (die num : Nat) (v : Word) : (s.setDcsr die num v).holds = s.holds := rfl
@[simp] theorem State.setDcsr_weak (die num : Nat) (v : Word) : (s.setDcsr die num v).weak = s.weak := rfl
@[simp] theorem State.setDcsr_eccLog (die num : Nat) (v : Word) : (s.setDcsr die num v).eccLog = s.eccLog := rfl

/-! ### `setCcsr` -/

@[simp] theorem State.setCcsr_agenda (ctx num : Nat) (v : Word) : (s.setCcsr ctx num v).agenda = s.agenda := rfl
@[simp] theorem State.setCcsr_cur (ctx num : Nat) (v : Word) : (s.setCcsr ctx num v).cur = s.cur := rfl
@[simp] theorem State.setCcsr_held (ctx num : Nat) (v : Word) : (s.setCcsr ctx num v).held = s.held := rfl
@[simp] theorem State.setCcsr_cycle (ctx num : Nat) (v : Word) : (s.setCcsr ctx num v).cycle = s.cycle := rfl
@[simp] theorem State.setCcsr_free (ctx num : Nat) (v : Word) : (s.setCcsr ctx num v).free = s.free := rfl
@[simp] theorem State.setCcsr_pes (ctx num : Nat) (v : Word) : (s.setCcsr ctx num v).pes = s.pes := rfl
@[simp] theorem State.setCcsr_rows (ctx num : Nat) (v : Word) : (s.setCcsr ctx num v).rows = s.rows := rfl
@[simp] theorem State.setCcsr_routesIn (ctx num : Nat) (v : Word) : (s.setCcsr ctx num v).routesIn = s.routesIn := rfl
@[simp] theorem State.setCcsr_regions (ctx num : Nat) (v : Word) : (s.setCcsr ctx num v).regions = s.regions := rfl
@[simp] theorem State.setCcsr_reqs (ctx num : Nat) (v : Word) : (s.setCcsr ctx num v).reqs = s.reqs := rfl
@[simp] theorem State.setCcsr_replies (ctx num : Nat) (v : Word) : (s.setCcsr ctx num v).replies = s.replies := rfl
@[simp] theorem State.setCcsr_tasks (ctx num : Nat) (v : Word) : (s.setCcsr ctx num v).tasks = s.tasks := rfl
@[simp] theorem State.setCcsr_nextTask (ctx num : Nat) (v : Word) : (s.setCcsr ctx num v).nextTask = s.nextTask := rfl
@[simp] theorem State.setCcsr_tiles (ctx num : Nat) (v : Word) : (s.setCcsr ctx num v).tiles = s.tiles := rfl
@[simp] theorem State.setCcsr_mem (ctx num : Nat) (v : Word) : (s.setCcsr ctx num v).mem = s.mem := rfl
@[simp] theorem State.setCcsr_pdb (ctx num : Nat) (v : Word) : (s.setCcsr ctx num v).pdb = s.pdb := rfl
@[simp] theorem State.setCcsr_wst (ctx num : Nat) (v : Word) : (s.setCcsr ctx num v).wst = s.wst := rfl
@[simp] theorem State.setCcsr_dram (ctx num : Nat) (v : Word) : (s.setCcsr ctx num v).dram = s.dram := rfl
@[simp] theorem State.setCcsr_vers (ctx num : Nat) (v : Word) : (s.setCcsr ctx num v).vers = s.vers := rfl
@[simp] theorem State.setCcsr_vparts (ctx num : Nat) (v : Word) : (s.setCcsr ctx num v).vparts = s.vparts := rfl
@[simp] theorem State.setCcsr_dqs (ctx num : Nat) (v : Word) : (s.setCcsr ctx num v).dqs = s.dqs := rfl
@[simp] theorem State.setCcsr_dseq (ctx num : Nat) (v : Word) : (s.setCcsr ctx num v).dseq = s.dseq := rfl
@[simp] theorem State.setCcsr_counters (ctx num : Nat) (v : Word) : (s.setCcsr ctx num v).counters = s.counters := rfl
@[simp] theorem State.setCcsr_dcsr (ctx num : Nat) (v : Word) : (s.setCcsr ctx num v).dcsr = s.dcsr := rfl
@[simp] theorem State.setCcsr_ccsr (ctx num : Nat) (v : Word) : (s.setCcsr ctx num v).ccsr = tabPut s.ccsr (ctx * 65536 + num) v := rfl
@[simp] theorem State.setCcsr_hostRing (ctx num : Nat) (v : Word) : (s.setCcsr ctx num v).hostRing = s.hostRing := rfl
@[simp] theorem State.setCcsr_umber (ctx num : Nat) (v : Word) : (s.setCcsr ctx num v).umber = s.umber := rfl
@[simp] theorem State.setCcsr_tlb (ctx num : Nat) (v : Word) : (s.setCcsr ctx num v).tlb = s.tlb := rfl
@[simp] theorem State.setCcsr_tb (ctx num : Nat) (v : Word) : (s.setCcsr ctx num v).tb = s.tb := rfl
@[simp] theorem State.setCcsr_stc (ctx num : Nat) (v : Word) : (s.setCcsr ctx num v).stc = s.stc := rfl
@[simp] theorem State.setCcsr_frecs (ctx num : Nat) (v : Word) : (s.setCcsr ctx num v).frecs = s.frecs := rfl
@[simp] theorem State.setCcsr_fwait (ctx num : Nat) (v : Word) : (s.setCcsr ctx num v).fwait = s.fwait := rfl
@[simp] theorem State.setCcsr_serials (ctx num : Nat) (v : Word) : (s.setCcsr ctx num v).serials = s.serials := rfl
@[simp] theorem State.setCcsr_jobs (ctx num : Nat) (v : Word) : (s.setCcsr ctx num v).jobs = s.jobs := rfl
@[simp] theorem State.setCcsr_graphs (ctx num : Nat) (v : Word) : (s.setCcsr ctx num v).graphs = s.graphs := rfl
@[simp] theorem State.setCcsr_cards (ctx num : Nat) (v : Word) : (s.setCcsr ctx num v).cards = s.cards := rfl
@[simp] theorem State.setCcsr_nextCard (ctx num : Nat) (v : Word) : (s.setCcsr ctx num v).nextCard = s.nextCard := rfl
@[simp] theorem State.setCcsr_pages (ctx num : Nat) (v : Word) : (s.setCcsr ctx num v).pages = s.pages := rfl
@[simp] theorem State.setCcsr_ccache (ctx num : Nat) (v : Word) : (s.setCcsr ctx num v).ccache = s.ccache := rfl
@[simp] theorem State.setCcsr_misls (ctx num : Nat) (v : Word) : (s.setCcsr ctx num v).misls = s.misls := rfl
@[simp] theorem State.setCcsr_sisls (ctx num : Nat) (v : Word) : (s.setCcsr ctx num v).sisls = s.sisls := rfl
@[simp] theorem State.setCcsr_frames (ctx num : Nat) (v : Word) : (s.setCcsr ctx num v).frames = s.frames := rfl
@[simp] theorem State.setCcsr_hostFrames (ctx num : Nat) (v : Word) : (s.setCcsr ctx num v).hostFrames = s.hostFrames := rfl
@[simp] theorem State.setCcsr_cinvs (ctx num : Nat) (v : Word) : (s.setCcsr ctx num v).cinvs = s.cinvs := rfl
@[simp] theorem State.setCcsr_downDies (ctx num : Nat) (v : Word) : (s.setCcsr ctx num v).downDies = s.downDies := rfl
@[simp] theorem State.setCcsr_tabs (ctx num : Nat) (v : Word) : (s.setCcsr ctx num v).tabs = s.tabs := rfl
@[simp] theorem State.setCcsr_grants (ctx num : Nat) (v : Word) : (s.setCcsr ctx num v).grants = s.grants := rfl
@[simp] theorem State.setCcsr_dbgs (ctx num : Nat) (v : Word) : (s.setCcsr ctx num v).dbgs = s.dbgs := rfl
@[simp] theorem State.setCcsr_acctSeq (ctx num : Nat) (v : Word) : (s.setCcsr ctx num v).acctSeq = s.acctSeq := rfl
@[simp] theorem State.setCcsr_groups (ctx num : Nat) (v : Word) : (s.setCcsr ctx num v).groups = s.groups := rfl
@[simp] theorem State.setCcsr_groupNo (ctx num : Nat) (v : Word) : (s.setCcsr ctx num v).groupNo = s.groupNo := rfl
@[simp] theorem State.setCcsr_groupEnds (ctx num : Nat) (v : Word) : (s.setCcsr ctx num v).groupEnds = s.groupEnds := rfl
@[simp] theorem State.setCcsr_saved (ctx num : Nat) (v : Word) : (s.setCcsr ctx num v).saved = s.saved := rfl
@[simp] theorem State.setCcsr_meas0 (ctx num : Nat) (v : Word) : (s.setCcsr ctx num v).meas0 = s.meas0 := rfl
@[simp] theorem State.setCcsr_meas1 (ctx num : Nat) (v : Word) : (s.setCcsr ctx num v).meas1 = s.meas1 := rfl
@[simp] theorem State.setCcsr_queues (ctx num : Nat) (v : Word) : (s.setCcsr ctx num v).queues = s.queues := rfl
@[simp] theorem State.setCcsr_fe (ctx num : Nat) (v : Word) : (s.setCcsr ctx num v).fe = s.fe := rfl
@[simp] theorem State.setCcsr_stalls (ctx num : Nat) (v : Word) : (s.setCcsr ctx num v).stalls = s.stalls := rfl
@[simp] theorem State.setCcsr_ladders (ctx num : Nat) (v : Word) : (s.setCcsr ctx num v).ladders = s.ladders := rfl
@[simp] theorem State.setCcsr_islSaves (ctx num : Nat) (v : Word) : (s.setCcsr ctx num v).islSaves = s.islSaves := rfl
@[simp] theorem State.setCcsr_vinvs (ctx num : Nat) (v : Word) : (s.setCcsr ctx num v).vinvs = s.vinvs := rfl
@[simp] theorem State.setCcsr_ccs (ctx num : Nat) (v : Word) : (s.setCcsr ctx num v).ccs = s.ccs := rfl
@[simp] theorem State.setCcsr_gens (ctx num : Nat) (v : Word) : (s.setCcsr ctx num v).gens = s.gens := rfl
@[simp] theorem State.setCcsr_pairs (ctx num : Nat) (v : Word) : (s.setCcsr ctx num v).pairs = s.pairs := rfl
@[simp] theorem State.setCcsr_links (ctx num : Nat) (v : Word) : (s.setCcsr ctx num v).links = s.links := rfl
@[simp] theorem State.setCcsr_tickAt (ctx num : Nat) (v : Word) : (s.setCcsr ctx num v).tickAt = s.tickAt := rfl
@[simp] theorem State.setCcsr_tests (ctx num : Nat) (v : Word) : (s.setCcsr ctx num v).tests = s.tests := rfl
@[simp] theorem State.setCcsr_testInfo (ctx num : Nat) (v : Word) : (s.setCcsr ctx num v).testInfo = s.testInfo := rfl
@[simp] theorem State.setCcsr_testFails (ctx num : Nat) (v : Word) : (s.setCcsr ctx num v).testFails = s.testFails := rfl
@[simp] theorem State.setCcsr_boot (ctx num : Nat) (v : Word) : (s.setCcsr ctx num v).boot = s.boot := rfl
@[simp] theorem State.setCcsr_svn (ctx num : Nat) (v : Word) : (s.setCcsr ctx num v).svn = s.svn := rfl
@[simp] theorem State.setCcsr_firmware (ctx num : Nat) (v : Word) : (s.setCcsr ctx num v).firmware = s.firmware := rfl
@[simp] theorem State.setCcsr_loader (ctx num : Nat) (v : Word) : (s.setCcsr ctx num v).loader = s.loader := rfl
@[simp] theorem State.setCcsr_record (ctx num : Nat) (v : Word) : (s.setCcsr ctx num v).record = s.record := rfl
@[simp] theorem State.setCcsr_flash (ctx num : Nat) (v : Word) : (s.setCcsr ctx num v).flash = s.flash := rfl
@[simp] theorem State.setCcsr_recLog (ctx num : Nat) (v : Word) : (s.setCcsr ctx num v).recLog = s.recLog := rfl
@[simp] theorem State.setCcsr_sigsUsed (ctx num : Nat) (v : Word) : (s.setCcsr ctx num v).sigsUsed = s.sigsUsed := rfl
@[simp] theorem State.setCcsr_ethDown (ctx num : Nat) (v : Word) : (s.setCcsr ctx num v).ethDown = s.ethDown := rfl
@[simp] theorem State.setCcsr_storageUp (ctx num : Nat) (v : Word) : (s.setCcsr ctx num v).storageUp = s.storageUp := rfl
@[simp] theorem State.setCcsr_trigs (ctx num : Nat) (v : Word) : (s.setCcsr ctx num v).trigs = s.trigs := rfl
@[simp] theorem State.setCcsr_ccDead (ctx num : Nat) (v : Word) : (s.setCcsr ctx num v).ccDead = s.ccDead := rfl
@[simp] theorem State.setCcsr_owed (ctx num : Nat) (v : Word) : (s.setCcsr ctx num v).owed = s.owed := rfl
@[simp] theorem State.setCcsr_placed (ctx num : Nat) (v : Word) : (s.setCcsr ctx num v).placed = s.placed := rfl
@[simp] theorem State.setCcsr_busData (ctx num : Nat) (v : Word) : (s.setCcsr ctx num v).busData = s.busData := rfl
@[simp] theorem State.setCcsr_busErr (ctx num : Nat) (v : Word) : (s.setCcsr ctx num v).busErr = s.busErr := rfl
@[simp] theorem State.setCcsr_busy (ctx num : Nat) (v : Word) : (s.setCcsr ctx num v).busy = s.busy := rfl
@[simp] theorem State.setCcsr_holds (ctx num : Nat) (v : Word) : (s.setCcsr ctx num v).holds = s.holds := rfl
@[simp] theorem State.setCcsr_weak (ctx num : Nat) (v : Word) : (s.setCcsr ctx num v).weak = s.weak := rfl
@[simp] theorem State.setCcsr_eccLog (ctx num : Nat) (v : Word) : (s.setCcsr ctx num v).eccLog = s.eccLog := rfl

/-! ### `soon` -/

@[simp] theorem State.soon_agenda (a : Act) : (s.soon a).agenda = a :: s.agenda := rfl
@[simp] theorem State.soon_cur (a : Act) : (s.soon a).cur = s.cur := rfl
@[simp] theorem State.soon_held (a : Act) : (s.soon a).held = s.held := rfl
@[simp] theorem State.soon_cycle (a : Act) : (s.soon a).cycle = s.cycle := rfl
@[simp] theorem State.soon_free (a : Act) : (s.soon a).free = s.free := rfl
@[simp] theorem State.soon_pes (a : Act) : (s.soon a).pes = s.pes := rfl
@[simp] theorem State.soon_rows (a : Act) : (s.soon a).rows = s.rows := rfl
@[simp] theorem State.soon_routesIn (a : Act) : (s.soon a).routesIn = s.routesIn := rfl
@[simp] theorem State.soon_regions (a : Act) : (s.soon a).regions = s.regions := rfl
@[simp] theorem State.soon_reqs (a : Act) : (s.soon a).reqs = s.reqs := rfl
@[simp] theorem State.soon_replies (a : Act) : (s.soon a).replies = s.replies := rfl
@[simp] theorem State.soon_tasks (a : Act) : (s.soon a).tasks = s.tasks := rfl
@[simp] theorem State.soon_nextTask (a : Act) : (s.soon a).nextTask = s.nextTask := rfl
@[simp] theorem State.soon_tiles (a : Act) : (s.soon a).tiles = s.tiles := rfl
@[simp] theorem State.soon_mem (a : Act) : (s.soon a).mem = s.mem := rfl
@[simp] theorem State.soon_pdb (a : Act) : (s.soon a).pdb = s.pdb := rfl
@[simp] theorem State.soon_wst (a : Act) : (s.soon a).wst = s.wst := rfl
@[simp] theorem State.soon_dram (a : Act) : (s.soon a).dram = s.dram := rfl
@[simp] theorem State.soon_vers (a : Act) : (s.soon a).vers = s.vers := rfl
@[simp] theorem State.soon_vparts (a : Act) : (s.soon a).vparts = s.vparts := rfl
@[simp] theorem State.soon_dqs (a : Act) : (s.soon a).dqs = s.dqs := rfl
@[simp] theorem State.soon_dseq (a : Act) : (s.soon a).dseq = s.dseq := rfl
@[simp] theorem State.soon_counters (a : Act) : (s.soon a).counters = s.counters := rfl
@[simp] theorem State.soon_dcsr (a : Act) : (s.soon a).dcsr = s.dcsr := rfl
@[simp] theorem State.soon_ccsr (a : Act) : (s.soon a).ccsr = s.ccsr := rfl
@[simp] theorem State.soon_hostRing (a : Act) : (s.soon a).hostRing = s.hostRing := rfl
@[simp] theorem State.soon_umber (a : Act) : (s.soon a).umber = s.umber := rfl
@[simp] theorem State.soon_tlb (a : Act) : (s.soon a).tlb = s.tlb := rfl
@[simp] theorem State.soon_tb (a : Act) : (s.soon a).tb = s.tb := rfl
@[simp] theorem State.soon_stc (a : Act) : (s.soon a).stc = s.stc := rfl
@[simp] theorem State.soon_frecs (a : Act) : (s.soon a).frecs = s.frecs := rfl
@[simp] theorem State.soon_fwait (a : Act) : (s.soon a).fwait = s.fwait := rfl
@[simp] theorem State.soon_serials (a : Act) : (s.soon a).serials = s.serials := rfl
@[simp] theorem State.soon_jobs (a : Act) : (s.soon a).jobs = s.jobs := rfl
@[simp] theorem State.soon_graphs (a : Act) : (s.soon a).graphs = s.graphs := rfl
@[simp] theorem State.soon_cards (a : Act) : (s.soon a).cards = s.cards := rfl
@[simp] theorem State.soon_nextCard (a : Act) : (s.soon a).nextCard = s.nextCard := rfl
@[simp] theorem State.soon_pages (a : Act) : (s.soon a).pages = s.pages := rfl
@[simp] theorem State.soon_ccache (a : Act) : (s.soon a).ccache = s.ccache := rfl
@[simp] theorem State.soon_misls (a : Act) : (s.soon a).misls = s.misls := rfl
@[simp] theorem State.soon_sisls (a : Act) : (s.soon a).sisls = s.sisls := rfl
@[simp] theorem State.soon_frames (a : Act) : (s.soon a).frames = s.frames := rfl
@[simp] theorem State.soon_hostFrames (a : Act) : (s.soon a).hostFrames = s.hostFrames := rfl
@[simp] theorem State.soon_cinvs (a : Act) : (s.soon a).cinvs = s.cinvs := rfl
@[simp] theorem State.soon_downDies (a : Act) : (s.soon a).downDies = s.downDies := rfl
@[simp] theorem State.soon_tabs (a : Act) : (s.soon a).tabs = s.tabs := rfl
@[simp] theorem State.soon_grants (a : Act) : (s.soon a).grants = s.grants := rfl
@[simp] theorem State.soon_dbgs (a : Act) : (s.soon a).dbgs = s.dbgs := rfl
@[simp] theorem State.soon_acctSeq (a : Act) : (s.soon a).acctSeq = s.acctSeq := rfl
@[simp] theorem State.soon_groups (a : Act) : (s.soon a).groups = s.groups := rfl
@[simp] theorem State.soon_groupNo (a : Act) : (s.soon a).groupNo = s.groupNo := rfl
@[simp] theorem State.soon_groupEnds (a : Act) : (s.soon a).groupEnds = s.groupEnds := rfl
@[simp] theorem State.soon_saved (a : Act) : (s.soon a).saved = s.saved := rfl
@[simp] theorem State.soon_meas0 (a : Act) : (s.soon a).meas0 = s.meas0 := rfl
@[simp] theorem State.soon_meas1 (a : Act) : (s.soon a).meas1 = s.meas1 := rfl
@[simp] theorem State.soon_queues (a : Act) : (s.soon a).queues = s.queues := rfl
@[simp] theorem State.soon_fe (a : Act) : (s.soon a).fe = s.fe := rfl
@[simp] theorem State.soon_stalls (a : Act) : (s.soon a).stalls = s.stalls := rfl
@[simp] theorem State.soon_ladders (a : Act) : (s.soon a).ladders = s.ladders := rfl
@[simp] theorem State.soon_islSaves (a : Act) : (s.soon a).islSaves = s.islSaves := rfl
@[simp] theorem State.soon_vinvs (a : Act) : (s.soon a).vinvs = s.vinvs := rfl
@[simp] theorem State.soon_ccs (a : Act) : (s.soon a).ccs = s.ccs := rfl
@[simp] theorem State.soon_gens (a : Act) : (s.soon a).gens = s.gens := rfl
@[simp] theorem State.soon_pairs (a : Act) : (s.soon a).pairs = s.pairs := rfl
@[simp] theorem State.soon_links (a : Act) : (s.soon a).links = s.links := rfl
@[simp] theorem State.soon_tickAt (a : Act) : (s.soon a).tickAt = s.tickAt := rfl
@[simp] theorem State.soon_tests (a : Act) : (s.soon a).tests = s.tests := rfl
@[simp] theorem State.soon_testInfo (a : Act) : (s.soon a).testInfo = s.testInfo := rfl
@[simp] theorem State.soon_testFails (a : Act) : (s.soon a).testFails = s.testFails := rfl
@[simp] theorem State.soon_boot (a : Act) : (s.soon a).boot = s.boot := rfl
@[simp] theorem State.soon_svn (a : Act) : (s.soon a).svn = s.svn := rfl
@[simp] theorem State.soon_firmware (a : Act) : (s.soon a).firmware = s.firmware := rfl
@[simp] theorem State.soon_loader (a : Act) : (s.soon a).loader = s.loader := rfl
@[simp] theorem State.soon_record (a : Act) : (s.soon a).record = s.record := rfl
@[simp] theorem State.soon_flash (a : Act) : (s.soon a).flash = s.flash := rfl
@[simp] theorem State.soon_recLog (a : Act) : (s.soon a).recLog = s.recLog := rfl
@[simp] theorem State.soon_sigsUsed (a : Act) : (s.soon a).sigsUsed = s.sigsUsed := rfl
@[simp] theorem State.soon_ethDown (a : Act) : (s.soon a).ethDown = s.ethDown := rfl
@[simp] theorem State.soon_storageUp (a : Act) : (s.soon a).storageUp = s.storageUp := rfl
@[simp] theorem State.soon_trigs (a : Act) : (s.soon a).trigs = s.trigs := rfl
@[simp] theorem State.soon_ccDead (a : Act) : (s.soon a).ccDead = s.ccDead := rfl
@[simp] theorem State.soon_owed (a : Act) : (s.soon a).owed = s.owed := rfl
@[simp] theorem State.soon_placed (a : Act) : (s.soon a).placed = s.placed := rfl
@[simp] theorem State.soon_busData (a : Act) : (s.soon a).busData = s.busData := rfl
@[simp] theorem State.soon_busErr (a : Act) : (s.soon a).busErr = s.busErr := rfl
@[simp] theorem State.soon_busy (a : Act) : (s.soon a).busy = s.busy := rfl
@[simp] theorem State.soon_holds (a : Act) : (s.soon a).holds = s.holds := rfl
@[simp] theorem State.soon_weak (a : Act) : (s.soon a).weak = s.weak := rfl
@[simp] theorem State.soon_eccLog (a : Act) : (s.soon a).eccLog = s.eccLog := rfl

/-! ### `later` -/

@[simp] theorem State.later_agenda (a : Act) : (s.later a).agenda = s.agenda ++ [a] := rfl
@[simp] theorem State.later_cur (a : Act) : (s.later a).cur = s.cur := rfl
@[simp] theorem State.later_held (a : Act) : (s.later a).held = s.held := rfl
@[simp] theorem State.later_cycle (a : Act) : (s.later a).cycle = s.cycle := rfl
@[simp] theorem State.later_free (a : Act) : (s.later a).free = s.free := rfl
@[simp] theorem State.later_pes (a : Act) : (s.later a).pes = s.pes := rfl
@[simp] theorem State.later_rows (a : Act) : (s.later a).rows = s.rows := rfl
@[simp] theorem State.later_routesIn (a : Act) : (s.later a).routesIn = s.routesIn := rfl
@[simp] theorem State.later_regions (a : Act) : (s.later a).regions = s.regions := rfl
@[simp] theorem State.later_reqs (a : Act) : (s.later a).reqs = s.reqs := rfl
@[simp] theorem State.later_replies (a : Act) : (s.later a).replies = s.replies := rfl
@[simp] theorem State.later_tasks (a : Act) : (s.later a).tasks = s.tasks := rfl
@[simp] theorem State.later_nextTask (a : Act) : (s.later a).nextTask = s.nextTask := rfl
@[simp] theorem State.later_tiles (a : Act) : (s.later a).tiles = s.tiles := rfl
@[simp] theorem State.later_mem (a : Act) : (s.later a).mem = s.mem := rfl
@[simp] theorem State.later_pdb (a : Act) : (s.later a).pdb = s.pdb := rfl
@[simp] theorem State.later_wst (a : Act) : (s.later a).wst = s.wst := rfl
@[simp] theorem State.later_dram (a : Act) : (s.later a).dram = s.dram := rfl
@[simp] theorem State.later_vers (a : Act) : (s.later a).vers = s.vers := rfl
@[simp] theorem State.later_vparts (a : Act) : (s.later a).vparts = s.vparts := rfl
@[simp] theorem State.later_dqs (a : Act) : (s.later a).dqs = s.dqs := rfl
@[simp] theorem State.later_dseq (a : Act) : (s.later a).dseq = s.dseq := rfl
@[simp] theorem State.later_counters (a : Act) : (s.later a).counters = s.counters := rfl
@[simp] theorem State.later_dcsr (a : Act) : (s.later a).dcsr = s.dcsr := rfl
@[simp] theorem State.later_ccsr (a : Act) : (s.later a).ccsr = s.ccsr := rfl
@[simp] theorem State.later_hostRing (a : Act) : (s.later a).hostRing = s.hostRing := rfl
@[simp] theorem State.later_umber (a : Act) : (s.later a).umber = s.umber := rfl
@[simp] theorem State.later_tlb (a : Act) : (s.later a).tlb = s.tlb := rfl
@[simp] theorem State.later_tb (a : Act) : (s.later a).tb = s.tb := rfl
@[simp] theorem State.later_stc (a : Act) : (s.later a).stc = s.stc := rfl
@[simp] theorem State.later_frecs (a : Act) : (s.later a).frecs = s.frecs := rfl
@[simp] theorem State.later_fwait (a : Act) : (s.later a).fwait = s.fwait := rfl
@[simp] theorem State.later_serials (a : Act) : (s.later a).serials = s.serials := rfl
@[simp] theorem State.later_jobs (a : Act) : (s.later a).jobs = s.jobs := rfl
@[simp] theorem State.later_graphs (a : Act) : (s.later a).graphs = s.graphs := rfl
@[simp] theorem State.later_cards (a : Act) : (s.later a).cards = s.cards := rfl
@[simp] theorem State.later_nextCard (a : Act) : (s.later a).nextCard = s.nextCard := rfl
@[simp] theorem State.later_pages (a : Act) : (s.later a).pages = s.pages := rfl
@[simp] theorem State.later_ccache (a : Act) : (s.later a).ccache = s.ccache := rfl
@[simp] theorem State.later_misls (a : Act) : (s.later a).misls = s.misls := rfl
@[simp] theorem State.later_sisls (a : Act) : (s.later a).sisls = s.sisls := rfl
@[simp] theorem State.later_frames (a : Act) : (s.later a).frames = s.frames := rfl
@[simp] theorem State.later_hostFrames (a : Act) : (s.later a).hostFrames = s.hostFrames := rfl
@[simp] theorem State.later_cinvs (a : Act) : (s.later a).cinvs = s.cinvs := rfl
@[simp] theorem State.later_downDies (a : Act) : (s.later a).downDies = s.downDies := rfl
@[simp] theorem State.later_tabs (a : Act) : (s.later a).tabs = s.tabs := rfl
@[simp] theorem State.later_grants (a : Act) : (s.later a).grants = s.grants := rfl
@[simp] theorem State.later_dbgs (a : Act) : (s.later a).dbgs = s.dbgs := rfl
@[simp] theorem State.later_acctSeq (a : Act) : (s.later a).acctSeq = s.acctSeq := rfl
@[simp] theorem State.later_groups (a : Act) : (s.later a).groups = s.groups := rfl
@[simp] theorem State.later_groupNo (a : Act) : (s.later a).groupNo = s.groupNo := rfl
@[simp] theorem State.later_groupEnds (a : Act) : (s.later a).groupEnds = s.groupEnds := rfl
@[simp] theorem State.later_saved (a : Act) : (s.later a).saved = s.saved := rfl
@[simp] theorem State.later_meas0 (a : Act) : (s.later a).meas0 = s.meas0 := rfl
@[simp] theorem State.later_meas1 (a : Act) : (s.later a).meas1 = s.meas1 := rfl
@[simp] theorem State.later_queues (a : Act) : (s.later a).queues = s.queues := rfl
@[simp] theorem State.later_fe (a : Act) : (s.later a).fe = s.fe := rfl
@[simp] theorem State.later_stalls (a : Act) : (s.later a).stalls = s.stalls := rfl
@[simp] theorem State.later_ladders (a : Act) : (s.later a).ladders = s.ladders := rfl
@[simp] theorem State.later_islSaves (a : Act) : (s.later a).islSaves = s.islSaves := rfl
@[simp] theorem State.later_vinvs (a : Act) : (s.later a).vinvs = s.vinvs := rfl
@[simp] theorem State.later_ccs (a : Act) : (s.later a).ccs = s.ccs := rfl
@[simp] theorem State.later_gens (a : Act) : (s.later a).gens = s.gens := rfl
@[simp] theorem State.later_pairs (a : Act) : (s.later a).pairs = s.pairs := rfl
@[simp] theorem State.later_links (a : Act) : (s.later a).links = s.links := rfl
@[simp] theorem State.later_tickAt (a : Act) : (s.later a).tickAt = s.tickAt := rfl
@[simp] theorem State.later_tests (a : Act) : (s.later a).tests = s.tests := rfl
@[simp] theorem State.later_testInfo (a : Act) : (s.later a).testInfo = s.testInfo := rfl
@[simp] theorem State.later_testFails (a : Act) : (s.later a).testFails = s.testFails := rfl
@[simp] theorem State.later_boot (a : Act) : (s.later a).boot = s.boot := rfl
@[simp] theorem State.later_svn (a : Act) : (s.later a).svn = s.svn := rfl
@[simp] theorem State.later_firmware (a : Act) : (s.later a).firmware = s.firmware := rfl
@[simp] theorem State.later_loader (a : Act) : (s.later a).loader = s.loader := rfl
@[simp] theorem State.later_record (a : Act) : (s.later a).record = s.record := rfl
@[simp] theorem State.later_flash (a : Act) : (s.later a).flash = s.flash := rfl
@[simp] theorem State.later_recLog (a : Act) : (s.later a).recLog = s.recLog := rfl
@[simp] theorem State.later_sigsUsed (a : Act) : (s.later a).sigsUsed = s.sigsUsed := rfl
@[simp] theorem State.later_ethDown (a : Act) : (s.later a).ethDown = s.ethDown := rfl
@[simp] theorem State.later_storageUp (a : Act) : (s.later a).storageUp = s.storageUp := rfl
@[simp] theorem State.later_trigs (a : Act) : (s.later a).trigs = s.trigs := rfl
@[simp] theorem State.later_ccDead (a : Act) : (s.later a).ccDead = s.ccDead := rfl
@[simp] theorem State.later_owed (a : Act) : (s.later a).owed = s.owed := rfl
@[simp] theorem State.later_placed (a : Act) : (s.later a).placed = s.placed := rfl
@[simp] theorem State.later_busData (a : Act) : (s.later a).busData = s.busData := rfl
@[simp] theorem State.later_busErr (a : Act) : (s.later a).busErr = s.busErr := rfl
@[simp] theorem State.later_busy (a : Act) : (s.later a).busy = s.busy := rfl
@[simp] theorem State.later_holds (a : Act) : (s.later a).holds = s.holds := rfl
@[simp] theorem State.later_weak (a : Act) : (s.later a).weak = s.weak := rfl
@[simp] theorem State.later_eccLog (a : Act) : (s.later a).eccLog = s.eccLog := rfl

/-! ### `hold` -/

@[simp] theorem State.hold_agenda : (s.hold).agenda = s.agenda := rfl
@[simp] theorem State.hold_cur : (s.hold).cur = s.cur := rfl
@[simp] theorem State.hold_held : (s.hold).held = true := rfl
@[simp] theorem State.hold_cycle : (s.hold).cycle = s.cycle := rfl
@[simp] theorem State.hold_free : (s.hold).free = s.free := rfl
@[simp] theorem State.hold_pes : (s.hold).pes = s.pes := rfl
@[simp] theorem State.hold_rows : (s.hold).rows = s.rows := rfl
@[simp] theorem State.hold_routesIn : (s.hold).routesIn = s.routesIn := rfl
@[simp] theorem State.hold_regions : (s.hold).regions = s.regions := rfl
@[simp] theorem State.hold_reqs : (s.hold).reqs = s.reqs := rfl
@[simp] theorem State.hold_replies : (s.hold).replies = s.replies := rfl
@[simp] theorem State.hold_tasks : (s.hold).tasks = s.tasks := rfl
@[simp] theorem State.hold_nextTask : (s.hold).nextTask = s.nextTask := rfl
@[simp] theorem State.hold_tiles : (s.hold).tiles = s.tiles := rfl
@[simp] theorem State.hold_mem : (s.hold).mem = s.mem := rfl
@[simp] theorem State.hold_pdb : (s.hold).pdb = s.pdb := rfl
@[simp] theorem State.hold_wst : (s.hold).wst = s.wst := rfl
@[simp] theorem State.hold_dram : (s.hold).dram = s.dram := rfl
@[simp] theorem State.hold_vers : (s.hold).vers = s.vers := rfl
@[simp] theorem State.hold_vparts : (s.hold).vparts = s.vparts := rfl
@[simp] theorem State.hold_dqs : (s.hold).dqs = s.dqs := rfl
@[simp] theorem State.hold_dseq : (s.hold).dseq = s.dseq := rfl
@[simp] theorem State.hold_counters : (s.hold).counters = s.counters := rfl
@[simp] theorem State.hold_dcsr : (s.hold).dcsr = s.dcsr := rfl
@[simp] theorem State.hold_ccsr : (s.hold).ccsr = s.ccsr := rfl
@[simp] theorem State.hold_hostRing : (s.hold).hostRing = s.hostRing := rfl
@[simp] theorem State.hold_umber : (s.hold).umber = s.umber := rfl
@[simp] theorem State.hold_tlb : (s.hold).tlb = s.tlb := rfl
@[simp] theorem State.hold_tb : (s.hold).tb = s.tb := rfl
@[simp] theorem State.hold_stc : (s.hold).stc = s.stc := rfl
@[simp] theorem State.hold_frecs : (s.hold).frecs = s.frecs := rfl
@[simp] theorem State.hold_fwait : (s.hold).fwait = s.fwait := rfl
@[simp] theorem State.hold_serials : (s.hold).serials = s.serials := rfl
@[simp] theorem State.hold_jobs : (s.hold).jobs = s.jobs := rfl
@[simp] theorem State.hold_graphs : (s.hold).graphs = s.graphs := rfl
@[simp] theorem State.hold_cards : (s.hold).cards = s.cards := rfl
@[simp] theorem State.hold_nextCard : (s.hold).nextCard = s.nextCard := rfl
@[simp] theorem State.hold_pages : (s.hold).pages = s.pages := rfl
@[simp] theorem State.hold_ccache : (s.hold).ccache = s.ccache := rfl
@[simp] theorem State.hold_misls : (s.hold).misls = s.misls := rfl
@[simp] theorem State.hold_sisls : (s.hold).sisls = s.sisls := rfl
@[simp] theorem State.hold_frames : (s.hold).frames = s.frames := rfl
@[simp] theorem State.hold_hostFrames : (s.hold).hostFrames = s.hostFrames := rfl
@[simp] theorem State.hold_cinvs : (s.hold).cinvs = s.cinvs := rfl
@[simp] theorem State.hold_downDies : (s.hold).downDies = s.downDies := rfl
@[simp] theorem State.hold_tabs : (s.hold).tabs = s.tabs := rfl
@[simp] theorem State.hold_grants : (s.hold).grants = s.grants := rfl
@[simp] theorem State.hold_dbgs : (s.hold).dbgs = s.dbgs := rfl
@[simp] theorem State.hold_acctSeq : (s.hold).acctSeq = s.acctSeq := rfl
@[simp] theorem State.hold_groups : (s.hold).groups = s.groups := rfl
@[simp] theorem State.hold_groupNo : (s.hold).groupNo = s.groupNo := rfl
@[simp] theorem State.hold_groupEnds : (s.hold).groupEnds = s.groupEnds := rfl
@[simp] theorem State.hold_saved : (s.hold).saved = s.saved := rfl
@[simp] theorem State.hold_meas0 : (s.hold).meas0 = s.meas0 := rfl
@[simp] theorem State.hold_meas1 : (s.hold).meas1 = s.meas1 := rfl
@[simp] theorem State.hold_queues : (s.hold).queues = s.queues := rfl
@[simp] theorem State.hold_fe : (s.hold).fe = s.fe := rfl
@[simp] theorem State.hold_stalls : (s.hold).stalls = s.stalls := rfl
@[simp] theorem State.hold_ladders : (s.hold).ladders = s.ladders := rfl
@[simp] theorem State.hold_islSaves : (s.hold).islSaves = s.islSaves := rfl
@[simp] theorem State.hold_vinvs : (s.hold).vinvs = s.vinvs := rfl
@[simp] theorem State.hold_ccs : (s.hold).ccs = s.ccs := rfl
@[simp] theorem State.hold_gens : (s.hold).gens = s.gens := rfl
@[simp] theorem State.hold_pairs : (s.hold).pairs = s.pairs := rfl
@[simp] theorem State.hold_links : (s.hold).links = s.links := rfl
@[simp] theorem State.hold_tickAt : (s.hold).tickAt = s.tickAt := rfl
@[simp] theorem State.hold_tests : (s.hold).tests = s.tests := rfl
@[simp] theorem State.hold_testInfo : (s.hold).testInfo = s.testInfo := rfl
@[simp] theorem State.hold_testFails : (s.hold).testFails = s.testFails := rfl
@[simp] theorem State.hold_boot : (s.hold).boot = s.boot := rfl
@[simp] theorem State.hold_svn : (s.hold).svn = s.svn := rfl
@[simp] theorem State.hold_firmware : (s.hold).firmware = s.firmware := rfl
@[simp] theorem State.hold_loader : (s.hold).loader = s.loader := rfl
@[simp] theorem State.hold_record : (s.hold).record = s.record := rfl
@[simp] theorem State.hold_flash : (s.hold).flash = s.flash := rfl
@[simp] theorem State.hold_recLog : (s.hold).recLog = s.recLog := rfl
@[simp] theorem State.hold_sigsUsed : (s.hold).sigsUsed = s.sigsUsed := rfl
@[simp] theorem State.hold_ethDown : (s.hold).ethDown = s.ethDown := rfl
@[simp] theorem State.hold_storageUp : (s.hold).storageUp = s.storageUp := rfl
@[simp] theorem State.hold_trigs : (s.hold).trigs = s.trigs := rfl
@[simp] theorem State.hold_ccDead : (s.hold).ccDead = s.ccDead := rfl
@[simp] theorem State.hold_owed : (s.hold).owed = s.owed := rfl
@[simp] theorem State.hold_placed : (s.hold).placed = s.placed := rfl
@[simp] theorem State.hold_busData : (s.hold).busData = s.busData := rfl
@[simp] theorem State.hold_busErr : (s.hold).busErr = s.busErr := rfl
@[simp] theorem State.hold_busy : (s.hold).busy = s.busy := rfl
@[simp] theorem State.hold_holds : (s.hold).holds = s.holds := rfl
@[simp] theorem State.hold_weak : (s.hold).weak = s.weak := rfl
@[simp] theorem State.hold_eccLog : (s.hold).eccLog = s.eccLog := rfl

/-! ### `setVers` -/

@[simp] theorem State.setVers_agenda (k : Nat) (v : Vers) : (s.setVers k v).agenda = s.agenda := rfl
@[simp] theorem State.setVers_cur (k : Nat) (v : Vers) : (s.setVers k v).cur = s.cur := rfl
@[simp] theorem State.setVers_held (k : Nat) (v : Vers) : (s.setVers k v).held = s.held := rfl
@[simp] theorem State.setVers_cycle (k : Nat) (v : Vers) : (s.setVers k v).cycle = s.cycle := rfl
@[simp] theorem State.setVers_free (k : Nat) (v : Vers) : (s.setVers k v).free = s.free := rfl
@[simp] theorem State.setVers_pes (k : Nat) (v : Vers) : (s.setVers k v).pes = s.pes := rfl
@[simp] theorem State.setVers_rows (k : Nat) (v : Vers) : (s.setVers k v).rows = s.rows := rfl
@[simp] theorem State.setVers_routesIn (k : Nat) (v : Vers) : (s.setVers k v).routesIn = s.routesIn := rfl
@[simp] theorem State.setVers_regions (k : Nat) (v : Vers) : (s.setVers k v).regions = s.regions := rfl
@[simp] theorem State.setVers_reqs (k : Nat) (v : Vers) : (s.setVers k v).reqs = s.reqs := rfl
@[simp] theorem State.setVers_replies (k : Nat) (v : Vers) : (s.setVers k v).replies = s.replies := rfl
@[simp] theorem State.setVers_tasks (k : Nat) (v : Vers) : (s.setVers k v).tasks = s.tasks := rfl
@[simp] theorem State.setVers_nextTask (k : Nat) (v : Vers) : (s.setVers k v).nextTask = s.nextTask := rfl
@[simp] theorem State.setVers_tiles (k : Nat) (v : Vers) : (s.setVers k v).tiles = s.tiles := rfl
@[simp] theorem State.setVers_mem (k : Nat) (v : Vers) : (s.setVers k v).mem = s.mem := rfl
@[simp] theorem State.setVers_pdb (k : Nat) (v : Vers) : (s.setVers k v).pdb = s.pdb := rfl
@[simp] theorem State.setVers_wst (k : Nat) (v : Vers) : (s.setVers k v).wst = s.wst := rfl
@[simp] theorem State.setVers_dram (k : Nat) (v : Vers) : (s.setVers k v).dram = s.dram := rfl
@[simp] theorem State.setVers_vers (k : Nat) (v : Vers) : (s.setVers k v).vers = tabPut s.vers k v := rfl
@[simp] theorem State.setVers_vparts (k : Nat) (v : Vers) : (s.setVers k v).vparts = s.vparts := rfl
@[simp] theorem State.setVers_dqs (k : Nat) (v : Vers) : (s.setVers k v).dqs = s.dqs := rfl
@[simp] theorem State.setVers_dseq (k : Nat) (v : Vers) : (s.setVers k v).dseq = s.dseq := rfl
@[simp] theorem State.setVers_counters (k : Nat) (v : Vers) : (s.setVers k v).counters = s.counters := rfl
@[simp] theorem State.setVers_dcsr (k : Nat) (v : Vers) : (s.setVers k v).dcsr = s.dcsr := rfl
@[simp] theorem State.setVers_ccsr (k : Nat) (v : Vers) : (s.setVers k v).ccsr = s.ccsr := rfl
@[simp] theorem State.setVers_hostRing (k : Nat) (v : Vers) : (s.setVers k v).hostRing = s.hostRing := rfl
@[simp] theorem State.setVers_umber (k : Nat) (v : Vers) : (s.setVers k v).umber = s.umber := rfl
@[simp] theorem State.setVers_tlb (k : Nat) (v : Vers) : (s.setVers k v).tlb = s.tlb := rfl
@[simp] theorem State.setVers_tb (k : Nat) (v : Vers) : (s.setVers k v).tb = s.tb := rfl
@[simp] theorem State.setVers_stc (k : Nat) (v : Vers) : (s.setVers k v).stc = s.stc := rfl
@[simp] theorem State.setVers_frecs (k : Nat) (v : Vers) : (s.setVers k v).frecs = s.frecs := rfl
@[simp] theorem State.setVers_fwait (k : Nat) (v : Vers) : (s.setVers k v).fwait = s.fwait := rfl
@[simp] theorem State.setVers_serials (k : Nat) (v : Vers) : (s.setVers k v).serials = s.serials := rfl
@[simp] theorem State.setVers_jobs (k : Nat) (v : Vers) : (s.setVers k v).jobs = s.jobs := rfl
@[simp] theorem State.setVers_graphs (k : Nat) (v : Vers) : (s.setVers k v).graphs = s.graphs := rfl
@[simp] theorem State.setVers_cards (k : Nat) (v : Vers) : (s.setVers k v).cards = s.cards := rfl
@[simp] theorem State.setVers_nextCard (k : Nat) (v : Vers) : (s.setVers k v).nextCard = s.nextCard := rfl
@[simp] theorem State.setVers_pages (k : Nat) (v : Vers) : (s.setVers k v).pages = s.pages := rfl
@[simp] theorem State.setVers_ccache (k : Nat) (v : Vers) : (s.setVers k v).ccache = s.ccache := rfl
@[simp] theorem State.setVers_misls (k : Nat) (v : Vers) : (s.setVers k v).misls = s.misls := rfl
@[simp] theorem State.setVers_sisls (k : Nat) (v : Vers) : (s.setVers k v).sisls = s.sisls := rfl
@[simp] theorem State.setVers_frames (k : Nat) (v : Vers) : (s.setVers k v).frames = s.frames := rfl
@[simp] theorem State.setVers_hostFrames (k : Nat) (v : Vers) : (s.setVers k v).hostFrames = s.hostFrames := rfl
@[simp] theorem State.setVers_cinvs (k : Nat) (v : Vers) : (s.setVers k v).cinvs = s.cinvs := rfl
@[simp] theorem State.setVers_downDies (k : Nat) (v : Vers) : (s.setVers k v).downDies = s.downDies := rfl
@[simp] theorem State.setVers_tabs (k : Nat) (v : Vers) : (s.setVers k v).tabs = s.tabs := rfl
@[simp] theorem State.setVers_grants (k : Nat) (v : Vers) : (s.setVers k v).grants = s.grants := rfl
@[simp] theorem State.setVers_dbgs (k : Nat) (v : Vers) : (s.setVers k v).dbgs = s.dbgs := rfl
@[simp] theorem State.setVers_acctSeq (k : Nat) (v : Vers) : (s.setVers k v).acctSeq = s.acctSeq := rfl
@[simp] theorem State.setVers_groups (k : Nat) (v : Vers) : (s.setVers k v).groups = s.groups := rfl
@[simp] theorem State.setVers_groupNo (k : Nat) (v : Vers) : (s.setVers k v).groupNo = s.groupNo := rfl
@[simp] theorem State.setVers_groupEnds (k : Nat) (v : Vers) : (s.setVers k v).groupEnds = s.groupEnds := rfl
@[simp] theorem State.setVers_saved (k : Nat) (v : Vers) : (s.setVers k v).saved = s.saved := rfl
@[simp] theorem State.setVers_meas0 (k : Nat) (v : Vers) : (s.setVers k v).meas0 = s.meas0 := rfl
@[simp] theorem State.setVers_meas1 (k : Nat) (v : Vers) : (s.setVers k v).meas1 = s.meas1 := rfl
@[simp] theorem State.setVers_queues (k : Nat) (v : Vers) : (s.setVers k v).queues = s.queues := rfl
@[simp] theorem State.setVers_fe (k : Nat) (v : Vers) : (s.setVers k v).fe = s.fe := rfl
@[simp] theorem State.setVers_stalls (k : Nat) (v : Vers) : (s.setVers k v).stalls = s.stalls := rfl
@[simp] theorem State.setVers_ladders (k : Nat) (v : Vers) : (s.setVers k v).ladders = s.ladders := rfl
@[simp] theorem State.setVers_islSaves (k : Nat) (v : Vers) : (s.setVers k v).islSaves = s.islSaves := rfl
@[simp] theorem State.setVers_vinvs (k : Nat) (v : Vers) : (s.setVers k v).vinvs = s.vinvs := rfl
@[simp] theorem State.setVers_ccs (k : Nat) (v : Vers) : (s.setVers k v).ccs = s.ccs := rfl
@[simp] theorem State.setVers_gens (k : Nat) (v : Vers) : (s.setVers k v).gens = s.gens := rfl
@[simp] theorem State.setVers_pairs (k : Nat) (v : Vers) : (s.setVers k v).pairs = s.pairs := rfl
@[simp] theorem State.setVers_links (k : Nat) (v : Vers) : (s.setVers k v).links = s.links := rfl
@[simp] theorem State.setVers_tickAt (k : Nat) (v : Vers) : (s.setVers k v).tickAt = s.tickAt := rfl
@[simp] theorem State.setVers_tests (k : Nat) (v : Vers) : (s.setVers k v).tests = s.tests := rfl
@[simp] theorem State.setVers_testInfo (k : Nat) (v : Vers) : (s.setVers k v).testInfo = s.testInfo := rfl
@[simp] theorem State.setVers_testFails (k : Nat) (v : Vers) : (s.setVers k v).testFails = s.testFails := rfl
@[simp] theorem State.setVers_boot (k : Nat) (v : Vers) : (s.setVers k v).boot = s.boot := rfl
@[simp] theorem State.setVers_svn (k : Nat) (v : Vers) : (s.setVers k v).svn = s.svn := rfl
@[simp] theorem State.setVers_firmware (k : Nat) (v : Vers) : (s.setVers k v).firmware = s.firmware := rfl
@[simp] theorem State.setVers_loader (k : Nat) (v : Vers) : (s.setVers k v).loader = s.loader := rfl
@[simp] theorem State.setVers_record (k : Nat) (v : Vers) : (s.setVers k v).record = s.record := rfl
@[simp] theorem State.setVers_flash (k : Nat) (v : Vers) : (s.setVers k v).flash = s.flash := rfl
@[simp] theorem State.setVers_recLog (k : Nat) (v : Vers) : (s.setVers k v).recLog = s.recLog := rfl
@[simp] theorem State.setVers_sigsUsed (k : Nat) (v : Vers) : (s.setVers k v).sigsUsed = s.sigsUsed := rfl
@[simp] theorem State.setVers_ethDown (k : Nat) (v : Vers) : (s.setVers k v).ethDown = s.ethDown := rfl
@[simp] theorem State.setVers_storageUp (k : Nat) (v : Vers) : (s.setVers k v).storageUp = s.storageUp := rfl
@[simp] theorem State.setVers_trigs (k : Nat) (v : Vers) : (s.setVers k v).trigs = s.trigs := rfl
@[simp] theorem State.setVers_ccDead (k : Nat) (v : Vers) : (s.setVers k v).ccDead = s.ccDead := rfl
@[simp] theorem State.setVers_owed (k : Nat) (v : Vers) : (s.setVers k v).owed = s.owed := rfl
@[simp] theorem State.setVers_placed (k : Nat) (v : Vers) : (s.setVers k v).placed = s.placed := rfl
@[simp] theorem State.setVers_busData (k : Nat) (v : Vers) : (s.setVers k v).busData = s.busData := rfl
@[simp] theorem State.setVers_busErr (k : Nat) (v : Vers) : (s.setVers k v).busErr = s.busErr := rfl
@[simp] theorem State.setVers_busy (k : Nat) (v : Vers) : (s.setVers k v).busy = s.busy := rfl
@[simp] theorem State.setVers_holds (k : Nat) (v : Vers) : (s.setVers k v).holds = s.holds := rfl
@[simp] theorem State.setVers_weak (k : Nat) (v : Vers) : (s.setVers k v).weak = s.weak := rfl
@[simp] theorem State.setVers_eccLog (k : Nat) (v : Vers) : (s.setVers k v).eccLog = s.eccLog := rfl

/-! ### `setDq` -/

@[simp] theorem State.setDq_agenda (k : Nat) (d : Dq) : (s.setDq k d).agenda = s.agenda := rfl
@[simp] theorem State.setDq_cur (k : Nat) (d : Dq) : (s.setDq k d).cur = s.cur := rfl
@[simp] theorem State.setDq_held (k : Nat) (d : Dq) : (s.setDq k d).held = s.held := rfl
@[simp] theorem State.setDq_cycle (k : Nat) (d : Dq) : (s.setDq k d).cycle = s.cycle := rfl
@[simp] theorem State.setDq_free (k : Nat) (d : Dq) : (s.setDq k d).free = s.free := rfl
@[simp] theorem State.setDq_pes (k : Nat) (d : Dq) : (s.setDq k d).pes = s.pes := rfl
@[simp] theorem State.setDq_rows (k : Nat) (d : Dq) : (s.setDq k d).rows = s.rows := rfl
@[simp] theorem State.setDq_routesIn (k : Nat) (d : Dq) : (s.setDq k d).routesIn = s.routesIn := rfl
@[simp] theorem State.setDq_regions (k : Nat) (d : Dq) : (s.setDq k d).regions = s.regions := rfl
@[simp] theorem State.setDq_reqs (k : Nat) (d : Dq) : (s.setDq k d).reqs = s.reqs := rfl
@[simp] theorem State.setDq_replies (k : Nat) (d : Dq) : (s.setDq k d).replies = s.replies := rfl
@[simp] theorem State.setDq_tasks (k : Nat) (d : Dq) : (s.setDq k d).tasks = s.tasks := rfl
@[simp] theorem State.setDq_nextTask (k : Nat) (d : Dq) : (s.setDq k d).nextTask = s.nextTask := rfl
@[simp] theorem State.setDq_tiles (k : Nat) (d : Dq) : (s.setDq k d).tiles = s.tiles := rfl
@[simp] theorem State.setDq_mem (k : Nat) (d : Dq) : (s.setDq k d).mem = s.mem := rfl
@[simp] theorem State.setDq_pdb (k : Nat) (d : Dq) : (s.setDq k d).pdb = s.pdb := rfl
@[simp] theorem State.setDq_wst (k : Nat) (d : Dq) : (s.setDq k d).wst = s.wst := rfl
@[simp] theorem State.setDq_dram (k : Nat) (d : Dq) : (s.setDq k d).dram = s.dram := rfl
@[simp] theorem State.setDq_vers (k : Nat) (d : Dq) : (s.setDq k d).vers = s.vers := rfl
@[simp] theorem State.setDq_vparts (k : Nat) (d : Dq) : (s.setDq k d).vparts = s.vparts := rfl
@[simp] theorem State.setDq_dqs (k : Nat) (d : Dq) : (s.setDq k d).dqs = tabPut s.dqs k d := rfl
@[simp] theorem State.setDq_dseq (k : Nat) (d : Dq) : (s.setDq k d).dseq = s.dseq := rfl
@[simp] theorem State.setDq_counters (k : Nat) (d : Dq) : (s.setDq k d).counters = s.counters := rfl
@[simp] theorem State.setDq_dcsr (k : Nat) (d : Dq) : (s.setDq k d).dcsr = s.dcsr := rfl
@[simp] theorem State.setDq_ccsr (k : Nat) (d : Dq) : (s.setDq k d).ccsr = s.ccsr := rfl
@[simp] theorem State.setDq_hostRing (k : Nat) (d : Dq) : (s.setDq k d).hostRing = s.hostRing := rfl
@[simp] theorem State.setDq_umber (k : Nat) (d : Dq) : (s.setDq k d).umber = s.umber := rfl
@[simp] theorem State.setDq_tlb (k : Nat) (d : Dq) : (s.setDq k d).tlb = s.tlb := rfl
@[simp] theorem State.setDq_tb (k : Nat) (d : Dq) : (s.setDq k d).tb = s.tb := rfl
@[simp] theorem State.setDq_stc (k : Nat) (d : Dq) : (s.setDq k d).stc = s.stc := rfl
@[simp] theorem State.setDq_frecs (k : Nat) (d : Dq) : (s.setDq k d).frecs = s.frecs := rfl
@[simp] theorem State.setDq_fwait (k : Nat) (d : Dq) : (s.setDq k d).fwait = s.fwait := rfl
@[simp] theorem State.setDq_serials (k : Nat) (d : Dq) : (s.setDq k d).serials = s.serials := rfl
@[simp] theorem State.setDq_jobs (k : Nat) (d : Dq) : (s.setDq k d).jobs = s.jobs := rfl
@[simp] theorem State.setDq_graphs (k : Nat) (d : Dq) : (s.setDq k d).graphs = s.graphs := rfl
@[simp] theorem State.setDq_cards (k : Nat) (d : Dq) : (s.setDq k d).cards = s.cards := rfl
@[simp] theorem State.setDq_nextCard (k : Nat) (d : Dq) : (s.setDq k d).nextCard = s.nextCard := rfl
@[simp] theorem State.setDq_pages (k : Nat) (d : Dq) : (s.setDq k d).pages = s.pages := rfl
@[simp] theorem State.setDq_ccache (k : Nat) (d : Dq) : (s.setDq k d).ccache = s.ccache := rfl
@[simp] theorem State.setDq_misls (k : Nat) (d : Dq) : (s.setDq k d).misls = s.misls := rfl
@[simp] theorem State.setDq_sisls (k : Nat) (d : Dq) : (s.setDq k d).sisls = s.sisls := rfl
@[simp] theorem State.setDq_frames (k : Nat) (d : Dq) : (s.setDq k d).frames = s.frames := rfl
@[simp] theorem State.setDq_hostFrames (k : Nat) (d : Dq) : (s.setDq k d).hostFrames = s.hostFrames := rfl
@[simp] theorem State.setDq_cinvs (k : Nat) (d : Dq) : (s.setDq k d).cinvs = s.cinvs := rfl
@[simp] theorem State.setDq_downDies (k : Nat) (d : Dq) : (s.setDq k d).downDies = s.downDies := rfl
@[simp] theorem State.setDq_tabs (k : Nat) (d : Dq) : (s.setDq k d).tabs = s.tabs := rfl
@[simp] theorem State.setDq_grants (k : Nat) (d : Dq) : (s.setDq k d).grants = s.grants := rfl
@[simp] theorem State.setDq_dbgs (k : Nat) (d : Dq) : (s.setDq k d).dbgs = s.dbgs := rfl
@[simp] theorem State.setDq_acctSeq (k : Nat) (d : Dq) : (s.setDq k d).acctSeq = s.acctSeq := rfl
@[simp] theorem State.setDq_groups (k : Nat) (d : Dq) : (s.setDq k d).groups = s.groups := rfl
@[simp] theorem State.setDq_groupNo (k : Nat) (d : Dq) : (s.setDq k d).groupNo = s.groupNo := rfl
@[simp] theorem State.setDq_groupEnds (k : Nat) (d : Dq) : (s.setDq k d).groupEnds = s.groupEnds := rfl
@[simp] theorem State.setDq_saved (k : Nat) (d : Dq) : (s.setDq k d).saved = s.saved := rfl
@[simp] theorem State.setDq_meas0 (k : Nat) (d : Dq) : (s.setDq k d).meas0 = s.meas0 := rfl
@[simp] theorem State.setDq_meas1 (k : Nat) (d : Dq) : (s.setDq k d).meas1 = s.meas1 := rfl
@[simp] theorem State.setDq_queues (k : Nat) (d : Dq) : (s.setDq k d).queues = s.queues := rfl
@[simp] theorem State.setDq_fe (k : Nat) (d : Dq) : (s.setDq k d).fe = s.fe := rfl
@[simp] theorem State.setDq_stalls (k : Nat) (d : Dq) : (s.setDq k d).stalls = s.stalls := rfl
@[simp] theorem State.setDq_ladders (k : Nat) (d : Dq) : (s.setDq k d).ladders = s.ladders := rfl
@[simp] theorem State.setDq_islSaves (k : Nat) (d : Dq) : (s.setDq k d).islSaves = s.islSaves := rfl
@[simp] theorem State.setDq_vinvs (k : Nat) (d : Dq) : (s.setDq k d).vinvs = s.vinvs := rfl
@[simp] theorem State.setDq_ccs (k : Nat) (d : Dq) : (s.setDq k d).ccs = s.ccs := rfl
@[simp] theorem State.setDq_gens (k : Nat) (d : Dq) : (s.setDq k d).gens = s.gens := rfl
@[simp] theorem State.setDq_pairs (k : Nat) (d : Dq) : (s.setDq k d).pairs = s.pairs := rfl
@[simp] theorem State.setDq_links (k : Nat) (d : Dq) : (s.setDq k d).links = s.links := rfl
@[simp] theorem State.setDq_tickAt (k : Nat) (d : Dq) : (s.setDq k d).tickAt = s.tickAt := rfl
@[simp] theorem State.setDq_tests (k : Nat) (d : Dq) : (s.setDq k d).tests = s.tests := rfl
@[simp] theorem State.setDq_testInfo (k : Nat) (d : Dq) : (s.setDq k d).testInfo = s.testInfo := rfl
@[simp] theorem State.setDq_testFails (k : Nat) (d : Dq) : (s.setDq k d).testFails = s.testFails := rfl
@[simp] theorem State.setDq_boot (k : Nat) (d : Dq) : (s.setDq k d).boot = s.boot := rfl
@[simp] theorem State.setDq_svn (k : Nat) (d : Dq) : (s.setDq k d).svn = s.svn := rfl
@[simp] theorem State.setDq_firmware (k : Nat) (d : Dq) : (s.setDq k d).firmware = s.firmware := rfl
@[simp] theorem State.setDq_loader (k : Nat) (d : Dq) : (s.setDq k d).loader = s.loader := rfl
@[simp] theorem State.setDq_record (k : Nat) (d : Dq) : (s.setDq k d).record = s.record := rfl
@[simp] theorem State.setDq_flash (k : Nat) (d : Dq) : (s.setDq k d).flash = s.flash := rfl
@[simp] theorem State.setDq_recLog (k : Nat) (d : Dq) : (s.setDq k d).recLog = s.recLog := rfl
@[simp] theorem State.setDq_sigsUsed (k : Nat) (d : Dq) : (s.setDq k d).sigsUsed = s.sigsUsed := rfl
@[simp] theorem State.setDq_ethDown (k : Nat) (d : Dq) : (s.setDq k d).ethDown = s.ethDown := rfl
@[simp] theorem State.setDq_storageUp (k : Nat) (d : Dq) : (s.setDq k d).storageUp = s.storageUp := rfl
@[simp] theorem State.setDq_trigs (k : Nat) (d : Dq) : (s.setDq k d).trigs = s.trigs := rfl
@[simp] theorem State.setDq_ccDead (k : Nat) (d : Dq) : (s.setDq k d).ccDead = s.ccDead := rfl
@[simp] theorem State.setDq_owed (k : Nat) (d : Dq) : (s.setDq k d).owed = s.owed := rfl
@[simp] theorem State.setDq_placed (k : Nat) (d : Dq) : (s.setDq k d).placed = s.placed := rfl
@[simp] theorem State.setDq_busData (k : Nat) (d : Dq) : (s.setDq k d).busData = s.busData := rfl
@[simp] theorem State.setDq_busErr (k : Nat) (d : Dq) : (s.setDq k d).busErr = s.busErr := rfl
@[simp] theorem State.setDq_busy (k : Nat) (d : Dq) : (s.setDq k d).busy = s.busy := rfl
@[simp] theorem State.setDq_holds (k : Nat) (d : Dq) : (s.setDq k d).holds = s.holds := rfl
@[simp] theorem State.setDq_weak (k : Nat) (d : Dq) : (s.setDq k d).weak = s.weak := rfl
@[simp] theorem State.setDq_eccLog (k : Nat) (d : Dq) : (s.setDq k d).eccLog = s.eccLog := rfl

/-! ### `setCounter` -/

@[simp] theorem State.setCounter_agenda (k : Nat) (c : Counter) : (s.setCounter k c).agenda = s.agenda := rfl
@[simp] theorem State.setCounter_cur (k : Nat) (c : Counter) : (s.setCounter k c).cur = s.cur := rfl
@[simp] theorem State.setCounter_held (k : Nat) (c : Counter) : (s.setCounter k c).held = s.held := rfl
@[simp] theorem State.setCounter_cycle (k : Nat) (c : Counter) : (s.setCounter k c).cycle = s.cycle := rfl
@[simp] theorem State.setCounter_free (k : Nat) (c : Counter) : (s.setCounter k c).free = s.free := rfl
@[simp] theorem State.setCounter_pes (k : Nat) (c : Counter) : (s.setCounter k c).pes = s.pes := rfl
@[simp] theorem State.setCounter_rows (k : Nat) (c : Counter) : (s.setCounter k c).rows = s.rows := rfl
@[simp] theorem State.setCounter_routesIn (k : Nat) (c : Counter) : (s.setCounter k c).routesIn = s.routesIn := rfl
@[simp] theorem State.setCounter_regions (k : Nat) (c : Counter) : (s.setCounter k c).regions = s.regions := rfl
@[simp] theorem State.setCounter_reqs (k : Nat) (c : Counter) : (s.setCounter k c).reqs = s.reqs := rfl
@[simp] theorem State.setCounter_replies (k : Nat) (c : Counter) : (s.setCounter k c).replies = s.replies := rfl
@[simp] theorem State.setCounter_tasks (k : Nat) (c : Counter) : (s.setCounter k c).tasks = s.tasks := rfl
@[simp] theorem State.setCounter_nextTask (k : Nat) (c : Counter) : (s.setCounter k c).nextTask = s.nextTask := rfl
@[simp] theorem State.setCounter_tiles (k : Nat) (c : Counter) : (s.setCounter k c).tiles = s.tiles := rfl
@[simp] theorem State.setCounter_mem (k : Nat) (c : Counter) : (s.setCounter k c).mem = s.mem := rfl
@[simp] theorem State.setCounter_pdb (k : Nat) (c : Counter) : (s.setCounter k c).pdb = s.pdb := rfl
@[simp] theorem State.setCounter_wst (k : Nat) (c : Counter) : (s.setCounter k c).wst = s.wst := rfl
@[simp] theorem State.setCounter_dram (k : Nat) (c : Counter) : (s.setCounter k c).dram = s.dram := rfl
@[simp] theorem State.setCounter_vers (k : Nat) (c : Counter) : (s.setCounter k c).vers = s.vers := rfl
@[simp] theorem State.setCounter_vparts (k : Nat) (c : Counter) : (s.setCounter k c).vparts = s.vparts := rfl
@[simp] theorem State.setCounter_dqs (k : Nat) (c : Counter) : (s.setCounter k c).dqs = s.dqs := rfl
@[simp] theorem State.setCounter_dseq (k : Nat) (c : Counter) : (s.setCounter k c).dseq = s.dseq := rfl
@[simp] theorem State.setCounter_counters (k : Nat) (c : Counter) : (s.setCounter k c).counters = tabPut s.counters k c := rfl
@[simp] theorem State.setCounter_dcsr (k : Nat) (c : Counter) : (s.setCounter k c).dcsr = s.dcsr := rfl
@[simp] theorem State.setCounter_ccsr (k : Nat) (c : Counter) : (s.setCounter k c).ccsr = s.ccsr := rfl
@[simp] theorem State.setCounter_hostRing (k : Nat) (c : Counter) : (s.setCounter k c).hostRing = s.hostRing := rfl
@[simp] theorem State.setCounter_umber (k : Nat) (c : Counter) : (s.setCounter k c).umber = s.umber := rfl
@[simp] theorem State.setCounter_tlb (k : Nat) (c : Counter) : (s.setCounter k c).tlb = s.tlb := rfl
@[simp] theorem State.setCounter_tb (k : Nat) (c : Counter) : (s.setCounter k c).tb = s.tb := rfl
@[simp] theorem State.setCounter_stc (k : Nat) (c : Counter) : (s.setCounter k c).stc = s.stc := rfl
@[simp] theorem State.setCounter_frecs (k : Nat) (c : Counter) : (s.setCounter k c).frecs = s.frecs := rfl
@[simp] theorem State.setCounter_fwait (k : Nat) (c : Counter) : (s.setCounter k c).fwait = s.fwait := rfl
@[simp] theorem State.setCounter_serials (k : Nat) (c : Counter) : (s.setCounter k c).serials = s.serials := rfl
@[simp] theorem State.setCounter_jobs (k : Nat) (c : Counter) : (s.setCounter k c).jobs = s.jobs := rfl
@[simp] theorem State.setCounter_graphs (k : Nat) (c : Counter) : (s.setCounter k c).graphs = s.graphs := rfl
@[simp] theorem State.setCounter_cards (k : Nat) (c : Counter) : (s.setCounter k c).cards = s.cards := rfl
@[simp] theorem State.setCounter_nextCard (k : Nat) (c : Counter) : (s.setCounter k c).nextCard = s.nextCard := rfl
@[simp] theorem State.setCounter_pages (k : Nat) (c : Counter) : (s.setCounter k c).pages = s.pages := rfl
@[simp] theorem State.setCounter_ccache (k : Nat) (c : Counter) : (s.setCounter k c).ccache = s.ccache := rfl
@[simp] theorem State.setCounter_misls (k : Nat) (c : Counter) : (s.setCounter k c).misls = s.misls := rfl
@[simp] theorem State.setCounter_sisls (k : Nat) (c : Counter) : (s.setCounter k c).sisls = s.sisls := rfl
@[simp] theorem State.setCounter_frames (k : Nat) (c : Counter) : (s.setCounter k c).frames = s.frames := rfl
@[simp] theorem State.setCounter_hostFrames (k : Nat) (c : Counter) : (s.setCounter k c).hostFrames = s.hostFrames := rfl
@[simp] theorem State.setCounter_cinvs (k : Nat) (c : Counter) : (s.setCounter k c).cinvs = s.cinvs := rfl
@[simp] theorem State.setCounter_downDies (k : Nat) (c : Counter) : (s.setCounter k c).downDies = s.downDies := rfl
@[simp] theorem State.setCounter_tabs (k : Nat) (c : Counter) : (s.setCounter k c).tabs = s.tabs := rfl
@[simp] theorem State.setCounter_grants (k : Nat) (c : Counter) : (s.setCounter k c).grants = s.grants := rfl
@[simp] theorem State.setCounter_dbgs (k : Nat) (c : Counter) : (s.setCounter k c).dbgs = s.dbgs := rfl
@[simp] theorem State.setCounter_acctSeq (k : Nat) (c : Counter) : (s.setCounter k c).acctSeq = s.acctSeq := rfl
@[simp] theorem State.setCounter_groups (k : Nat) (c : Counter) : (s.setCounter k c).groups = s.groups := rfl
@[simp] theorem State.setCounter_groupNo (k : Nat) (c : Counter) : (s.setCounter k c).groupNo = s.groupNo := rfl
@[simp] theorem State.setCounter_groupEnds (k : Nat) (c : Counter) : (s.setCounter k c).groupEnds = s.groupEnds := rfl
@[simp] theorem State.setCounter_saved (k : Nat) (c : Counter) : (s.setCounter k c).saved = s.saved := rfl
@[simp] theorem State.setCounter_meas0 (k : Nat) (c : Counter) : (s.setCounter k c).meas0 = s.meas0 := rfl
@[simp] theorem State.setCounter_meas1 (k : Nat) (c : Counter) : (s.setCounter k c).meas1 = s.meas1 := rfl
@[simp] theorem State.setCounter_queues (k : Nat) (c : Counter) : (s.setCounter k c).queues = s.queues := rfl
@[simp] theorem State.setCounter_fe (k : Nat) (c : Counter) : (s.setCounter k c).fe = s.fe := rfl
@[simp] theorem State.setCounter_stalls (k : Nat) (c : Counter) : (s.setCounter k c).stalls = s.stalls := rfl
@[simp] theorem State.setCounter_ladders (k : Nat) (c : Counter) : (s.setCounter k c).ladders = s.ladders := rfl
@[simp] theorem State.setCounter_islSaves (k : Nat) (c : Counter) : (s.setCounter k c).islSaves = s.islSaves := rfl
@[simp] theorem State.setCounter_vinvs (k : Nat) (c : Counter) : (s.setCounter k c).vinvs = s.vinvs := rfl
@[simp] theorem State.setCounter_ccs (k : Nat) (c : Counter) : (s.setCounter k c).ccs = s.ccs := rfl
@[simp] theorem State.setCounter_gens (k : Nat) (c : Counter) : (s.setCounter k c).gens = s.gens := rfl
@[simp] theorem State.setCounter_pairs (k : Nat) (c : Counter) : (s.setCounter k c).pairs = s.pairs := rfl
@[simp] theorem State.setCounter_links (k : Nat) (c : Counter) : (s.setCounter k c).links = s.links := rfl
@[simp] theorem State.setCounter_tickAt (k : Nat) (c : Counter) : (s.setCounter k c).tickAt = s.tickAt := rfl
@[simp] theorem State.setCounter_tests (k : Nat) (c : Counter) : (s.setCounter k c).tests = s.tests := rfl
@[simp] theorem State.setCounter_testInfo (k : Nat) (c : Counter) : (s.setCounter k c).testInfo = s.testInfo := rfl
@[simp] theorem State.setCounter_testFails (k : Nat) (c : Counter) : (s.setCounter k c).testFails = s.testFails := rfl
@[simp] theorem State.setCounter_boot (k : Nat) (c : Counter) : (s.setCounter k c).boot = s.boot := rfl
@[simp] theorem State.setCounter_svn (k : Nat) (c : Counter) : (s.setCounter k c).svn = s.svn := rfl
@[simp] theorem State.setCounter_firmware (k : Nat) (c : Counter) : (s.setCounter k c).firmware = s.firmware := rfl
@[simp] theorem State.setCounter_loader (k : Nat) (c : Counter) : (s.setCounter k c).loader = s.loader := rfl
@[simp] theorem State.setCounter_record (k : Nat) (c : Counter) : (s.setCounter k c).record = s.record := rfl
@[simp] theorem State.setCounter_flash (k : Nat) (c : Counter) : (s.setCounter k c).flash = s.flash := rfl
@[simp] theorem State.setCounter_recLog (k : Nat) (c : Counter) : (s.setCounter k c).recLog = s.recLog := rfl
@[simp] theorem State.setCounter_sigsUsed (k : Nat) (c : Counter) : (s.setCounter k c).sigsUsed = s.sigsUsed := rfl
@[simp] theorem State.setCounter_ethDown (k : Nat) (c : Counter) : (s.setCounter k c).ethDown = s.ethDown := rfl
@[simp] theorem State.setCounter_storageUp (k : Nat) (c : Counter) : (s.setCounter k c).storageUp = s.storageUp := rfl
@[simp] theorem State.setCounter_trigs (k : Nat) (c : Counter) : (s.setCounter k c).trigs = s.trigs := rfl
@[simp] theorem State.setCounter_ccDead (k : Nat) (c : Counter) : (s.setCounter k c).ccDead = s.ccDead := rfl
@[simp] theorem State.setCounter_owed (k : Nat) (c : Counter) : (s.setCounter k c).owed = s.owed := rfl
@[simp] theorem State.setCounter_placed (k : Nat) (c : Counter) : (s.setCounter k c).placed = s.placed := rfl
@[simp] theorem State.setCounter_busData (k : Nat) (c : Counter) : (s.setCounter k c).busData = s.busData := rfl
@[simp] theorem State.setCounter_busErr (k : Nat) (c : Counter) : (s.setCounter k c).busErr = s.busErr := rfl
@[simp] theorem State.setCounter_busy (k : Nat) (c : Counter) : (s.setCounter k c).busy = s.busy := rfl
@[simp] theorem State.setCounter_holds (k : Nat) (c : Counter) : (s.setCounter k c).holds = s.holds := rfl
@[simp] theorem State.setCounter_weak (k : Nat) (c : Counter) : (s.setCounter k c).weak = s.weak := rfl
@[simp] theorem State.setCounter_eccLog (k : Nat) (c : Counter) : (s.setCounter k c).eccLog = s.eccLog := rfl

/-! ### `setJob` -/

@[simp] theorem State.setJob_agenda (c k : Nat) (j : Job) : (s.setJob c k j).agenda = s.agenda := rfl
@[simp] theorem State.setJob_cur (c k : Nat) (j : Job) : (s.setJob c k j).cur = s.cur := rfl
@[simp] theorem State.setJob_held (c k : Nat) (j : Job) : (s.setJob c k j).held = s.held := rfl
@[simp] theorem State.setJob_cycle (c k : Nat) (j : Job) : (s.setJob c k j).cycle = s.cycle := rfl
@[simp] theorem State.setJob_free (c k : Nat) (j : Job) : (s.setJob c k j).free = s.free := rfl
@[simp] theorem State.setJob_pes (c k : Nat) (j : Job) : (s.setJob c k j).pes = s.pes := rfl
@[simp] theorem State.setJob_rows (c k : Nat) (j : Job) : (s.setJob c k j).rows = s.rows := rfl
@[simp] theorem State.setJob_routesIn (c k : Nat) (j : Job) : (s.setJob c k j).routesIn = s.routesIn := rfl
@[simp] theorem State.setJob_regions (c k : Nat) (j : Job) : (s.setJob c k j).regions = s.regions := rfl
@[simp] theorem State.setJob_reqs (c k : Nat) (j : Job) : (s.setJob c k j).reqs = s.reqs := rfl
@[simp] theorem State.setJob_replies (c k : Nat) (j : Job) : (s.setJob c k j).replies = s.replies := rfl
@[simp] theorem State.setJob_tasks (c k : Nat) (j : Job) : (s.setJob c k j).tasks = s.tasks := rfl
@[simp] theorem State.setJob_nextTask (c k : Nat) (j : Job) : (s.setJob c k j).nextTask = s.nextTask := rfl
@[simp] theorem State.setJob_tiles (c k : Nat) (j : Job) : (s.setJob c k j).tiles = s.tiles := rfl
@[simp] theorem State.setJob_mem (c k : Nat) (j : Job) : (s.setJob c k j).mem = s.mem := rfl
@[simp] theorem State.setJob_pdb (c k : Nat) (j : Job) : (s.setJob c k j).pdb = s.pdb := rfl
@[simp] theorem State.setJob_wst (c k : Nat) (j : Job) : (s.setJob c k j).wst = s.wst := rfl
@[simp] theorem State.setJob_dram (c k : Nat) (j : Job) : (s.setJob c k j).dram = s.dram := rfl
@[simp] theorem State.setJob_vers (c k : Nat) (j : Job) : (s.setJob c k j).vers = s.vers := rfl
@[simp] theorem State.setJob_vparts (c k : Nat) (j : Job) : (s.setJob c k j).vparts = s.vparts := rfl
@[simp] theorem State.setJob_dqs (c k : Nat) (j : Job) : (s.setJob c k j).dqs = s.dqs := rfl
@[simp] theorem State.setJob_dseq (c k : Nat) (j : Job) : (s.setJob c k j).dseq = s.dseq := rfl
@[simp] theorem State.setJob_counters (c k : Nat) (j : Job) : (s.setJob c k j).counters = s.counters := rfl
@[simp] theorem State.setJob_dcsr (c k : Nat) (j : Job) : (s.setJob c k j).dcsr = s.dcsr := rfl
@[simp] theorem State.setJob_ccsr (c k : Nat) (j : Job) : (s.setJob c k j).ccsr = s.ccsr := rfl
@[simp] theorem State.setJob_hostRing (c k : Nat) (j : Job) : (s.setJob c k j).hostRing = s.hostRing := rfl
@[simp] theorem State.setJob_umber (c k : Nat) (j : Job) : (s.setJob c k j).umber = s.umber := rfl
@[simp] theorem State.setJob_tlb (c k : Nat) (j : Job) : (s.setJob c k j).tlb = s.tlb := rfl
@[simp] theorem State.setJob_tb (c k : Nat) (j : Job) : (s.setJob c k j).tb = s.tb := rfl
@[simp] theorem State.setJob_stc (c k : Nat) (j : Job) : (s.setJob c k j).stc = s.stc := rfl
@[simp] theorem State.setJob_frecs (c k : Nat) (j : Job) : (s.setJob c k j).frecs = s.frecs := rfl
@[simp] theorem State.setJob_fwait (c k : Nat) (j : Job) : (s.setJob c k j).fwait = s.fwait := rfl
@[simp] theorem State.setJob_serials (c k : Nat) (j : Job) : (s.setJob c k j).serials = s.serials := rfl
@[simp] theorem State.setJob_jobs (c k : Nat) (j : Job) : (s.setJob c k j).jobs = tabPut s.jobs (1024 * c + k) j := rfl
@[simp] theorem State.setJob_graphs (c k : Nat) (j : Job) : (s.setJob c k j).graphs = s.graphs := rfl
@[simp] theorem State.setJob_cards (c k : Nat) (j : Job) : (s.setJob c k j).cards = s.cards := rfl
@[simp] theorem State.setJob_nextCard (c k : Nat) (j : Job) : (s.setJob c k j).nextCard = s.nextCard := rfl
@[simp] theorem State.setJob_pages (c k : Nat) (j : Job) : (s.setJob c k j).pages = s.pages := rfl
@[simp] theorem State.setJob_ccache (c k : Nat) (j : Job) : (s.setJob c k j).ccache = s.ccache := rfl
@[simp] theorem State.setJob_misls (c k : Nat) (j : Job) : (s.setJob c k j).misls = s.misls := rfl
@[simp] theorem State.setJob_sisls (c k : Nat) (j : Job) : (s.setJob c k j).sisls = s.sisls := rfl
@[simp] theorem State.setJob_frames (c k : Nat) (j : Job) : (s.setJob c k j).frames = s.frames := rfl
@[simp] theorem State.setJob_hostFrames (c k : Nat) (j : Job) : (s.setJob c k j).hostFrames = s.hostFrames := rfl
@[simp] theorem State.setJob_cinvs (c k : Nat) (j : Job) : (s.setJob c k j).cinvs = s.cinvs := rfl
@[simp] theorem State.setJob_downDies (c k : Nat) (j : Job) : (s.setJob c k j).downDies = s.downDies := rfl
@[simp] theorem State.setJob_tabs (c k : Nat) (j : Job) : (s.setJob c k j).tabs = s.tabs := rfl
@[simp] theorem State.setJob_grants (c k : Nat) (j : Job) : (s.setJob c k j).grants = s.grants := rfl
@[simp] theorem State.setJob_dbgs (c k : Nat) (j : Job) : (s.setJob c k j).dbgs = s.dbgs := rfl
@[simp] theorem State.setJob_acctSeq (c k : Nat) (j : Job) : (s.setJob c k j).acctSeq = s.acctSeq := rfl
@[simp] theorem State.setJob_groups (c k : Nat) (j : Job) : (s.setJob c k j).groups = s.groups := rfl
@[simp] theorem State.setJob_groupNo (c k : Nat) (j : Job) : (s.setJob c k j).groupNo = s.groupNo := rfl
@[simp] theorem State.setJob_groupEnds (c k : Nat) (j : Job) : (s.setJob c k j).groupEnds = s.groupEnds := rfl
@[simp] theorem State.setJob_saved (c k : Nat) (j : Job) : (s.setJob c k j).saved = s.saved := rfl
@[simp] theorem State.setJob_meas0 (c k : Nat) (j : Job) : (s.setJob c k j).meas0 = s.meas0 := rfl
@[simp] theorem State.setJob_meas1 (c k : Nat) (j : Job) : (s.setJob c k j).meas1 = s.meas1 := rfl
@[simp] theorem State.setJob_queues (c k : Nat) (j : Job) : (s.setJob c k j).queues = s.queues := rfl
@[simp] theorem State.setJob_fe (c k : Nat) (j : Job) : (s.setJob c k j).fe = s.fe := rfl
@[simp] theorem State.setJob_stalls (c k : Nat) (j : Job) : (s.setJob c k j).stalls = s.stalls := rfl
@[simp] theorem State.setJob_ladders (c k : Nat) (j : Job) : (s.setJob c k j).ladders = s.ladders := rfl
@[simp] theorem State.setJob_islSaves (c k : Nat) (j : Job) : (s.setJob c k j).islSaves = s.islSaves := rfl
@[simp] theorem State.setJob_vinvs (c k : Nat) (j : Job) : (s.setJob c k j).vinvs = s.vinvs := rfl
@[simp] theorem State.setJob_ccs (c k : Nat) (j : Job) : (s.setJob c k j).ccs = s.ccs := rfl
@[simp] theorem State.setJob_gens (c k : Nat) (j : Job) : (s.setJob c k j).gens = s.gens := rfl
@[simp] theorem State.setJob_pairs (c k : Nat) (j : Job) : (s.setJob c k j).pairs = s.pairs := rfl
@[simp] theorem State.setJob_links (c k : Nat) (j : Job) : (s.setJob c k j).links = s.links := rfl
@[simp] theorem State.setJob_tickAt (c k : Nat) (j : Job) : (s.setJob c k j).tickAt = s.tickAt := rfl
@[simp] theorem State.setJob_tests (c k : Nat) (j : Job) : (s.setJob c k j).tests = s.tests := rfl
@[simp] theorem State.setJob_testInfo (c k : Nat) (j : Job) : (s.setJob c k j).testInfo = s.testInfo := rfl
@[simp] theorem State.setJob_testFails (c k : Nat) (j : Job) : (s.setJob c k j).testFails = s.testFails := rfl
@[simp] theorem State.setJob_boot (c k : Nat) (j : Job) : (s.setJob c k j).boot = s.boot := rfl
@[simp] theorem State.setJob_svn (c k : Nat) (j : Job) : (s.setJob c k j).svn = s.svn := rfl
@[simp] theorem State.setJob_firmware (c k : Nat) (j : Job) : (s.setJob c k j).firmware = s.firmware := rfl
@[simp] theorem State.setJob_loader (c k : Nat) (j : Job) : (s.setJob c k j).loader = s.loader := rfl
@[simp] theorem State.setJob_record (c k : Nat) (j : Job) : (s.setJob c k j).record = s.record := rfl
@[simp] theorem State.setJob_flash (c k : Nat) (j : Job) : (s.setJob c k j).flash = s.flash := rfl
@[simp] theorem State.setJob_recLog (c k : Nat) (j : Job) : (s.setJob c k j).recLog = s.recLog := rfl
@[simp] theorem State.setJob_sigsUsed (c k : Nat) (j : Job) : (s.setJob c k j).sigsUsed = s.sigsUsed := rfl
@[simp] theorem State.setJob_ethDown (c k : Nat) (j : Job) : (s.setJob c k j).ethDown = s.ethDown := rfl
@[simp] theorem State.setJob_storageUp (c k : Nat) (j : Job) : (s.setJob c k j).storageUp = s.storageUp := rfl
@[simp] theorem State.setJob_trigs (c k : Nat) (j : Job) : (s.setJob c k j).trigs = s.trigs := rfl
@[simp] theorem State.setJob_ccDead (c k : Nat) (j : Job) : (s.setJob c k j).ccDead = s.ccDead := rfl
@[simp] theorem State.setJob_owed (c k : Nat) (j : Job) : (s.setJob c k j).owed = s.owed := rfl
@[simp] theorem State.setJob_placed (c k : Nat) (j : Job) : (s.setJob c k j).placed = s.placed := rfl
@[simp] theorem State.setJob_busData (c k : Nat) (j : Job) : (s.setJob c k j).busData = s.busData := rfl
@[simp] theorem State.setJob_busErr (c k : Nat) (j : Job) : (s.setJob c k j).busErr = s.busErr := rfl
@[simp] theorem State.setJob_busy (c k : Nat) (j : Job) : (s.setJob c k j).busy = s.busy := rfl
@[simp] theorem State.setJob_holds (c k : Nat) (j : Job) : (s.setJob c k j).holds = s.holds := rfl
@[simp] theorem State.setJob_weak (c k : Nat) (j : Job) : (s.setJob c k j).weak = s.weak := rfl
@[simp] theorem State.setJob_eccLog (c k : Nat) (j : Job) : (s.setJob c k j).eccLog = s.eccLog := rfl

/-! ### `setMisl` -/

@[simp] theorem State.setMisl_agenda (k : Nat) (m : MIsl) : (s.setMisl k m).agenda = s.agenda := rfl
@[simp] theorem State.setMisl_cur (k : Nat) (m : MIsl) : (s.setMisl k m).cur = s.cur := rfl
@[simp] theorem State.setMisl_held (k : Nat) (m : MIsl) : (s.setMisl k m).held = s.held := rfl
@[simp] theorem State.setMisl_cycle (k : Nat) (m : MIsl) : (s.setMisl k m).cycle = s.cycle := rfl
@[simp] theorem State.setMisl_free (k : Nat) (m : MIsl) : (s.setMisl k m).free = s.free := rfl
@[simp] theorem State.setMisl_pes (k : Nat) (m : MIsl) : (s.setMisl k m).pes = s.pes := rfl
@[simp] theorem State.setMisl_rows (k : Nat) (m : MIsl) : (s.setMisl k m).rows = s.rows := rfl
@[simp] theorem State.setMisl_routesIn (k : Nat) (m : MIsl) : (s.setMisl k m).routesIn = s.routesIn := rfl
@[simp] theorem State.setMisl_regions (k : Nat) (m : MIsl) : (s.setMisl k m).regions = s.regions := rfl
@[simp] theorem State.setMisl_reqs (k : Nat) (m : MIsl) : (s.setMisl k m).reqs = s.reqs := rfl
@[simp] theorem State.setMisl_replies (k : Nat) (m : MIsl) : (s.setMisl k m).replies = s.replies := rfl
@[simp] theorem State.setMisl_tasks (k : Nat) (m : MIsl) : (s.setMisl k m).tasks = s.tasks := rfl
@[simp] theorem State.setMisl_nextTask (k : Nat) (m : MIsl) : (s.setMisl k m).nextTask = s.nextTask := rfl
@[simp] theorem State.setMisl_tiles (k : Nat) (m : MIsl) : (s.setMisl k m).tiles = s.tiles := rfl
@[simp] theorem State.setMisl_mem (k : Nat) (m : MIsl) : (s.setMisl k m).mem = s.mem := rfl
@[simp] theorem State.setMisl_pdb (k : Nat) (m : MIsl) : (s.setMisl k m).pdb = s.pdb := rfl
@[simp] theorem State.setMisl_wst (k : Nat) (m : MIsl) : (s.setMisl k m).wst = s.wst := rfl
@[simp] theorem State.setMisl_dram (k : Nat) (m : MIsl) : (s.setMisl k m).dram = s.dram := rfl
@[simp] theorem State.setMisl_vers (k : Nat) (m : MIsl) : (s.setMisl k m).vers = s.vers := rfl
@[simp] theorem State.setMisl_vparts (k : Nat) (m : MIsl) : (s.setMisl k m).vparts = s.vparts := rfl
@[simp] theorem State.setMisl_dqs (k : Nat) (m : MIsl) : (s.setMisl k m).dqs = s.dqs := rfl
@[simp] theorem State.setMisl_dseq (k : Nat) (m : MIsl) : (s.setMisl k m).dseq = s.dseq := rfl
@[simp] theorem State.setMisl_counters (k : Nat) (m : MIsl) : (s.setMisl k m).counters = s.counters := rfl
@[simp] theorem State.setMisl_dcsr (k : Nat) (m : MIsl) : (s.setMisl k m).dcsr = s.dcsr := rfl
@[simp] theorem State.setMisl_ccsr (k : Nat) (m : MIsl) : (s.setMisl k m).ccsr = s.ccsr := rfl
@[simp] theorem State.setMisl_hostRing (k : Nat) (m : MIsl) : (s.setMisl k m).hostRing = s.hostRing := rfl
@[simp] theorem State.setMisl_umber (k : Nat) (m : MIsl) : (s.setMisl k m).umber = s.umber := rfl
@[simp] theorem State.setMisl_tlb (k : Nat) (m : MIsl) : (s.setMisl k m).tlb = s.tlb := rfl
@[simp] theorem State.setMisl_tb (k : Nat) (m : MIsl) : (s.setMisl k m).tb = s.tb := rfl
@[simp] theorem State.setMisl_stc (k : Nat) (m : MIsl) : (s.setMisl k m).stc = s.stc := rfl
@[simp] theorem State.setMisl_frecs (k : Nat) (m : MIsl) : (s.setMisl k m).frecs = s.frecs := rfl
@[simp] theorem State.setMisl_fwait (k : Nat) (m : MIsl) : (s.setMisl k m).fwait = s.fwait := rfl
@[simp] theorem State.setMisl_serials (k : Nat) (m : MIsl) : (s.setMisl k m).serials = s.serials := rfl
@[simp] theorem State.setMisl_jobs (k : Nat) (m : MIsl) : (s.setMisl k m).jobs = s.jobs := rfl
@[simp] theorem State.setMisl_graphs (k : Nat) (m : MIsl) : (s.setMisl k m).graphs = s.graphs := rfl
@[simp] theorem State.setMisl_cards (k : Nat) (m : MIsl) : (s.setMisl k m).cards = s.cards := rfl
@[simp] theorem State.setMisl_nextCard (k : Nat) (m : MIsl) : (s.setMisl k m).nextCard = s.nextCard := rfl
@[simp] theorem State.setMisl_pages (k : Nat) (m : MIsl) : (s.setMisl k m).pages = s.pages := rfl
@[simp] theorem State.setMisl_ccache (k : Nat) (m : MIsl) : (s.setMisl k m).ccache = s.ccache := rfl
@[simp] theorem State.setMisl_misls (k : Nat) (m : MIsl) : (s.setMisl k m).misls = tabPut s.misls k m := rfl
@[simp] theorem State.setMisl_sisls (k : Nat) (m : MIsl) : (s.setMisl k m).sisls = s.sisls := rfl
@[simp] theorem State.setMisl_frames (k : Nat) (m : MIsl) : (s.setMisl k m).frames = s.frames := rfl
@[simp] theorem State.setMisl_hostFrames (k : Nat) (m : MIsl) : (s.setMisl k m).hostFrames = s.hostFrames := rfl
@[simp] theorem State.setMisl_cinvs (k : Nat) (m : MIsl) : (s.setMisl k m).cinvs = s.cinvs := rfl
@[simp] theorem State.setMisl_downDies (k : Nat) (m : MIsl) : (s.setMisl k m).downDies = s.downDies := rfl
@[simp] theorem State.setMisl_tabs (k : Nat) (m : MIsl) : (s.setMisl k m).tabs = s.tabs := rfl
@[simp] theorem State.setMisl_grants (k : Nat) (m : MIsl) : (s.setMisl k m).grants = s.grants := rfl
@[simp] theorem State.setMisl_dbgs (k : Nat) (m : MIsl) : (s.setMisl k m).dbgs = s.dbgs := rfl
@[simp] theorem State.setMisl_acctSeq (k : Nat) (m : MIsl) : (s.setMisl k m).acctSeq = s.acctSeq := rfl
@[simp] theorem State.setMisl_groups (k : Nat) (m : MIsl) : (s.setMisl k m).groups = s.groups := rfl
@[simp] theorem State.setMisl_groupNo (k : Nat) (m : MIsl) : (s.setMisl k m).groupNo = s.groupNo := rfl
@[simp] theorem State.setMisl_groupEnds (k : Nat) (m : MIsl) : (s.setMisl k m).groupEnds = s.groupEnds := rfl
@[simp] theorem State.setMisl_saved (k : Nat) (m : MIsl) : (s.setMisl k m).saved = s.saved := rfl
@[simp] theorem State.setMisl_meas0 (k : Nat) (m : MIsl) : (s.setMisl k m).meas0 = s.meas0 := rfl
@[simp] theorem State.setMisl_meas1 (k : Nat) (m : MIsl) : (s.setMisl k m).meas1 = s.meas1 := rfl
@[simp] theorem State.setMisl_queues (k : Nat) (m : MIsl) : (s.setMisl k m).queues = s.queues := rfl
@[simp] theorem State.setMisl_fe (k : Nat) (m : MIsl) : (s.setMisl k m).fe = s.fe := rfl
@[simp] theorem State.setMisl_stalls (k : Nat) (m : MIsl) : (s.setMisl k m).stalls = s.stalls := rfl
@[simp] theorem State.setMisl_ladders (k : Nat) (m : MIsl) : (s.setMisl k m).ladders = s.ladders := rfl
@[simp] theorem State.setMisl_islSaves (k : Nat) (m : MIsl) : (s.setMisl k m).islSaves = s.islSaves := rfl
@[simp] theorem State.setMisl_vinvs (k : Nat) (m : MIsl) : (s.setMisl k m).vinvs = s.vinvs := rfl
@[simp] theorem State.setMisl_ccs (k : Nat) (m : MIsl) : (s.setMisl k m).ccs = s.ccs := rfl
@[simp] theorem State.setMisl_gens (k : Nat) (m : MIsl) : (s.setMisl k m).gens = s.gens := rfl
@[simp] theorem State.setMisl_pairs (k : Nat) (m : MIsl) : (s.setMisl k m).pairs = s.pairs := rfl
@[simp] theorem State.setMisl_links (k : Nat) (m : MIsl) : (s.setMisl k m).links = s.links := rfl
@[simp] theorem State.setMisl_tickAt (k : Nat) (m : MIsl) : (s.setMisl k m).tickAt = s.tickAt := rfl
@[simp] theorem State.setMisl_tests (k : Nat) (m : MIsl) : (s.setMisl k m).tests = s.tests := rfl
@[simp] theorem State.setMisl_testInfo (k : Nat) (m : MIsl) : (s.setMisl k m).testInfo = s.testInfo := rfl
@[simp] theorem State.setMisl_testFails (k : Nat) (m : MIsl) : (s.setMisl k m).testFails = s.testFails := rfl
@[simp] theorem State.setMisl_boot (k : Nat) (m : MIsl) : (s.setMisl k m).boot = s.boot := rfl
@[simp] theorem State.setMisl_svn (k : Nat) (m : MIsl) : (s.setMisl k m).svn = s.svn := rfl
@[simp] theorem State.setMisl_firmware (k : Nat) (m : MIsl) : (s.setMisl k m).firmware = s.firmware := rfl
@[simp] theorem State.setMisl_loader (k : Nat) (m : MIsl) : (s.setMisl k m).loader = s.loader := rfl
@[simp] theorem State.setMisl_record (k : Nat) (m : MIsl) : (s.setMisl k m).record = s.record := rfl
@[simp] theorem State.setMisl_flash (k : Nat) (m : MIsl) : (s.setMisl k m).flash = s.flash := rfl
@[simp] theorem State.setMisl_recLog (k : Nat) (m : MIsl) : (s.setMisl k m).recLog = s.recLog := rfl
@[simp] theorem State.setMisl_sigsUsed (k : Nat) (m : MIsl) : (s.setMisl k m).sigsUsed = s.sigsUsed := rfl
@[simp] theorem State.setMisl_ethDown (k : Nat) (m : MIsl) : (s.setMisl k m).ethDown = s.ethDown := rfl
@[simp] theorem State.setMisl_storageUp (k : Nat) (m : MIsl) : (s.setMisl k m).storageUp = s.storageUp := rfl
@[simp] theorem State.setMisl_trigs (k : Nat) (m : MIsl) : (s.setMisl k m).trigs = s.trigs := rfl
@[simp] theorem State.setMisl_ccDead (k : Nat) (m : MIsl) : (s.setMisl k m).ccDead = s.ccDead := rfl
@[simp] theorem State.setMisl_owed (k : Nat) (m : MIsl) : (s.setMisl k m).owed = s.owed := rfl
@[simp] theorem State.setMisl_placed (k : Nat) (m : MIsl) : (s.setMisl k m).placed = s.placed := rfl
@[simp] theorem State.setMisl_busData (k : Nat) (m : MIsl) : (s.setMisl k m).busData = s.busData := rfl
@[simp] theorem State.setMisl_busErr (k : Nat) (m : MIsl) : (s.setMisl k m).busErr = s.busErr := rfl
@[simp] theorem State.setMisl_busy (k : Nat) (m : MIsl) : (s.setMisl k m).busy = s.busy := rfl
@[simp] theorem State.setMisl_holds (k : Nat) (m : MIsl) : (s.setMisl k m).holds = s.holds := rfl
@[simp] theorem State.setMisl_weak (k : Nat) (m : MIsl) : (s.setMisl k m).weak = s.weak := rfl
@[simp] theorem State.setMisl_eccLog (k : Nat) (m : MIsl) : (s.setMisl k m).eccLog = s.eccLog := rfl

/-! ### `setSisl` -/

@[simp] theorem State.setSisl_agenda (k : Nat) (v : SIsl) : (s.setSisl k v).agenda = s.agenda := rfl
@[simp] theorem State.setSisl_cur (k : Nat) (v : SIsl) : (s.setSisl k v).cur = s.cur := rfl
@[simp] theorem State.setSisl_held (k : Nat) (v : SIsl) : (s.setSisl k v).held = s.held := rfl
@[simp] theorem State.setSisl_cycle (k : Nat) (v : SIsl) : (s.setSisl k v).cycle = s.cycle := rfl
@[simp] theorem State.setSisl_free (k : Nat) (v : SIsl) : (s.setSisl k v).free = s.free := rfl
@[simp] theorem State.setSisl_pes (k : Nat) (v : SIsl) : (s.setSisl k v).pes = s.pes := rfl
@[simp] theorem State.setSisl_rows (k : Nat) (v : SIsl) : (s.setSisl k v).rows = s.rows := rfl
@[simp] theorem State.setSisl_routesIn (k : Nat) (v : SIsl) : (s.setSisl k v).routesIn = s.routesIn := rfl
@[simp] theorem State.setSisl_regions (k : Nat) (v : SIsl) : (s.setSisl k v).regions = s.regions := rfl
@[simp] theorem State.setSisl_reqs (k : Nat) (v : SIsl) : (s.setSisl k v).reqs = s.reqs := rfl
@[simp] theorem State.setSisl_replies (k : Nat) (v : SIsl) : (s.setSisl k v).replies = s.replies := rfl
@[simp] theorem State.setSisl_tasks (k : Nat) (v : SIsl) : (s.setSisl k v).tasks = s.tasks := rfl
@[simp] theorem State.setSisl_nextTask (k : Nat) (v : SIsl) : (s.setSisl k v).nextTask = s.nextTask := rfl
@[simp] theorem State.setSisl_tiles (k : Nat) (v : SIsl) : (s.setSisl k v).tiles = s.tiles := rfl
@[simp] theorem State.setSisl_mem (k : Nat) (v : SIsl) : (s.setSisl k v).mem = s.mem := rfl
@[simp] theorem State.setSisl_pdb (k : Nat) (v : SIsl) : (s.setSisl k v).pdb = s.pdb := rfl
@[simp] theorem State.setSisl_wst (k : Nat) (v : SIsl) : (s.setSisl k v).wst = s.wst := rfl
@[simp] theorem State.setSisl_dram (k : Nat) (v : SIsl) : (s.setSisl k v).dram = s.dram := rfl
@[simp] theorem State.setSisl_vers (k : Nat) (v : SIsl) : (s.setSisl k v).vers = s.vers := rfl
@[simp] theorem State.setSisl_vparts (k : Nat) (v : SIsl) : (s.setSisl k v).vparts = s.vparts := rfl
@[simp] theorem State.setSisl_dqs (k : Nat) (v : SIsl) : (s.setSisl k v).dqs = s.dqs := rfl
@[simp] theorem State.setSisl_dseq (k : Nat) (v : SIsl) : (s.setSisl k v).dseq = s.dseq := rfl
@[simp] theorem State.setSisl_counters (k : Nat) (v : SIsl) : (s.setSisl k v).counters = s.counters := rfl
@[simp] theorem State.setSisl_dcsr (k : Nat) (v : SIsl) : (s.setSisl k v).dcsr = s.dcsr := rfl
@[simp] theorem State.setSisl_ccsr (k : Nat) (v : SIsl) : (s.setSisl k v).ccsr = s.ccsr := rfl
@[simp] theorem State.setSisl_hostRing (k : Nat) (v : SIsl) : (s.setSisl k v).hostRing = s.hostRing := rfl
@[simp] theorem State.setSisl_umber (k : Nat) (v : SIsl) : (s.setSisl k v).umber = s.umber := rfl
@[simp] theorem State.setSisl_tlb (k : Nat) (v : SIsl) : (s.setSisl k v).tlb = s.tlb := rfl
@[simp] theorem State.setSisl_tb (k : Nat) (v : SIsl) : (s.setSisl k v).tb = s.tb := rfl
@[simp] theorem State.setSisl_stc (k : Nat) (v : SIsl) : (s.setSisl k v).stc = s.stc := rfl
@[simp] theorem State.setSisl_frecs (k : Nat) (v : SIsl) : (s.setSisl k v).frecs = s.frecs := rfl
@[simp] theorem State.setSisl_fwait (k : Nat) (v : SIsl) : (s.setSisl k v).fwait = s.fwait := rfl
@[simp] theorem State.setSisl_serials (k : Nat) (v : SIsl) : (s.setSisl k v).serials = s.serials := rfl
@[simp] theorem State.setSisl_jobs (k : Nat) (v : SIsl) : (s.setSisl k v).jobs = s.jobs := rfl
@[simp] theorem State.setSisl_graphs (k : Nat) (v : SIsl) : (s.setSisl k v).graphs = s.graphs := rfl
@[simp] theorem State.setSisl_cards (k : Nat) (v : SIsl) : (s.setSisl k v).cards = s.cards := rfl
@[simp] theorem State.setSisl_nextCard (k : Nat) (v : SIsl) : (s.setSisl k v).nextCard = s.nextCard := rfl
@[simp] theorem State.setSisl_pages (k : Nat) (v : SIsl) : (s.setSisl k v).pages = s.pages := rfl
@[simp] theorem State.setSisl_ccache (k : Nat) (v : SIsl) : (s.setSisl k v).ccache = s.ccache := rfl
@[simp] theorem State.setSisl_misls (k : Nat) (v : SIsl) : (s.setSisl k v).misls = s.misls := rfl
@[simp] theorem State.setSisl_sisls (k : Nat) (v : SIsl) : (s.setSisl k v).sisls = tabPut s.sisls k v := rfl
@[simp] theorem State.setSisl_frames (k : Nat) (v : SIsl) : (s.setSisl k v).frames = s.frames := rfl
@[simp] theorem State.setSisl_hostFrames (k : Nat) (v : SIsl) : (s.setSisl k v).hostFrames = s.hostFrames := rfl
@[simp] theorem State.setSisl_cinvs (k : Nat) (v : SIsl) : (s.setSisl k v).cinvs = s.cinvs := rfl
@[simp] theorem State.setSisl_downDies (k : Nat) (v : SIsl) : (s.setSisl k v).downDies = s.downDies := rfl
@[simp] theorem State.setSisl_tabs (k : Nat) (v : SIsl) : (s.setSisl k v).tabs = s.tabs := rfl
@[simp] theorem State.setSisl_grants (k : Nat) (v : SIsl) : (s.setSisl k v).grants = s.grants := rfl
@[simp] theorem State.setSisl_dbgs (k : Nat) (v : SIsl) : (s.setSisl k v).dbgs = s.dbgs := rfl
@[simp] theorem State.setSisl_acctSeq (k : Nat) (v : SIsl) : (s.setSisl k v).acctSeq = s.acctSeq := rfl
@[simp] theorem State.setSisl_groups (k : Nat) (v : SIsl) : (s.setSisl k v).groups = s.groups := rfl
@[simp] theorem State.setSisl_groupNo (k : Nat) (v : SIsl) : (s.setSisl k v).groupNo = s.groupNo := rfl
@[simp] theorem State.setSisl_groupEnds (k : Nat) (v : SIsl) : (s.setSisl k v).groupEnds = s.groupEnds := rfl
@[simp] theorem State.setSisl_saved (k : Nat) (v : SIsl) : (s.setSisl k v).saved = s.saved := rfl
@[simp] theorem State.setSisl_meas0 (k : Nat) (v : SIsl) : (s.setSisl k v).meas0 = s.meas0 := rfl
@[simp] theorem State.setSisl_meas1 (k : Nat) (v : SIsl) : (s.setSisl k v).meas1 = s.meas1 := rfl
@[simp] theorem State.setSisl_queues (k : Nat) (v : SIsl) : (s.setSisl k v).queues = s.queues := rfl
@[simp] theorem State.setSisl_fe (k : Nat) (v : SIsl) : (s.setSisl k v).fe = s.fe := rfl
@[simp] theorem State.setSisl_stalls (k : Nat) (v : SIsl) : (s.setSisl k v).stalls = s.stalls := rfl
@[simp] theorem State.setSisl_ladders (k : Nat) (v : SIsl) : (s.setSisl k v).ladders = s.ladders := rfl
@[simp] theorem State.setSisl_islSaves (k : Nat) (v : SIsl) : (s.setSisl k v).islSaves = s.islSaves := rfl
@[simp] theorem State.setSisl_vinvs (k : Nat) (v : SIsl) : (s.setSisl k v).vinvs = s.vinvs := rfl
@[simp] theorem State.setSisl_ccs (k : Nat) (v : SIsl) : (s.setSisl k v).ccs = s.ccs := rfl
@[simp] theorem State.setSisl_gens (k : Nat) (v : SIsl) : (s.setSisl k v).gens = s.gens := rfl
@[simp] theorem State.setSisl_pairs (k : Nat) (v : SIsl) : (s.setSisl k v).pairs = s.pairs := rfl
@[simp] theorem State.setSisl_links (k : Nat) (v : SIsl) : (s.setSisl k v).links = s.links := rfl
@[simp] theorem State.setSisl_tickAt (k : Nat) (v : SIsl) : (s.setSisl k v).tickAt = s.tickAt := rfl
@[simp] theorem State.setSisl_tests (k : Nat) (v : SIsl) : (s.setSisl k v).tests = s.tests := rfl
@[simp] theorem State.setSisl_testInfo (k : Nat) (v : SIsl) : (s.setSisl k v).testInfo = s.testInfo := rfl
@[simp] theorem State.setSisl_testFails (k : Nat) (v : SIsl) : (s.setSisl k v).testFails = s.testFails := rfl
@[simp] theorem State.setSisl_boot (k : Nat) (v : SIsl) : (s.setSisl k v).boot = s.boot := rfl
@[simp] theorem State.setSisl_svn (k : Nat) (v : SIsl) : (s.setSisl k v).svn = s.svn := rfl
@[simp] theorem State.setSisl_firmware (k : Nat) (v : SIsl) : (s.setSisl k v).firmware = s.firmware := rfl
@[simp] theorem State.setSisl_loader (k : Nat) (v : SIsl) : (s.setSisl k v).loader = s.loader := rfl
@[simp] theorem State.setSisl_record (k : Nat) (v : SIsl) : (s.setSisl k v).record = s.record := rfl
@[simp] theorem State.setSisl_flash (k : Nat) (v : SIsl) : (s.setSisl k v).flash = s.flash := rfl
@[simp] theorem State.setSisl_recLog (k : Nat) (v : SIsl) : (s.setSisl k v).recLog = s.recLog := rfl
@[simp] theorem State.setSisl_sigsUsed (k : Nat) (v : SIsl) : (s.setSisl k v).sigsUsed = s.sigsUsed := rfl
@[simp] theorem State.setSisl_ethDown (k : Nat) (v : SIsl) : (s.setSisl k v).ethDown = s.ethDown := rfl
@[simp] theorem State.setSisl_storageUp (k : Nat) (v : SIsl) : (s.setSisl k v).storageUp = s.storageUp := rfl
@[simp] theorem State.setSisl_trigs (k : Nat) (v : SIsl) : (s.setSisl k v).trigs = s.trigs := rfl
@[simp] theorem State.setSisl_ccDead (k : Nat) (v : SIsl) : (s.setSisl k v).ccDead = s.ccDead := rfl
@[simp] theorem State.setSisl_owed (k : Nat) (v : SIsl) : (s.setSisl k v).owed = s.owed := rfl
@[simp] theorem State.setSisl_placed (k : Nat) (v : SIsl) : (s.setSisl k v).placed = s.placed := rfl
@[simp] theorem State.setSisl_busData (k : Nat) (v : SIsl) : (s.setSisl k v).busData = s.busData := rfl
@[simp] theorem State.setSisl_busErr (k : Nat) (v : SIsl) : (s.setSisl k v).busErr = s.busErr := rfl
@[simp] theorem State.setSisl_busy (k : Nat) (v : SIsl) : (s.setSisl k v).busy = s.busy := rfl
@[simp] theorem State.setSisl_holds (k : Nat) (v : SIsl) : (s.setSisl k v).holds = s.holds := rfl
@[simp] theorem State.setSisl_weak (k : Nat) (v : SIsl) : (s.setSisl k v).weak = s.weak := rfl
@[simp] theorem State.setSisl_eccLog (k : Nat) (v : SIsl) : (s.setSisl k v).eccLog = s.eccLog := rfl

/-! ### `setQRun` -/

@[simp] theorem State.setQRun_agenda (q : Nat) (r : QRun) : (s.setQRun q r).agenda = s.agenda := rfl
@[simp] theorem State.setQRun_cur (q : Nat) (r : QRun) : (s.setQRun q r).cur = s.cur := rfl
@[simp] theorem State.setQRun_held (q : Nat) (r : QRun) : (s.setQRun q r).held = s.held := rfl
@[simp] theorem State.setQRun_cycle (q : Nat) (r : QRun) : (s.setQRun q r).cycle = s.cycle := rfl
@[simp] theorem State.setQRun_free (q : Nat) (r : QRun) : (s.setQRun q r).free = s.free := rfl
@[simp] theorem State.setQRun_pes (q : Nat) (r : QRun) : (s.setQRun q r).pes = s.pes := rfl
@[simp] theorem State.setQRun_rows (q : Nat) (r : QRun) : (s.setQRun q r).rows = s.rows := rfl
@[simp] theorem State.setQRun_routesIn (q : Nat) (r : QRun) : (s.setQRun q r).routesIn = s.routesIn := rfl
@[simp] theorem State.setQRun_regions (q : Nat) (r : QRun) : (s.setQRun q r).regions = s.regions := rfl
@[simp] theorem State.setQRun_reqs (q : Nat) (r : QRun) : (s.setQRun q r).reqs = s.reqs := rfl
@[simp] theorem State.setQRun_replies (q : Nat) (r : QRun) : (s.setQRun q r).replies = s.replies := rfl
@[simp] theorem State.setQRun_tasks (q : Nat) (r : QRun) : (s.setQRun q r).tasks = s.tasks := rfl
@[simp] theorem State.setQRun_nextTask (q : Nat) (r : QRun) : (s.setQRun q r).nextTask = s.nextTask := rfl
@[simp] theorem State.setQRun_tiles (q : Nat) (r : QRun) : (s.setQRun q r).tiles = s.tiles := rfl
@[simp] theorem State.setQRun_mem (q : Nat) (r : QRun) : (s.setQRun q r).mem = s.mem := rfl
@[simp] theorem State.setQRun_pdb (q : Nat) (r : QRun) : (s.setQRun q r).pdb = s.pdb := rfl
@[simp] theorem State.setQRun_wst (q : Nat) (r : QRun) : (s.setQRun q r).wst = s.wst := rfl
@[simp] theorem State.setQRun_dram (q : Nat) (r : QRun) : (s.setQRun q r).dram = s.dram := rfl
@[simp] theorem State.setQRun_vers (q : Nat) (r : QRun) : (s.setQRun q r).vers = s.vers := rfl
@[simp] theorem State.setQRun_vparts (q : Nat) (r : QRun) : (s.setQRun q r).vparts = s.vparts := rfl
@[simp] theorem State.setQRun_dqs (q : Nat) (r : QRun) : (s.setQRun q r).dqs = s.dqs := rfl
@[simp] theorem State.setQRun_dseq (q : Nat) (r : QRun) : (s.setQRun q r).dseq = s.dseq := rfl
@[simp] theorem State.setQRun_counters (q : Nat) (r : QRun) : (s.setQRun q r).counters = s.counters := rfl
@[simp] theorem State.setQRun_dcsr (q : Nat) (r : QRun) : (s.setQRun q r).dcsr = s.dcsr := rfl
@[simp] theorem State.setQRun_ccsr (q : Nat) (r : QRun) : (s.setQRun q r).ccsr = s.ccsr := rfl
@[simp] theorem State.setQRun_hostRing (q : Nat) (r : QRun) : (s.setQRun q r).hostRing = s.hostRing := rfl
@[simp] theorem State.setQRun_umber (q : Nat) (r : QRun) : (s.setQRun q r).umber = s.umber := rfl
@[simp] theorem State.setQRun_tlb (q : Nat) (r : QRun) : (s.setQRun q r).tlb = s.tlb := rfl
@[simp] theorem State.setQRun_tb (q : Nat) (r : QRun) : (s.setQRun q r).tb = s.tb := rfl
@[simp] theorem State.setQRun_stc (q : Nat) (r : QRun) : (s.setQRun q r).stc = s.stc := rfl
@[simp] theorem State.setQRun_frecs (q : Nat) (r : QRun) : (s.setQRun q r).frecs = s.frecs := rfl
@[simp] theorem State.setQRun_fwait (q : Nat) (r : QRun) : (s.setQRun q r).fwait = s.fwait := rfl
@[simp] theorem State.setQRun_serials (q : Nat) (r : QRun) : (s.setQRun q r).serials = s.serials := rfl
@[simp] theorem State.setQRun_jobs (q : Nat) (r : QRun) : (s.setQRun q r).jobs = s.jobs := rfl
@[simp] theorem State.setQRun_graphs (q : Nat) (r : QRun) : (s.setQRun q r).graphs = s.graphs := rfl
@[simp] theorem State.setQRun_cards (q : Nat) (r : QRun) : (s.setQRun q r).cards = s.cards := rfl
@[simp] theorem State.setQRun_nextCard (q : Nat) (r : QRun) : (s.setQRun q r).nextCard = s.nextCard := rfl
@[simp] theorem State.setQRun_pages (q : Nat) (r : QRun) : (s.setQRun q r).pages = s.pages := rfl
@[simp] theorem State.setQRun_ccache (q : Nat) (r : QRun) : (s.setQRun q r).ccache = s.ccache := rfl
@[simp] theorem State.setQRun_misls (q : Nat) (r : QRun) : (s.setQRun q r).misls = s.misls := rfl
@[simp] theorem State.setQRun_sisls (q : Nat) (r : QRun) : (s.setQRun q r).sisls = s.sisls := rfl
@[simp] theorem State.setQRun_frames (q : Nat) (r : QRun) : (s.setQRun q r).frames = s.frames := rfl
@[simp] theorem State.setQRun_hostFrames (q : Nat) (r : QRun) : (s.setQRun q r).hostFrames = s.hostFrames := rfl
@[simp] theorem State.setQRun_cinvs (q : Nat) (r : QRun) : (s.setQRun q r).cinvs = s.cinvs := rfl
@[simp] theorem State.setQRun_downDies (q : Nat) (r : QRun) : (s.setQRun q r).downDies = s.downDies := rfl
@[simp] theorem State.setQRun_tabs (q : Nat) (r : QRun) : (s.setQRun q r).tabs = s.tabs := rfl
@[simp] theorem State.setQRun_grants (q : Nat) (r : QRun) : (s.setQRun q r).grants = s.grants := rfl
@[simp] theorem State.setQRun_dbgs (q : Nat) (r : QRun) : (s.setQRun q r).dbgs = s.dbgs := rfl
@[simp] theorem State.setQRun_acctSeq (q : Nat) (r : QRun) : (s.setQRun q r).acctSeq = s.acctSeq := rfl
@[simp] theorem State.setQRun_groups (q : Nat) (r : QRun) : (s.setQRun q r).groups = s.groups := rfl
@[simp] theorem State.setQRun_groupNo (q : Nat) (r : QRun) : (s.setQRun q r).groupNo = s.groupNo := rfl
@[simp] theorem State.setQRun_groupEnds (q : Nat) (r : QRun) : (s.setQRun q r).groupEnds = s.groupEnds := rfl
@[simp] theorem State.setQRun_saved (q : Nat) (r : QRun) : (s.setQRun q r).saved = s.saved := rfl
@[simp] theorem State.setQRun_meas0 (q : Nat) (r : QRun) : (s.setQRun q r).meas0 = s.meas0 := rfl
@[simp] theorem State.setQRun_meas1 (q : Nat) (r : QRun) : (s.setQRun q r).meas1 = s.meas1 := rfl
@[simp] theorem State.setQRun_queues (q : Nat) (r : QRun) : (s.setQRun q r).queues = tabPut s.queues q r := rfl
@[simp] theorem State.setQRun_fe (q : Nat) (r : QRun) : (s.setQRun q r).fe = s.fe := rfl
@[simp] theorem State.setQRun_stalls (q : Nat) (r : QRun) : (s.setQRun q r).stalls = s.stalls := rfl
@[simp] theorem State.setQRun_ladders (q : Nat) (r : QRun) : (s.setQRun q r).ladders = s.ladders := rfl
@[simp] theorem State.setQRun_islSaves (q : Nat) (r : QRun) : (s.setQRun q r).islSaves = s.islSaves := rfl
@[simp] theorem State.setQRun_vinvs (q : Nat) (r : QRun) : (s.setQRun q r).vinvs = s.vinvs := rfl
@[simp] theorem State.setQRun_ccs (q : Nat) (r : QRun) : (s.setQRun q r).ccs = s.ccs := rfl
@[simp] theorem State.setQRun_gens (q : Nat) (r : QRun) : (s.setQRun q r).gens = s.gens := rfl
@[simp] theorem State.setQRun_pairs (q : Nat) (r : QRun) : (s.setQRun q r).pairs = s.pairs := rfl
@[simp] theorem State.setQRun_links (q : Nat) (r : QRun) : (s.setQRun q r).links = s.links := rfl
@[simp] theorem State.setQRun_tickAt (q : Nat) (r : QRun) : (s.setQRun q r).tickAt = s.tickAt := rfl
@[simp] theorem State.setQRun_tests (q : Nat) (r : QRun) : (s.setQRun q r).tests = s.tests := rfl
@[simp] theorem State.setQRun_testInfo (q : Nat) (r : QRun) : (s.setQRun q r).testInfo = s.testInfo := rfl
@[simp] theorem State.setQRun_testFails (q : Nat) (r : QRun) : (s.setQRun q r).testFails = s.testFails := rfl
@[simp] theorem State.setQRun_boot (q : Nat) (r : QRun) : (s.setQRun q r).boot = s.boot := rfl
@[simp] theorem State.setQRun_svn (q : Nat) (r : QRun) : (s.setQRun q r).svn = s.svn := rfl
@[simp] theorem State.setQRun_firmware (q : Nat) (r : QRun) : (s.setQRun q r).firmware = s.firmware := rfl
@[simp] theorem State.setQRun_loader (q : Nat) (r : QRun) : (s.setQRun q r).loader = s.loader := rfl
@[simp] theorem State.setQRun_record (q : Nat) (r : QRun) : (s.setQRun q r).record = s.record := rfl
@[simp] theorem State.setQRun_flash (q : Nat) (r : QRun) : (s.setQRun q r).flash = s.flash := rfl
@[simp] theorem State.setQRun_recLog (q : Nat) (r : QRun) : (s.setQRun q r).recLog = s.recLog := rfl
@[simp] theorem State.setQRun_sigsUsed (q : Nat) (r : QRun) : (s.setQRun q r).sigsUsed = s.sigsUsed := rfl
@[simp] theorem State.setQRun_ethDown (q : Nat) (r : QRun) : (s.setQRun q r).ethDown = s.ethDown := rfl
@[simp] theorem State.setQRun_storageUp (q : Nat) (r : QRun) : (s.setQRun q r).storageUp = s.storageUp := rfl
@[simp] theorem State.setQRun_trigs (q : Nat) (r : QRun) : (s.setQRun q r).trigs = s.trigs := rfl
@[simp] theorem State.setQRun_ccDead (q : Nat) (r : QRun) : (s.setQRun q r).ccDead = s.ccDead := rfl
@[simp] theorem State.setQRun_owed (q : Nat) (r : QRun) : (s.setQRun q r).owed = s.owed := rfl
@[simp] theorem State.setQRun_placed (q : Nat) (r : QRun) : (s.setQRun q r).placed = s.placed := rfl
@[simp] theorem State.setQRun_busData (q : Nat) (r : QRun) : (s.setQRun q r).busData = s.busData := rfl
@[simp] theorem State.setQRun_busErr (q : Nat) (r : QRun) : (s.setQRun q r).busErr = s.busErr := rfl
@[simp] theorem State.setQRun_busy (q : Nat) (r : QRun) : (s.setQRun q r).busy = s.busy := rfl
@[simp] theorem State.setQRun_holds (q : Nat) (r : QRun) : (s.setQRun q r).holds = s.holds := rfl
@[simp] theorem State.setQRun_weak (q : Nat) (r : QRun) : (s.setQRun q r).weak = s.weak := rfl
@[simp] theorem State.setQRun_eccLog (q : Nat) (r : QRun) : (s.setQRun q r).eccLog = s.eccLog := rfl

/-! ### Reads after these updates -/

@[simp] theorem State.pe_setPe (k j : Nat) (p : Pe) : (s.setPe k p).pe j = if j = k then p else s.pe j := tabGet_tabPut ..

@[simp] theorem State.regionOn_setRegion (c h d : Nat) (r : Region) : (s.setRegion c h d r).regionOn c h d = r := by
  simp [State.regionOn]

@[simp] theorem State.task_setTask (k j : Nat) (t : Task) : (s.setTask k t).task j = if j = k then t else s.task j := tabGet_tabPut ..

@[simp] theorem State.tile_setTile (k j : Nat) (t : MemTile) : (s.setTile k t).tile j = if j = k then t else s.tile j :=
  tabGet_tabPut ..

@[simp] theorem State.curRegion_setCurRegion (r : Region) : (s.setCurRegion r).curRegion = r := by
  simp [State.curRegion, State.setCurRegion, State.regionOn]

@[simp] theorem State.curTask_setTask (t : Task) : (s.setTask s.cur.task t).curTask = t := by simp [State.curTask]

end Sys2Proof.Machine
end

