-- ==== Sys2Proof/Laws/Ops.lean ====
section
/-! SUPPORT. What each shared operation can do, once for all who cite it. -/

namespace Sys2Proof.Machine

variable (s : State) (h : Hd) (srcs : List Src) (ext : Nat) (check : State → List Val → Option Nat)
  (waits : State → List Val → Bool) (body : State → List Val → Bool → State)

/-! ### Operands -/

theorem State.operands_fire (hp : s.cur.phase = .fire) : s.operands h.place.form srcs = s.vals h srcs := by
  simp only [State.operands, hp, State.vals]
  cases hf : h.place.form
  · exact List.map_congr_left fun a _ => by simp [State.src, hf]
  · exact List.map_congr_left fun a _ => by simp [State.src, hf]

@[simp] theorem opn_zero (v : Val) (l : List Val) : opn (v :: l) 0 = v := rfl

@[simp] theorem opn_one (v w : Val) (l : List Val) : opn (v :: w :: l) 1 = w := rfl

@[simp] theorem opn_two (u v w : Val) (l : List Val) : opn (u :: v :: w :: l) 2 = w := rfl

@[simp] theorem opn_nil (k : Nat) : opn [] k = Val.zero := rfl

@[simp] theorem State.vals_nil : s.vals h [] = [] := rfl

@[simp] theorem State.vals_one (a : Src) : s.vals h [a] = [s.src h [a] a] := rfl

@[simp] theorem State.vals_two (a b : Src) : s.vals h [a, b] = [s.src h [a, b] a, s.src h [a, b] b] := rfl

@[simp] theorem State.vals_three (a b c : Src) :
    s.vals h [a, b, c] = [s.src h [a, b, c] a, s.src h [a, b, c] b, s.src h [a, b, c] c] := rfl

/-! ### `act` -/

/-- A later phase goes straight to the body. -/
theorem State.act_later (hp : s.cur.phase ≠ .fire) : s.act h srcs ext check waits body = body s s.cur.ops s.cur.pois := by
  simp only [State.act]

/-- A nulled instruction or one whose predicate does not hold has no effect beyond counting as fired. -/
theorem State.act_off (hp : s.cur.phase = .fire) (ho : s.isNulled h.place.form = true ∨ (s.fires h).1 = false) :
    s.act h srcs ext check waits body = s.offPred h.place.form := by
  simp only [State.act, hp]
  rcases ho with ho | ho
  · rw [if_pos ho]
  · split
    · rfl
    · rw [if_pos (by simp [ho])]

/-- A failing operand check takes its fault. -/
theorem State.act_raise (hf : s.inFull h) (c : Nat) (hc : check s (s.vals h srcs) = some c) :
    s.act h srcs ext check waits body = s.raise h.place.form c := by
  obtain ⟨hp, hn, ho⟩ := hf
  simp only [State.act, hp, hn, ho, s.operands_fire h srcs hp, hc]
  simp

/-- A wait that is not over holds the instruction. -/
theorem State.act_hold (hf : s.inFull h) (hc : check s (s.vals h srcs) = none) (he : s.roomFor h.place.form ext)
    (hw : waits s (s.vals h srcs) = true) : s.act h srcs ext check waits body = s.hold := by
  obtain ⟨hp, hn, ho⟩ := hf
  simp only [State.act, hp, hn, ho, s.operands_fire h srcs hp, hc, hw]
  rw [if_neg (by simp), if_neg (by simp), if_neg (by rcases he with he | he <;> omega), if_pos trivial]

/-- An instruction whose checks pass and whose wait is over takes its effect. -/
theorem State.act_body (hf : s.inFull h) (hc : check s (s.vals h srcs) = none) (he : s.roomFor h.place.form ext)
    (hw : waits s (s.vals h srcs) = false) :
    s.act h srcs ext check waits body = body (s.markFired h.place.form) (s.vals h srcs) (s.lent h) := by
  obtain ⟨hp, hn, ho⟩ := hf
  simp only [State.act, hp, hn, ho, s.operands_fire h srcs hp, hc, hw]
  rw [if_neg (by simp), if_neg (by simp), if_neg (by rcases he with he | he <;> omega), if_neg (by simp)]
  rfl

/-- A computation. -/
theorem State.compute_body (hf : s.inFull h) (lat : Nat) (f : State → List Val → Bool → ResW) :
    s.compute h srcs lat f = (s.markFired h.place.form).complete h.place.form lat true
      (f (s.markFired h.place.form) (s.vals h srcs) (s.lent h)) :=
  s.act_body h srcs 0 _ _ _ hf rfl (.inl rfl) rfl

/-! ### What noting an instruction as fired leaves -/

@[simp] theorem State.markFired_timed : s.markFired .timed = s := rfl

@[simp] theorem State.modBlk_cur (f : Blk → Blk) : (s.modBlk f).cur = s.cur := by
  simp only [State.modBlk]; split <;> rfl

@[simp] theorem State.modBlk_regions (f : Blk → Blk) : (s.modBlk f).regions = s.regions := by
  simp only [State.modBlk]; split <;> rfl

@[simp] theorem State.modBlk_pes (f : Blk → Blk) : (s.modBlk f).pes = s.pes := by
  simp only [State.modBlk]; split <;> rfl

@[simp] theorem State.modBlk_stc (f : Blk → Blk) : (s.modBlk f).stc = s.stc := by
  simp only [State.modBlk]; split <;> rfl

@[simp] theorem State.modBlk_cycle (f : Blk → Blk) : (s.modBlk f).cycle = s.cycle := by
  simp only [State.modBlk]; split <;> rfl

/-- The issuing block after a change of it. -/
theorem State.curBlk_modBlk (f : Blk → Blk) : (s.modBlk f).curBlk = if s.curTask.blk.isSome then f s.curBlk else s.curBlk := by
  simp only [State.modBlk, State.curBlk]
  cases hb : s.curTask.blk with
  | none => simp [hb]
  | some b => simp

@[simp] theorem State.markFired_cur (m : Form) : (s.markFired m).cur = s.cur := by cases m <;> simp [State.markFired]

@[simp] theorem State.markFired_regions (m : Form) : (s.markFired m).regions = s.regions := by cases m <;> simp [State.markFired]

@[simp] theorem State.markFired_pes (m : Form) : (s.markFired m).pes = s.pes := by cases m <;> simp [State.markFired]

theorem State.markFired_curBlk : (s.markFired .block).curBlk =
    if s.curTask.blk.isSome then { s.curBlk with fired := setIns s.curBlk.fired s.cur.idx } else s.curBlk :=
  s.curBlk_modBlk _

/-- Noting an instruction as fired changes no predicate that it reads. -/
@[simp] theorem State.markFired_readPred (m : Form) (p : Nat) : (s.markFired m).readPred m p = s.readPred m p := by
  cases m
  · rfl
  · simp only [State.readPred, State.markFired_cur, State.markFired_curBlk]
    split
    · rfl
    · split <;> rfl

@[simp] theorem State.markFired_rmOf (m : Form) : (s.markFired m).rmOf m = s.rmOf m := by cases m <;> rfl

/-! ### Sends and queries -/

theorem State.expect_cur (m : Form) (lat n : Nat) : (s.expect m lat n).cur = s.cur := by
  simp only [State.expect]
  cases m
  · dsimp only
    split <;> rfl
  · exact s.modBlk_cur _

theorem State.expect_reqs_cinvs (m : Form) (lat n : Nat) :
    (s.expect m lat n).reqs = s.reqs ∧ (s.expect m lat n).cinvs = s.cinvs := by
  simp only [State.expect]
  cases m
  · dsimp only
    split <;> exact ⟨rfl, rfl⟩
  · simp only [State.modBlk]
    split <;> exact ⟨rfl, rfl⟩

/-- The region's cycle is none of what it changes. -/
theorem State.expect_curRegion_t (lat n : Nat) : (s.expect .timed lat n).curRegion.t = s.curRegion.t := by
  simp only [State.expect]
  split
  · rfl
  · simp [State.addPend, State.setCurRegion, State.curRegion, State.setRegion, State.regionOn, tabGet_tabPut]

/-- What an agent has not done yet depends on who it is, when it fired and its tag. -/
theorem State.opsOut_congr (s : State) (a b : Issuer) (ht : a.task = b.task) (hc : a.ctx = b.ctx) (hh : a.handle = b.handle)
    (hd : a.die = b.die) (hf : a.fired = b.fired) (hg : a.tag = b.tag) : s.opsOut a = s.opsOut b := by
  simp only [State.opsOut, State.reqsOut, Region.accOut, Issuer.earlier, Issuer.sameAgent, ht, hc, hh, hd, hf, hg]

theorem State.opsOut_cur (s : State) (c w : Issuer) : { s with cur := c }.opsOut w = s.opsOut w := rfl

/-- A send that is performed takes its effect from the state that `sends` names. -/
theorem State.sendF_body (s s' : State) (i : Instr) (h : Hd) (srcs : List Src) (ext lat : Nat)
    (check : State → List Val → Option Nat) (waits : State → List Val → Bool) (perform : State → List Val → Bool → State)
    (latF : State → List Val → Nat) (ops : List Val) (pp : Bool) (hs : s.sends h srcs lat ext ops pp s')
    (hl : latF s ops = lat) (hc : h.place.form = .timed → check s ops = none) (hw : waits s ops = false) :
    s.sendF i h srcs ext false check waits perform latF = perform s' ops pp := by
  rw [State.sendF]
  rcases hs with ⟨hm, hf, hr, rfl, rfl, rfl⟩ | ⟨⟨hm, hp⟩, rfl, rfl, rfl⟩
  · rw [State.act_body s h srcs _ _ _ _ hf (hc hm) (by simpa [hm] using hr) (by simp [hw])]
    simp [hm, hf.1, hl, State.sent]
  · rw [State.act_later _ _ _ _ _ _ _ (by simp [hp])]
    simp [hm, hp, hw]

/-- The same of a release. -/
theorem State.sendF_release (s s' : State) (i : Instr) (h : Hd) (srcs : List Src) (ext lat : Nat)
    (check : State → List Val → Option Nat) (waits : State → List Val → Bool) (perform : State → List Val → Bool → State)
    (latF : State → List Val → Nat) (ops : List Val) (pp : Bool) (hs : s.releases h srcs lat ext ops pp s')
    (hl : latF s ops = lat) (hc : h.place.form = .timed → check s ops = none) (hw : waits s ops = false) :
    s.sendF i h srcs ext true check waits perform latF = perform s' ops pp := by
  obtain ⟨hs, hfd, hd⟩ := hs
  rw [State.sendF]
  rcases hs with ⟨hm, hf, hr, rfl, rfl, rfl⟩ | ⟨⟨hm, hp⟩, rfl, rfl, rfl⟩
  · rw [State.act_body s h srcs _ _ _ _ hf (hc hm) (by simpa [hm] using hr) (by simp [hw])]
    have hc2 : ((s.tagged.expect .timed lat ext).opsOut
        (s.tagged.expect .timed lat ext).cur) = false := by
      rw [← hd]
      simp only [State.sent]
      rw [State.opsOut_cur]
      refine State.opsOut_congr _ _ _ (by simp [State.carry]) (by simp [State.carry]) (by simp [State.carry]) (by simp [State.carry]) ?_
        (by simp [State.carry])
      have ht : s.tagged.cur.phase = .fire := hf.1
      simp only [State.carry, State.firedAt, State.expect_cur, State.expect_curRegion_t, ht]
      exact hfd hm
    simp only [hm, State.markFired_timed, hf.1, hl, hc2]
    simp [State.sent]
  · rw [State.act_later _ _ _ _ _ _ _ (by simp [hp])]
    simp only [State.drained] at hd
    simp [hm, hp, hw, hd]

/-- A query that is performed takes its effect from the state that `queried` names. -/
theorem State.queryF_body (s s' : State) (h : Hd) (srcs : List Src) (ext lat : Nat) (check : State → List Val → Option Nat)
    (waits : State → List Val → Bool) (perform : State → List Val → Bool → State) (latF : State → List Val → Nat) (ops : List Val)
    (pp : Bool) (hs : s.queried h srcs lat ext ops pp s') (hl : latF (s.markFired h.place.form) ops = lat) (hc : check s ops = none)
    (hw : waits s ops = false) : s.queryF h srcs ext check waits perform latF = perform s' ops pp := by
  obtain ⟨hf, hr, rfl, rfl, rfl⟩ := hs
  rw [State.queryF, State.act_body s h srcs _ _ _ _ hf hc hr hw]
  simp [hl, State.sent]

/-- A send that was translated at its firing. -/
theorem State.sendAt_body (s : State) (i : Instr) (h : Hd) (srcs : List Src) (check : State → List Val → Option Nat)
    (lat : State → List Val → Nat) (perform : State → Nat → List Val → Bool → State) (ops : List Val) (key : Nat) (pp : Bool)
    (hs : s.sentTo h ops key pp) : s.sendAt i h srcs check lat perform = perform s key ops pp := by
  obtain ⟨hp, ho, hk, rfl, hd⟩ := hs
  have hp' : s.cur.phase ≠ .fire := by rw [hp]; cases h.place.form <;> simp
  simp only [State.drained] at hd
  rw [State.sendAt, State.act_later _ _ _ _ _ _ _ hp', ho]
  have hk' : key % 18446744073709551616 = key := Nat.mod_eq_of_lt (by omega)
  simp [hd, keptAt, Val.clean, hk']

/-! ### Scratch accesses -/

variable (target : List Val → Word) (claim : State → Nat → List Val → Claim) (stays : State → Nat → List Val → Bool)
  (perform : State → Nat → Nat → List Val → Bool → State) (fired : State → Nat → List Val → Bool → State)

@[simp] theorem State.markFired_region (m : Form) (c k : Nat) : (s.markFired m).region c k = s.region c k := by
  simp only [State.region, State.dieOf, State.regionOn, State.markFired_regions]

@[simp] theorem State.markFired_sTile (m : Form) (a : Word) : (s.markFired m).sTile m a = s.sTile m a := by
  cases m
  · rfl
  · simp only [State.sTile, State.sRegion, State.markFired_region, State.markFired_cur]

@[simp] theorem State.markFired_sAway (m : Form) (a : Word) : (s.markFired m).sAway m a = s.sAway m a := by
  cases m
  · rfl
  · simp only [State.sAway, State.markFired_region, State.markFired_cur]

/-- A scratch access that fires: in its time at its own page, as a request to another, kept for the commit where a block stores
(R121, R66). -/
theorem State.scratch_fire (i : Instr) (n : Nat) (res store : Bool) (tile : Nat) (hf : s.inFull h)
    (hT : s.sTile h.place.form (target (s.vals h srcs)) = .ok tile) (hA : s.sAway h.place.form (target (s.vals h srcs)) = false)
    (hc : check s (s.vals h srcs) = none) (hr : h.place.form = .block → store = false → s.roomFor .block n) :
    s.scratch i h srcs n res store target check claim stays perform fired =
      let ops := s.vals h srcs
      let pp := s.lent h
      let after (t : State) : State := fired t tile ops pp
      match h.place.form with
      | .timed =>
        let dist := s.distTo tile
        if s.samePage tile then
          after (s.addAcc (s.carry .perform ops pp dist) i tile (s.curRegion.t + dist + 2) (claim s (sOff (target ops)) ops))
        else if s.extOver .timed n then after (s.raise .timed ftTime)
        else
          let s1 := s.tagged
          let s2 := if res then s1.addPend (s1.firedAt + 2 * dist + 4) false true false [.waiting n] else s1
          after (s2.request (.tile tile) (s2.carry .perform ops pp dist) i (!res) 0 (s.sHandle .timed (target ops)))
      | .block =>
        let s0 := s.markFired .block
        if store then after (s0.deferStore h i ops pp)
        else
          let s2 := s0.tagged.expect .block 0 n
          after (s2.request (.tile tile) (s2.carry .perform ops pp 0) i false 0 (s.sHandle .block (target ops))) := by
  have hp := hf.1
  cases hm : h.place.form
  · rw [hm] at hT hA
    simp only [State.scratch, hm]
    rw [State.act_body _ _ _ _ _ _ _ hf (by simp [State.sCheck, hA, hT, hc]) (.inl (by simp)) (by simp [hA])]
    simp only [hm, State.markFired_timed, hA, hT, hp]
    rw [if_neg (by simp)]
    by_cases h1 : s.samePage tile = true
    · simp only [h1, if_true]
    · by_cases h2 : s.extOver .timed n = true <;> simp only [h1, h2, if_true] <;> rfl
  · rw [hm] at hT hA
    simp only [State.scratch, hm]
    rw [State.act_body _ _ _ _ _ _ _ hf (by simp [State.sCheck, hA, hT, hc]) _ (by simp [hA])]
    · simp only [hm, State.markFired_sTile, State.markFired_sAway, hA, hT, State.markFired_cur, hp]
      cases store <;> rfl
    · cases store
      · simpa [hm] using hr hm rfl
      · exact .inl (by simp)

/-- A scratch access at its tile, once its port and plane are free (R121, R127). -/
theorem State.scratch_later (s' : State) (i : Instr) (n : Nat) (res store : Bool) (tile : Nat) (first : State → Bool)
    (hp : s.cur.phase ≠ .fire) (hT : s.sTile h.place.form (target s.cur.ops) = .ok tile)
    (hA : s.sAway h.place.form (target s.cur.ops) = false) (hw : stays s tile s.cur.ops = false)
    (hs : s.portTaken h.place.form res tile
      (s.claimOf { at_ := 0, who := s.cur, i := i, tile := tile, claim := claim s (sOff (target s.cur.ops)) s.cur.ops }) s') :
    s.scratch i h srcs n res store target check claim stays perform fired first
      = perform s' tile (sOff (target s.cur.ops)) s.cur.ops s.cur.pois := by
  simp only [State.scratch]
  rw [State.act_later _ _ _ _ _ _ _ hp]
  simp only [State.portTaken] at hs
  cases hq : s.cur.phase
  · exact absurd hq hp
  all_goals cases hu : s.untimed h.place.form res <;> simp_all

/-- Taking a port changes what is claimed of the tile and nothing else. -/
theorem State.takePort_frame (tile : Nat) (c : Claim) (half : Bool) :
    s.takePort tile c half = { s with busy := (s.takePort tile c half).busy, holds := (s.takePort tile c half).holds } := by
  simp only [State.takePort]
  split
  · rfl
  · split
    · split <;> rfl
    · rfl

/-! ### Single-bit errors -/

/-- Counting a corrected error changes `ECCCNT` and the page's log and nothing else. -/
theorem State.countEcc_frame (sp k : Nat) :
    s.countEcc sp k = { s with dcsr := (s.countEcc sp k).dcsr, eccLog := (s.countEcc sp k).eccLog } := by
  simp only [State.countEcc, State.setDcsr]
  split
  · split <;> rfl
  · split <;> rfl

theorem foldl_ecc_frame (f : State → Nat → State)
    (hf : ∀ s w, f s w = { s with weak := (f s w).weak, dcsr := (f s w).dcsr, eccLog := (f s w).eccLog }) (l : List Nat) :
    l.foldl f s = { s with weak := (l.foldl f s).weak, dcsr := (l.foldl f s).dcsr, eccLog := (l.foldl f s).eccLog } := by
  induction l generalizing s with
  | nil => rfl
  | cons w r ih =>
    rw [List.foldl_cons]
    refine (ih (f s w)).trans ?_
    generalize (r.foldl f (f s w)).weak = x, (r.foldl f (f s w)).dcsr = y, (r.foldl f (f s w)).eccLog = z
    rw [hf]

/-- A read that corrects changes the marks of single-bit errors, their counts and the log, and no stored byte. -/
theorem State.correctIn_frame (sp : Nat) (hit : Nat → Bool) :
    s.correctIn sp hit = { s with weak := (s.correctIn sp hit).weak, dcsr := (s.correctIn sp hit).dcsr,
                                  eccLog := (s.correctIn sp hit).eccLog } := by
  simp only [State.correctIn]
  split
  · rfl
  · exact foldl_ecc_frame s _ (fun s w => by rw [State.countEcc_frame]) _

theorem State.correct_frame (sp a n : Nat) :
    s.correct sp a n = { s with weak := (s.correct sp a n).weak, dcsr := (s.correct sp a n).dcsr, eccLog := (s.correct sp a n).eccLog } :=
  s.correctIn_frame sp _

/-- A store in device memory changes its bytes and the marks of single-bit errors. -/
theorem State.dStore_frame (pa : Nat) (bs : List Byte) (p : Bool) :
    s.dStore pa bs p = { s with dram := (s.dStore pa bs p).dram, weak := (s.dStore pa bs p).weak } := by
  simp only [State.dStore, State.renew, State.renewIn]
  split
  · rfl
  · split <;> rfl

/-! ### Memories that errors and saves change -/

/-- An error of stored bits keeps the canonical form. -/
theorem Mem.wf_break (x : Mem) (g k : Nat) (m : Word) (hx : x.wf = true) : (x.break g k m).wf = true := by
  have hf : (x.flip (k * g) (if g < 8 then g else 8) m).wf = true := Mem.wf_putBytes _ x _ hx
  rw [Mem.wf_iff] at hf ⊢
  exact ⟨hf.1, keysRise_setIns _ _ (Mem.wf_iff x |>.1 hx).2⟩

/-- A memory whose tiles are renumbered is in canonical form, whatever it was before. -/
theorem moveMem_wf (mv : Nat → Nat) (m : Mem) : (moveMem mv m).wf = true :=
  (Mem.wf_iff _).2 ⟨cellsWf_foldl _ Prod.snd m.cells [] ((Mem.wf_iff _).1 Mem.wf_empty).1, keysRise_foldl_setIns _ m.pois [] rfl⟩

/-- A frame put on a region's pages keeps the canonical form. -/
theorem State.putFrame_mem_wf (f : Frame) (r : Region) (hm : s.mem.wf = true) : (s.putFrame f r).mem.wf = true := by
  rw [Mem.wf_iff] at hm ⊢
  exact ⟨cellsWf_foldl Prod.fst Prod.snd _ _ (cellsWf_filter _ _ hm.1), keysRise_foldl_setIns id _ _ (keysRise_filter _ _ hm.2)⟩

end Sys2Proof.Machine
end

