-- ==== Sys2Proof/Laws/PerInstr.lean ====
section
/-! SUPPORT. What holds of every constructor of `Instr` as syntax: a word instruction has fields, a step of the device or an act of the
host has none, and a well-formed word instruction has a word. -/

namespace Sys2Proof.Laws.Fields

/-- An instruction has fields exactly when it has a head, and if it is well-formed with a head it has a word. -/
def Statement (i : Instr) : Prop :=
  i.fields.isSome = i.hd.isSome ∧ (i.wf = true → i.hd.isSome = true → (encode i).isSome = true)

theorem of_fields {i : Instr} (h : i.fields.isSome = i.hd.isSome) : Statement i :=
  ⟨h, fun hw hh => by simp [encode, hw, h, hh]⟩

theorem nop (h : Hd) : Statement (.nop h) := of_fields rfl

theorem add (h : Hd) (d : Dst) (a : Src) (b : Src) : Statement (.add h d a b) := of_fields rfl

theorem addi (h : Hd) (d : Dst) (a : Src) (imm : BitVec 16) : Statement (.addi h d a imm) := of_fields rfl

theorem sub (h : Hd) (d : Dst) (a : Src) (b : Src) : Statement (.sub h d a b) := of_fields rfl

theorem adc (h : Hd) (d : Dst) (a : Src) (b : Src) (cp : BitVec 3) : Statement (.adc h d a b cp) := of_fields rfl

theorem sbb (h : Hd) (d : Dst) (a : Src) (b : Src) (cp : BitVec 3) : Statement (.sbb h d a b cp) := of_fields rfl

theorem mul (h : Hd) (d : Dst) (a : Src) (b : Src) : Statement (.mul h d a b) := of_fields rfl

theorem mulh (h : Hd) (d : Dst) (a : Src) (b : Src) : Statement (.mulh h d a b) := of_fields rfl

theorem mulhu (h : Hd) (d : Dst) (a : Src) (b : Src) : Statement (.mulhu h d a b) := of_fields rfl

theorem mad (h : Hd) (d : Dst) (a : Src) (b : Src) (c : Src) : Statement (.mad h d a b c) := of_fields rfl

theorem div (h : Hd) (d : Dst) (a : Src) (b : Src) : Statement (.div h d a b) := of_fields rfl

theorem divu (h : Hd) (d : Dst) (a : Src) (b : Src) : Statement (.divu h d a b) := of_fields rfl

theorem rem (h : Hd) (d : Dst) (a : Src) (b : Src) : Statement (.rem h d a b) := of_fields rfl

theorem remu (h : Hd) (d : Dst) (a : Src) (b : Src) : Statement (.remu h d a b) := of_fields rfl

theorem min (h : Hd) (d : Dst) (a : Src) (b : Src) : Statement (.min h d a b) := of_fields rfl

theorem max (h : Hd) (d : Dst) (a : Src) (b : Src) : Statement (.max h d a b) := of_fields rfl

theorem minu (h : Hd) (d : Dst) (a : Src) (b : Src) : Statement (.minu h d a b) := of_fields rfl

theorem maxu (h : Hd) (d : Dst) (a : Src) (b : Src) : Statement (.maxu h d a b) := of_fields rfl

theorem abs (h : Hd) (d : Dst) (a : Src) : Statement (.abs h d a) := of_fields rfl

theorem and (h : Hd) (d : Dst) (a : Src) (b : Src) : Statement (.and h d a b) := of_fields rfl

theorem andi (h : Hd) (d : Dst) (a : Src) (imm : BitVec 16) : Statement (.andi h d a imm) := of_fields rfl

theorem or (h : Hd) (d : Dst) (a : Src) (b : Src) : Statement (.or h d a b) := of_fields rfl

theorem ori (h : Hd) (d : Dst) (a : Src) (imm : BitVec 16) : Statement (.ori h d a imm) := of_fields rfl

theorem xor (h : Hd) (d : Dst) (a : Src) (b : Src) : Statement (.xor h d a b) := of_fields rfl

theorem xori (h : Hd) (d : Dst) (a : Src) (imm : BitVec 16) : Statement (.xori h d a imm) := of_fields rfl

theorem andn (h : Hd) (d : Dst) (a : Src) (b : Src) : Statement (.andn h d a b) := of_fields rfl

theorem shl (h : Hd) (d : Dst) (a : Src) (b : Src) : Statement (.shl h d a b) := of_fields rfl

theorem shli (h : Hd) (d : Dst) (a : Src) (imm : BitVec 6) : Statement (.shli h d a imm) := of_fields rfl

theorem shr (h : Hd) (d : Dst) (a : Src) (b : Src) : Statement (.shr h d a b) := of_fields rfl

theorem shri (h : Hd) (d : Dst) (a : Src) (imm : BitVec 6) : Statement (.shri h d a imm) := of_fields rfl

theorem sar (h : Hd) (d : Dst) (a : Src) (b : Src) : Statement (.sar h d a b) := of_fields rfl

theorem sari (h : Hd) (d : Dst) (a : Src) (imm : BitVec 6) : Statement (.sari h d a imm) := of_fields rfl

theorem rol (h : Hd) (d : Dst) (a : Src) (b : Src) : Statement (.rol h d a b) := of_fields rfl

theorem clz (h : Hd) (d : Dst) (a : Src) : Statement (.clz h d a) := of_fields rfl

theorem ctz (h : Hd) (d : Dst) (a : Src) : Statement (.ctz h d a) := of_fields rfl

theorem popc (h : Hd) (d : Dst) (a : Src) : Statement (.popc h d a) := of_fields rfl

theorem brev (h : Hd) (d : Dst) (a : Src) : Statement (.brev h d a) := of_fields rfl

theorem bfx (h : Hd) (d : Dst) (a : Src) (b : Src) : Statement (.bfx h d a b) := of_fields rfl

theorem bfi (h : Hd) (d : Dst) (a : Src) (b : Src) (c : Src) : Statement (.bfi h d a b c) := of_fields rfl

theorem sext (h : Hd) (d : Dst) (a : Src) (w : BitVec 2) : Statement (.sext h d a w) := of_fields rfl

theorem zext (h : Hd) (d : Dst) (a : Src) (w : BitVec 2) : Statement (.zext h d a w) := of_fields rfl

theorem movh (h : Hd) (d : Dst) (imm : BitVec 16) : Statement (.movh h d imm) := of_fields rfl

theorem movi (h : Hd) (d : Dst) (imm : BitVec 16) : Statement (.movi h d imm) := of_fields rfl

theorem movk (h : Hd) (d : Dst) (a : Src) (imm : BitVec 16) (j : BitVec 2) : Statement (.movk h d a imm j) := of_fields rfl

theorem addsat (h : Hd) (d : Dst) (a : Src) (b : Src) (ty : ITy) : Statement (.addsat h d a b ty) := of_fields rfl

theorem subsat (h : Hd) (d : Dst) (a : Src) (b : Src) (ty : ITy) : Statement (.subsat h d a b ty) := of_fields rfl

theorem cbrng (h : Hd) (d : Dst) (a : Src) (b : Src) : Statement (.cbrng h d a b) := of_fields rfl

theorem crc (h : Hd) (d : Dst) (a : Src) (b : Src) (n : BitVec 2) : Statement (.crc h d a b n) := of_fields rfl

theorem cmp (h : Hd) (pd : BitVec 3) (a : Src) (b : Src) (cond : Cond) : Statement (.cmp h pd a b cond) := of_fields rfl

theorem cmpi (h : Hd) (pd : BitVec 3) (a : Src) (imm : BitVec 16) (cond : Cond) : Statement (.cmpi h pd a imm cond) := of_fields rfl

theorem plog (h : Hd) (pd : BitVec 3) (pa : BitVec 3) (pb : BitVec 3) (f : BitVec 4) : Statement (.plog h pd pa pb f) := of_fields rfl

theorem pmovGet (h : Hd) (d : Dst) : Statement (.pmovGet h d) := of_fields rfl

theorem pmovPut (h : Hd) (a : Src) : Statement (.pmovPut h a) := of_fields rfl

theorem sel (h : Hd) (d : Dst) (a : Src) (b : Src) (neg : Bool) (p : BitVec 3) : Statement (.sel h d a b neg p) := of_fields rfl

theorem mov (h : Hd) (d : Dst) (a : Src) : Statement (.mov h d a) := of_fields rfl

theorem kget (h : Hd) (d : Dst) (n : BitVec 4) (j : BitVec 2) : Statement (.kget h d n j) := of_fields rfl

theorem getid (h : Hd) (d : Dst) (id : BitVec 4) : Statement (.getid h d id) := of_fields rfl

theorem pcnt (h : Hd) (d : Dst) (a : Src) (b : Src) : Statement (.pcnt h d a b) := of_fields rfl

theorem vadd (h : Hd) (d : Dst) (a : Src) (b : Src) (ty : Ty) (x : Bool) : Statement (.vadd h d a b ty x) := of_fields rfl

theorem vsub (h : Hd) (d : Dst) (a : Src) (b : Src) (ty : Ty) (x : Bool) : Statement (.vsub h d a b ty x) := of_fields rfl

theorem vmul (h : Hd) (d : Dst) (a : Src) (b : Src) (ty : Ty) (x : Bool) : Statement (.vmul h d a b ty x) := of_fields rfl

theorem vfma (h : Hd) (d : Dst) (a : Src) (b : Src) (c : Src) (ty : FTy) (x : Bool) : Statement (.vfma h d a b c ty x) := of_fields rfl

theorem vfms (h : Hd) (d : Dst) (a : Src) (b : Src) (c : Src) (ty : FTy) (x : Bool) : Statement (.vfms h d a b c ty x) := of_fields rfl

theorem vfnma (h : Hd) (d : Dst) (a : Src) (b : Src) (c : Src) (ty : FTy) (x : Bool) : Statement (.vfnma h d a b c ty x) := of_fields rfl

theorem vmin (h : Hd) (d : Dst) (a : Src) (b : Src) (ty : Ty) : Statement (.vmin h d a b ty) := of_fields rfl

theorem vmax (h : Hd) (d : Dst) (a : Src) (b : Src) (ty : Ty) : Statement (.vmax h d a b ty) := of_fields rfl

theorem vabs (h : Hd) (d : Dst) (a : Src) (ty : Ty) (x : Bool) : Statement (.vabs h d a ty x) := of_fields rfl

theorem vneg (h : Hd) (d : Dst) (a : Src) (ty : Ty) (x : Bool) : Statement (.vneg h d a ty x) := of_fields rfl

theorem vcmp (h : Hd) (d : Dst) (a : Src) (b : Src) (cond : Cond) (ty : Ty) : Statement (.vcmp h d a b cond ty) := of_fields rfl

theorem vsel (h : Hd) (d : Dst) (a : Src) (b : Src) (c : Src) (ty : Ty) : Statement (.vsel h d a b c ty) := of_fields rfl

theorem vdiv (h : Hd) (d : Dst) (a : Src) (b : Src) (ty : FTy) (x : Bool) : Statement (.vdiv h d a b ty x) := of_fields rfl

theorem vsqrt (h : Hd) (d : Dst) (a : Src) (ty : FTy) (x : Bool) : Statement (.vsqrt h d a ty x) := of_fields rfl

theorem vrcp (h : Hd) (d : Dst) (a : Src) (ty : FTy) (x : Bool) : Statement (.vrcp h d a ty x) := of_fields rfl

theorem vrsq (h : Hd) (d : Dst) (a : Src) (ty : FTy) (x : Bool) : Statement (.vrsq h d a ty x) := of_fields rfl

theorem vexp2 (h : Hd) (d : Dst) (a : Src) (ty : FTy) (x : Bool) : Statement (.vexp2 h d a ty x) := of_fields rfl

theorem vlog2 (h : Hd) (d : Dst) (a : Src) (ty : FTy) (x : Bool) : Statement (.vlog2 h d a ty x) := of_fields rfl

theorem vtanh (h : Hd) (d : Dst) (a : Src) (ty : FTy) (x : Bool) : Statement (.vtanh h d a ty x) := of_fields rfl

theorem vscale (h : Hd) (d : Dst) (a : Src) (b : Src) (ty : FTy) (x : Bool) : Statement (.vscale h d a b ty x) := of_fields rfl

theorem vclamp (h : Hd) (d : Dst) (a : Src) (b : Src) (c : Src) (ty : Ty) : Statement (.vclamp h d a b c ty) := of_fields rfl

theorem vsum (h : Hd) (d : Dst) (a : Src) (ty : Ty) (x : Bool) : Statement (.vsum h d a ty x) := of_fields rfl

theorem vmaxh (h : Hd) (d : Dst) (a : Src) (ty : Ty) : Statement (.vmaxh h d a ty) := of_fields rfl

theorem vdot (h : Hd) (d : Dst) (a : Src) (b : Src) (c : Src) (ty : Ty) (x : Bool) : Statement (.vdot h d a b c ty x) := of_fields rfl

theorem vshuf (h : Hd) (d : Dst) (a : Src) (b : Src) (c : Src) (ty : Ty) : Statement (.vshuf h d a b c ty) := of_fields rfl

theorem vpack (h : Hd) (d : Dst) (a : Src) (b : Src) (ty : ITy) (x : Bool) : Statement (.vpack h d a b ty x) := of_fields rfl

theorem vunpk (h : Hd) (d : Dst) (a : Src) (hi : Bool) (ty : Ty) : Statement (.vunpk h d a hi ty) := of_fields rfl

theorem vbcast (h : Hd) (d : Dst) (a : Src) (j : BitVec 3) (ty : Ty) : Statement (.vbcast h d a j ty) := of_fields rfl

theorem vins (h : Hd) (d : Dst) (a : Src) (b : Src) (j : BitVec 3) (ty : Ty) : Statement (.vins h d a b j ty) := of_fields rfl

theorem vext (h : Hd) (d : Dst) (a : Src) (j : BitVec 3) (ty : Ty) : Statement (.vext h d a j ty) := of_fields rfl

theorem vcvt (h : Hd) (d : Dst) (a : Src) (dst : Ty) (ty : Ty) (x : Bool) : Statement (.vcvt h d a dst ty x) := of_fields rfl

theorem vrnd (h : Hd) (d : Dst) (a : Src) (mode : BitVec 3) (ty : FTy) : Statement (.vrnd h d a mode ty) := of_fields rfl

theorem vand (h : Hd) (d : Dst) (a : Src) (b : Src) (ty : Ty) : Statement (.vand h d a b ty) := of_fields rfl

theorem vor (h : Hd) (d : Dst) (a : Src) (b : Src) (ty : Ty) : Statement (.vor h d a b ty) := of_fields rfl

theorem vxor (h : Hd) (d : Dst) (a : Src) (b : Src) (ty : Ty) : Statement (.vxor h d a b ty) := of_fields rfl

theorem vshl (h : Hd) (d : Dst) (a : Src) (b : Src) (ty : ITy) : Statement (.vshl h d a b ty) := of_fields rfl

theorem vshr (h : Hd) (d : Dst) (a : Src) (b : Src) (ty : ITy) : Statement (.vshr h d a b ty) := of_fields rfl

theorem vsar (h : Hd) (d : Dst) (a : Src) (b : Src) (ty : ITy) : Statement (.vsar h d a b ty) := of_fields rfl

theorem vmulh (h : Hd) (d : Dst) (a : Src) (b : Src) (ty : ITy) : Statement (.vmulh h d a b ty) := of_fields rfl

theorem vavg (h : Hd) (d : Dst) (a : Src) (b : Src) (ty : ITy) : Statement (.vavg h d a b ty) := of_fields rfl

theorem vclass (h : Hd) (d : Dst) (a : Src) (ty : FTy) : Statement (.vclass h d a ty) := of_fields rfl

theorem vcpsgn (h : Hd) (d : Dst) (a : Src) (b : Src) (ty : FTy) : Statement (.vcpsgn h d a b ty) := of_fields rfl

theorem vmad (h : Hd) (d : Dst) (a : Src) (b : Src) (c : Src) (ty : ITy) (x : Bool) : Statement (.vmad h d a b c ty x) := of_fields rfl

theorem vsatn (h : Hd) (d : Dst) (a : Src) (n : BitVec 8) (ty : ITy) : Statement (.vsatn h d a n ty) := of_fields rfl

theorem vminh (h : Hd) (d : Dst) (a : Src) (ty : Ty) : Statement (.vminh h d a ty) := of_fields rfl

theorem vsumw (h : Hd) (d : Dst) (a : Src) (ty : Ty) (x : Bool) : Statement (.vsumw h d a ty x) := of_fields rfl

theorem bexp (h : Hd) (d : Dst) (a : Src) (sf : Sbf) (ty : FTy) (x : Bool) : Statement (.bexp h d a sf ty x) := of_fields rfl

theorem benc (h : Hd) (d : Dst) (a : Src) (b : Src) (sf : Sbf) (ty : FTy) (x : Bool) : Statement (.benc h d a b sf ty x) := of_fields rfl

theorem bdec (h : Hd) (d : Dst) (a : Src) (b : Src) (sf : Sbf) (ty : FTy) (x : Bool) : Statement (.bdec h d a b sf ty x) := of_fields rfl

theorem scput (h : Hd) (o : BitVec 3) (a : Src) (b : Src) (f32 : Bool) : Statement (.scput h o a b f32) := of_fields rfl

theorem scget (h : Hd) (d : Dst) (i : BitVec 3) (f32 : Bool) : Statement (.scget h d i f32) := of_fields rfl

theorem scpair (h : Hd) (d : Dst) (i : BitVec 3) (b : Src) : Statement (.scpair h d i b) := of_fields rfl

theorem hdrw (h : Hd) (d : Dst) (a : Src) (b : Src) : Statement (.hdrw h d a b) := of_fields rfl

theorem hdrrFmt (h : Hd) (d : Dst) (a : Src) : Statement (.hdrrFmt h d a) := of_fields rfl

theorem hdrrScale (h : Hd) (d : Dst) (a : Src) : Statement (.hdrrScale h d a) := of_fields rfl

theorem ld (h : Hd) (d : Dst) (a : Src) (col : Bool) (sz : BitVec 2) (sx : Bool) : Statement (.ld h d a col sz sx) := of_fields rfl

theorem st (h : Hd) (a : Src) (b : Src) (col : Bool) (sz : BitVec 2) : Statement (.st h a b col sz) := of_fields rfl

theorem ldl (h : Hd) (d : LineDst) (a : Src) (col : Bool) : Statement (.ldl h d a col) := of_fields rfl

theorem stl (h : Hd) (a : Src) (b : LineSrc) (col : Bool) : Statement (.stl h a b col) := of_fields rfl

theorem ldt (h : Hd) (d : LineDst) (a : Src) (col : Bool) (half : Bool) : Statement (.ldt h d a col half) := of_fields rfl

theorem ldx (h : Hd) (d : Dst) (a : Src) (b : Src) (col : Bool) (sz : BitVec 2) (sx : Bool) : Statement (.ldx h d a b col sz sx) := of_fields rfl

theorem stx (h : Hd) (v : Src) (a : Src) (b : Src) (col : Bool) (sz : BitVec 2) : Statement (.stx h v a b col sz) := of_fields rfl

theorem ldp (h : Hd) (d : Dst) (a : Src) (sz : BitVec 2) (sx : Bool) : Statement (.ldp h d a sz sx) := of_fields rfl

theorem stp (h : Hd) (a : Src) (b : Src) (sz : BitVec 2) : Statement (.stp h a b sz) := of_fields rfl

theorem pldx (h : Hd) (d : Dst) (a : Src) (b : Src) (sz : BitVec 2) (sx : Bool) : Statement (.pldx h d a b sz sx) := of_fields rfl

theorem pstx (h : Hd) (v : Src) (a : Src) (b : Src) (sz : BitVec 2) : Statement (.pstx h v a b sz) := of_fields rfl

theorem dqld (h : Hd) (a : Src) (sz : BitVec 2) (line : Bool) (q : BitVec 2) : Statement (.dqld h a sz line q) := of_fields rfl

theorem dqst (h : Hd) (a : Src) (b : DqVal) (scp : BitVec 3) (q : BitVec 2) : Statement (.dqst h a b scp q) := of_fields rfl

theorem dqpop (h : Hd) (d : Dst) (q : BitVec 2) : Statement (.dqpop h d q) := of_fields rfl

theorem dqwt (h : Hd) (q : BitVec 2) : Statement (.dqwt h q) := of_fields rfl

theorem vld (h : Hd) (d : Dst) (a : Src) (b : Src) (scp : BitVec 3) : Statement (.vld h d a b scp) := of_fields rfl

theorem vst (h : Hd) (d : Dst) (a : Src) (b : Src) (scp : BitVec 3) : Statement (.vst h d a b scp) := of_fields rfl

theorem vrcl (h : Hd) (a : Src) (b : Src) (scp : BitVec 3) : Statement (.vrcl h a b scp) := of_fields rfl

theorem agcfg (h : Hd) (a : Src) (b : Src) : Statement (.agcfg h a b) := of_fields rfl

theorem agstart (h : Hd) (a : Src) (b : Src) : Statement (.agstart h a b) := of_fields rfl

theorem ageos (h : Hd) (a : Src) : Statement (.ageos h a) := of_fields rfl

theorem qtkt (h : Hd) (d : Dst) (a : Src) (t : Tag) : Statement (.qtkt h d a t) := of_fields rfl

theorem qpush (h : Hd) (a : Src) (b : Src) (t : Tag) (scp : BitVec 2) : Statement (.qpush h a b t scp) := of_fields rfl

theorem qpop (h : Hd) (d : Dst) (a : Src) (scp : BitVec 2) : Statement (.qpop h d a scp) := of_fields rfl

theorem qcnt (h : Hd) (d : Dst) (a : Src) : Statement (.qcnt h d a) := of_fields rfl

theorem aadd (h : Hd) (d : Dst) (a : Src) (b : Src) (w64 : Bool) (scp : BitVec 2) (st : BitVec 3) : Statement (.aadd h d a b w64 scp st) := of_fields rfl

theorem amin (h : Hd) (d : Dst) (a : Src) (b : Src) (w64 : Bool) (scp : BitVec 2) (st : BitVec 3) : Statement (.amin h d a b w64 scp st) := of_fields rfl

theorem amax (h : Hd) (d : Dst) (a : Src) (b : Src) (w64 : Bool) (scp : BitVec 2) (st : BitVec 3) : Statement (.amax h d a b w64 scp st) := of_fields rfl

theorem aminu (h : Hd) (d : Dst) (a : Src) (b : Src) (w64 : Bool) (scp : BitVec 2) (st : BitVec 3) : Statement (.aminu h d a b w64 scp st) := of_fields rfl

theorem amaxu (h : Hd) (d : Dst) (a : Src) (b : Src) (w64 : Bool) (scp : BitVec 2) (st : BitVec 3) : Statement (.amaxu h d a b w64 scp st) := of_fields rfl

theorem aand (h : Hd) (d : Dst) (a : Src) (b : Src) (w64 : Bool) (scp : BitVec 2) (st : BitVec 3) : Statement (.aand h d a b w64 scp st) := of_fields rfl

theorem aor (h : Hd) (d : Dst) (a : Src) (b : Src) (w64 : Bool) (scp : BitVec 2) (st : BitVec 3) : Statement (.aor h d a b w64 scp st) := of_fields rfl

theorem axor (h : Hd) (d : Dst) (a : Src) (b : Src) (w64 : Bool) (scp : BitVec 2) (st : BitVec 3) : Statement (.axor h d a b w64 scp st) := of_fields rfl

theorem aswp (h : Hd) (d : Dst) (a : Src) (b : Src) (w64 : Bool) (scp : BitVec 2) (st : BitVec 3) : Statement (.aswp h d a b w64 scp st) := of_fields rfl

theorem acas (h : Hd) (d : Dst) (a : Src) (b : Src) (w64 : Bool) (scp : BitVec 2) (st : BitVec 3) : Statement (.acas h d a b w64 scp st) := of_fields rfl

theorem afadd (h : Hd) (d : Dst) (a : Src) (b : Src) (scp : BitVec 2) (st : BitVec 3) (x : Bool) : Statement (.afadd h d a b scp st x) := of_fields rfl

theorem ainc (h : Hd) (d : Dst) (a : Src) (b : Src) (w64 : Bool) (scp : BitVec 2) (st : BitVec 3) : Statement (.ainc h d a b w64 scp st) := of_fields rfl

theorem adec (h : Hd) (d : Dst) (a : Src) (b : Src) (w64 : Bool) (scp : BitVec 2) (st : BitVec 3) : Statement (.adec h d a b w64 scp st) := of_fields rfl

theorem redadd (h : Hd) (a : Src) (b : Src) (w64 : Bool) (scp : BitVec 2) (st : BitVec 3) : Statement (.redadd h a b w64 scp st) := of_fields rfl

theorem redfadd (h : Hd) (a : Src) (b : Src) (scp : BitVec 2) (st : BitVec 3) (x : Bool) : Statement (.redfadd h a b scp st x) := of_fields rfl

theorem redmax (h : Hd) (a : Src) (b : Src) (w64 : Bool) (scp : BitVec 2) (st : BitVec 3) : Statement (.redmax h a b w64 scp st) := of_fields rfl

theorem barinit (h : Hd) (a : Src) (b : Src) : Statement (.barinit h a b) := of_fields rfl

theorem barexp (h : Hd) (d : Dst) (a : Src) (b : Src) (scp : BitVec 2) (par : Parity) : Statement (.barexp h d a b scp par) := of_fields rfl

theorem bararr (h : Hd) (d : Dst) (a : Src) (b : Src) (scp : BitVec 2) (par : Parity) : Statement (.bararr h d a b scp par) := of_fields rfl

theorem barwt (h : Hd) (d : Dst) (a : Src) (b : Src) (scp : BitVec 2) : Statement (.barwt h d a b scp) := of_fields rfl

theorem bartst (h : Hd) (d : Dst) (a : Src) (sel : BitVec 2) : Statement (.bartst h d a sel) := of_fields rfl

theorem tlsig (h : Hd) (a : Src) (b : Src) (scp : BitVec 3) : Statement (.tlsig h a b scp) := of_fields rfl

theorem tlwt (h : Hd) (a : Src) (b : Src) (scp : BitVec 3) : Statement (.tlwt h a b scp) := of_fields rfl

theorem tlrd (h : Hd) (d : Dst) (a : Src) : Statement (.tlrd h d a) := of_fields rfl

theorem fence (h : Hd) (scp : BitVec 3) (kind : FenceKind) : Statement (.fence h scp kind) := of_fields rfl

theorem drain (h : Hd) : Statement (.drain h) := of_fields rfl

theorem wtick (h : Hd) (d : Dst) (a : Src) (imm : BitVec 16) : Statement (.wtick h d a imm) := of_fields rfl

theorem wtickRel (h : Hd) (d : Dst) (imm : BitVec 16) : Statement (.wtickRel h d imm) := of_fields rfl

theorem powq (h : Hd) (d : Dst) (a : Src) : Statement (.powq h d a) := of_fields rfl

theorem powqWait (h : Hd) (d : Dst) (a : Src) : Statement (.powqWait h d a) := of_fields rfl

theorem powrl (h : Hd) (a : Src) : Statement (.powrl h a) := of_fields rfl

theorem futwt (h : Hd) (d : Dst) (a : Src) (b : Src) : Statement (.futwt h d a b) := of_fields rfl

theorem futset (h : Hd) (d : Dst) (a : Src) (b : Src) : Statement (.futset h d a b) := of_fields rfl

theorem futsetClr (h : Hd) (d : Dst) (a : Src) : Statement (.futsetClr h d a) := of_fields rfl

theorem yield (h : Hd) (a : Src) : Statement (.yield h a) := of_fields rfl

theorem mxselAcq (h : Hd) (d : Dst) (a : Src) : Statement (.mxselAcq h d a) := of_fields rfl

theorem mxselRel (h : Hd) (d : Dst) (a : Src) : Statement (.mxselRel h d a) := of_fields rfl

theorem mxldb (h : Hd) (d : Dst) (a : Src) (b : Src) : Statement (.mxldb h d a b) := of_fields rfl

theorem mxswb (h : Hd) (d : Dst) (a : Src) : Statement (.mxswb h d a) := of_fields rfl

theorem mxzero (h : Hd) (d : Dst) (a : Src) (b : Src) : Statement (.mxzero h d a b) := of_fields rfl

theorem mxmacChan (h : Hd) (d : Dst) (a : Src) (b : Src) : Statement (.mxmacChan h d a b) := of_fields rfl

theorem mxmacStore (h : Hd) (d : Dst) (a : Src) (b : Src) : Statement (.mxmacStore h d a b) := of_fields rfl

theorem mxmacFill (h : Hd) (d : Dst) (a : Src) (b : Src) (c : Src) : Statement (.mxmacFill h d a b c) := of_fields rfl

theorem mxmacPfill (h : Hd) (d : Dst) (a : Src) (b : Src) (c : Src) : Statement (.mxmacPfill h d a b c) := of_fields rfl

theorem mxsc (h : Hd) (d : Dst) (a : Src) (b : Src) (c : Src) (isB : Bool) : Statement (.mxsc h d a b c isB) := of_fields rfl

theorem mxdrn (h : Hd) (d : Dst) (a : Src) (b : Src) (clr : Bool) (x : Bool) : Statement (.mxdrn h d a b clr x) := of_fields rfl

theorem mxacc (h : Hd) (d : Dst) (a : Src) (b : Src) : Statement (.mxacc h d a b) := of_fields rfl

theorem mxsave (h : Hd) (d : Dst) (a : Src) (b : Src) : Statement (.mxsave h d a b) := of_fields rfl

theorem mxrest (h : Hd) (d : Dst) (a : Src) (b : Src) : Statement (.mxrest h d a b) := of_fields rfl

theorem mxst (h : Hd) (d : Dst) (a : Src) (b : Src) (c : Src) (clr : Bool) (x : Bool) : Statement (.mxst h d a b c clr x) := of_fields rfl

theorem mxcolRd (h : Hd) (d : Dst) (a : Src) (b : Src) : Statement (.mxcolRd h d a b) := of_fields rfl

theorem mxcolRet (h : Hd) (d : Dst) (a : Src) (b : Src) : Statement (.mxcolRet h d a b) := of_fields rfl

theorem mxwst (h : Hd) (d : Dst) (a : Src) (b : Src) : Statement (.mxwst h d a b) := of_fields rfl

theorem mxfmt (h : Hd) (d : Dst) (a : Src) (b : Src) : Statement (.mxfmt h d a b) := of_fields rfl

theorem mxpeekAcc (h : Hd) (d : Dst) (a : Src) (b : Src) : Statement (.mxpeekAcc h d a b) := of_fields rfl

theorem mxpeekSt (h : Hd) (d : Dst) (a : Src) : Statement (.mxpeekSt h d a) := of_fields rfl

theorem mxpeekTa (h : Hd) (d : Dst) (a : Src) (b : Src) : Statement (.mxpeekTa h d a b) := of_fields rfl

theorem mxpeekTb (h : Hd) (d : Dst) (a : Src) (b : Src) : Statement (.mxpeekTb h d a b) := of_fields rfl

theorem sbind (h : Hd) (a : Src) (b : Src) (c : Src) : Statement (.sbind h a b c) := of_fields rfl

theorem scpy (h : Hd) (d : Dst) (a : Src) (b : Src) : Statement (.scpy h d a b) := of_fields rfl

theorem scpyChk (h : Hd) (d : Dst) (a : Src) (b : Src) (c : Src) : Statement (.scpyChk h d a b c) := of_fields rfl

theorem sgat (h : Hd) (d : Dst) (a : Src) : Statement (.sgat h d a) := of_fields rfl

theorem ssct (h : Hd) (d : Dst) (a : Src) : Statement (.ssct h d a) := of_fields rfl

theorem sred (h : Hd) (d : Dst) (a : Src) (op : SredOp) (ty : SredTy) (x : Bool) : Statement (.sred h d a op ty x) := of_fields rfl

theorem sfill (h : Hd) (d : Dst) (a : Src) (b : Src) : Statement (.sfill h d a b) := of_fields rfl

theorem scvt (h : Hd) (d : Dst) (a : Src) (b : Src) (c : Src) (x : Bool) : Statement (.scvt h d a b c x) := of_fields rfl

theorem scan (h : Hd) (d : Dst) (a : Src) (b : Src) : Statement (.scan h d a b) := of_fields rfl

theorem sst (h : Hd) (d : Dst) (a : Src) : Statement (.sst h d a) := of_fields rfl

theorem sstFlags (h : Hd) (d : Dst) (a : Src) : Statement (.sstFlags h d a) := of_fields rfl

theorem spat (h : Hd) (a : Src) (b : Src) : Statement (.spat h a b) := of_fields rfl

theorem ccred (h : Hd) (d : Dst) (a : Src) (b : Src) (op : CcOp) : Statement (.ccred h d a b op) := of_fields rfl

theorem ccbc (h : Hd) (d : Dst) (a : Src) (b : Src) : Statement (.ccbc h d a b) := of_fields rfl

theorem ccag (h : Hd) (d : Dst) (a : Src) (b : Src) : Statement (.ccag h d a b) := of_fields rfl

theorem ccsend (h : Hd) (d : Dst) (a : Src) (b : Src) (c : Src) : Statement (.ccsend h d a b c) := of_fields rfl

theorem ccrecv (h : Hd) (d : Dst) (a : Src) (b : Src) (c : Src) : Statement (.ccrecv h d a b c) := of_fields rfl

theorem ccbar (h : Hd) (d : Dst) (a : Src) (b : Src) : Statement (.ccbar h d a b) := of_fields rfl

theorem br (h : Hd) (imm : BitVec 16) : Statement (.br h imm) := of_fields rfl

theorem exit (h : Hd) (a : Src) : Statement (.exit h a) := of_fields rfl

theorem nulSt (h : Hd) (m : BitVec 32) : Statement (.nulSt h m) := of_fields rfl

theorem nulH (h : Hd) (m : BitVec 32) : Statement (.nulH h m) := of_fields rfl

theorem jpost (h : Hd) (d : Dst) (a : Src) (b : Src) : Statement (.jpost h d a b) := of_fields rfl

theorem jwait (h : Hd) (a : Src) (b : Src) : Statement (.jwait h a b) := of_fields rfl

theorem launch (h : Hd) (d : Dst) (a : Src) (b : Src) (c : Src) (st : BitVec 3) : Statement (.launch h d a b c st) := of_fields rfl

theorem launchSeq (h : Hd) (d : Dst) (a : Src) (c : Src) (st : BitVec 3) : Statement (.launchSeq h d a c st) := of_fields rfl

theorem cancel (h : Hd) (d : Dst) (a : Src) (rel : Bool) (level : BitVec 2) : Statement (.cancel h d a rel level) := of_fields rfl

theorem cmpl (h : Hd) (d : Dst) (a : Src) (level : BitVec 2) : Statement (.cmpl h d a level) := of_fields rfl

theorem cmplWait (h : Hd) (d : Dst) (a : Src) (level : BitVec 2) : Statement (.cmplWait h d a level) := of_fields rfl

theorem gfork (h : Hd) (d : Dst) (a : Src) (b : Src) (c : Src) : Statement (.gfork h d a b c) := of_fields rfl

theorem grew (h : Hd) (d : Dst) (a : Src) (b : Src) (c : Src) : Statement (.grew h d a b c) := of_fields rfl

theorem gbar (h : Hd) (d : Dst) (a : Src) : Statement (.gbar h d a) := of_fields rfl

theorem gadv (h : Hd) (d : Dst) (a : Src) (b : Src) : Statement (.gadv h d a b) := of_fields rfl

theorem gcan (h : Hd) (d : Dst) (a : Src) (b : Src) : Statement (.gcan h d a b) := of_fields rfl

theorem gcanAll (h : Hd) (d : Dst) (a : Src) : Statement (.gcanAll h d a) := of_fields rfl

theorem gst (h : Hd) (d : Dst) (a : Src) : Statement (.gst h d a) := of_fields rfl

theorem bcall (h : Hd) (d : BitVec 3) (imm : BitVec 16) : Statement (.bcall h d imm) := of_fields rfl

theorem bret (h : Hd) (a : Src) : Statement (.bret h a) := of_fields rfl

theorem trap (h : Hd) (a : Src) (code : BitVec 8) : Statement (.trap h a code) := of_fields rfl

theorem brk (h : Hd) (imm : BitVec 16) : Statement (.brk h imm) := of_fields rfl

theorem csrr (h : Hd) (d : Dst) (num : BitVec 16) : Statement (.csrr h d num) := of_fields rfl

theorem csrw (h : Hd) (a : Src) (num : BitVec 16) : Statement (.csrw h a num) := of_fields rfl

theorem halt (h : Hd) (a : Src) : Statement (.halt h a) := of_fields rfl

theorem trace (h : Hd) (a : Src) (imm : BitVec 16) : Statement (.trace h a imm) := of_fields rfl

theorem cfginv (h : Hd) (a : Src) : Statement (.cfginv h a) := of_fields rfl

theorem cfginvAll (h : Hd) : Statement (.cfginvAll h) := of_fields rfl

theorem stestRun (h : Hd) (d : Dst) (a : Src) : Statement (.stestRun h d a) := of_fields rfl

theorem stestSt (h : Hd) (d : Dst) (a : Src) : Statement (.stestSt h d a) := of_fields rfl

theorem blockFetchMap (task : Nat) : Statement (.blockFetchMap task) := of_fields rfl

theorem blockCommit (task : Nat) : Statement (.blockCommit task) := of_fields rfl

theorem taskDispatch (die : Nat) (tile : Nat) : Statement (.taskDispatch die tile) := of_fields rfl

theorem timeSliceExpiry (task : Nat) : Statement (.timeSliceExpiry task) := of_fields rfl

theorem cardFinish (ctx : Nat) (card : Word) : Statement (.cardFinish ctx card) := of_fields rfl

theorem externalResultArrival (tile : Nat) : Statement (.externalResultArrival tile) := of_fields rfl

theorem scratchAccessPerformed (tile : Nat) : Statement (.scratchAccessPerformed tile) := of_fields rfl

theorem dRequestPerformed (tile : Nat) (chan : Nat) : Statement (.dRequestPerformed tile chan) := of_fields rfl

theorem arbiterSlotStart (die : Nat) (chan : Nat) : Statement (.arbiterSlotStart die chan) := of_fields rfl

theorem matrixCommandStart (isl : Nat) (path : Nat) : Statement (.matrixCommandStart isl path) := of_fields rfl

theorem matrixCommandComplete (isl : Nat) (num : Nat) : Statement (.matrixCommandComplete isl num) := of_fields rfl

theorem matrixRowUpdate (isl : Nat) : Statement (.matrixRowUpdate isl) := of_fields rfl

theorem residueMismatch (isl : Nat) (col : Nat) : Statement (.residueMismatch isl col) := of_fields rfl

theorem streamCommandStart (isl : Nat) : Statement (.streamCommandStart isl) := of_fields rfl

theorem streamBurst (isl : Nat) : Statement (.streamBurst isl) := of_fields rfl

theorem streamCommandComplete (isl : Nat) : Statement (.streamCommandComplete isl) := of_fields rfl

theorem ingressFrameReceived (port : Nat) (etype : Nat) (payload : List Byte) (fcsOk : Bool) : Statement (.ingressFrameReceived port etype payload fcsOk) := of_fields rfl

theorem placementGrant (die : Nat) : Statement (.placementGrant die) := of_fields rfl

theorem configCompleteWave (ctx : Nat) (handle : Nat) : Statement (.configCompleteWave ctx handle) := of_fields rfl

theorem drainToken (ctx : Nat) (handle : Nat) : Statement (.drainToken ctx handle) := of_fields rfl

theorem quiescenceReport (ctx : Nat) (handle : Nat) : Statement (.quiescenceReport ctx handle) := of_fields rfl

theorem allocatorHeadTimeout (die : Nat) (prio : Nat) : Statement (.allocatorHeadTimeout die prio) := of_fields rfl

theorem regionMove (ctx : Nat) (handle : Nat) (px : Nat) (py : Nat) : Statement (.regionMove ctx handle px py) := of_fields rfl

theorem tickBoundary : Statement (.tickBoundary) := of_fields rfl

theorem timebaseLockLoss : Statement (.timebaseLockLoss) := of_fields rfl

theorem tableArmedStart (die : Nat) (slot : Nat) : Statement (.tableArmedStart die slot) := of_fields rfl

theorem laneReclaimStart (die : Nat) (slot : Nat) (entry : Nat) : Statement (.laneReclaimStart die slot entry) := of_fields rfl

theorem tableEntryStart (die : Nat) (slot : Nat) (entry : Nat) : Statement (.tableEntryStart die slot entry) := of_fields rfl

theorem tableDeadlineOverrun (die : Nat) (slot : Nat) (entry : Nat) : Statement (.tableDeadlineOverrun die slot entry) := of_fields rfl

theorem fallbackBudgetEnd (die : Nat) (slot : Nat) (entry : Nat) : Statement (.fallbackBudgetEnd die slot entry) := of_fields rfl

theorem modeChangePoint (die : Nat) (slot : Nat) : Statement (.modeChangePoint die slot) := of_fields rfl

theorem drainLimitExpiry (ctx : Nat) : Statement (.drainLimitExpiry ctx) := of_fields rfl

theorem saveLimitExpiry (ctx : Nat) : Statement (.saveLimitExpiry ctx) := of_fields rfl

theorem contextSaveComplete (ctx : Nat) : Statement (.contextSaveComplete ctx) := of_fields rfl

theorem contextRestoreComplete (ctx : Nat) : Statement (.contextRestoreComplete ctx) := of_fields rfl

theorem contextTeardownComplete (ctx : Nat) : Statement (.contextTeardownComplete ctx) := of_fields rfl

theorem publicationTimeout (q : Nat) : Statement (.publicationTimeout q) := of_fields rfl

theorem queueSlotGrant (q : Nat) : Statement (.queueSlotGrant q) := of_fields rfl

theorem demotedQueueCheck (q : Nat) : Statement (.demotedQueueCheck q) := of_fields rfl

theorem stallDetected (ctx : Nat) : Statement (.stallDetected ctx) := of_fields rfl

theorem waitConditionMet (q : Nat) : Statement (.waitConditionMet q) := of_fields rfl

theorem nopPacket (q : Nat) : Statement (.nopPacket q) := of_fields rfl

theorem launchPacket (q : Nat) : Statement (.launchPacket q) := of_fields rfl

theorem deltaPacket (q : Nat) : Statement (.deltaPacket q) := of_fields rfl

theorem copyPacket (q : Nat) : Statement (.copyPacket q) := of_fields rfl

theorem waitPacket (q : Nat) : Statement (.waitPacket q) := of_fields rfl

theorem signalPacket (q : Nat) : Statement (.signalPacket q) := of_fields rfl

theorem fencePacket (q : Nat) : Statement (.fencePacket q) := of_fields rfl

theorem tableInstall (q : Nat) : Statement (.tableInstall q) := of_fields rfl

theorem tableStart (q : Nat) : Statement (.tableStart q) := of_fields rfl

theorem tableSwitch (q : Nat) : Statement (.tableSwitch q) := of_fields rfl

theorem tableAcknowledge (q : Nat) : Statement (.tableAcknowledge q) := of_fields rfl

theorem tableRemove (q : Nat) : Statement (.tableRemove q) := of_fields rfl

theorem modePrio (q : Nat) : Statement (.modePrio q) := of_fields rfl

theorem modePause (q : Nat) : Statement (.modePause q) := of_fields rfl

theorem modePubto (q : Nat) : Statement (.modePubto q) := of_fields rfl

theorem modeReslim (q : Nat) : Statement (.modeReslim q) := of_fields rfl

theorem graphPacket (q : Nat) : Statement (.graphPacket q) := of_fields rfl

theorem debugAttach (q : Nat) : Statement (.debugAttach q) := of_fields rfl

theorem debugDetach (q : Nat) : Statement (.debugDetach q) := of_fields rfl

theorem debugHalt (q : Nat) : Statement (.debugHalt q) := of_fields rfl

theorem debugResume (q : Nat) : Statement (.debugResume q) := of_fields rfl

theorem debugReadState (q : Nat) : Statement (.debugReadState q) := of_fields rfl

theorem debugWriteState (q : Nat) : Statement (.debugWriteState q) := of_fields rfl

theorem debugSetBreakpoint (q : Nat) : Statement (.debugSetBreakpoint q) := of_fields rfl

theorem debugClearBreakpoint (q : Nat) : Statement (.debugClearBreakpoint q) := of_fields rfl

theorem cancelPacket (q : Nat) : Statement (.cancelPacket q) := of_fields rfl

theorem qctlEnable (q : Nat) : Statement (.qctlEnable q) := of_fields rfl

theorem qctlDisable (q : Nat) : Statement (.qctlDisable q) := of_fields rfl

theorem qctlRestart (q : Nat) (clrsh : Bool) (host : Bool) : Statement (.qctlRestart q clrsh host) := of_fields rfl

theorem qctlResume (q : Nat) : Statement (.qctlResume q) := of_fields rfl

theorem qctlDoorbell (q : Nat) : Statement (.qctlDoorbell q) := of_fields rfl

theorem ctxctlCreate (ctx : Nat) (map : Nat) : Statement (.ctxctlCreate ctx map) := of_fields rfl

theorem ctxctlSave (ctx : Nat) : Statement (.ctxctlSave ctx) := of_fields rfl

theorem ctxctlRestore (ctx : Nat) (map : Nat) : Statement (.ctxctlRestore ctx map) := of_fields rfl

theorem ctxctlTeardown (ctx : Nat) : Statement (.ctxctlTeardown ctx) := of_fields rfl

theorem ctxsaveWrite (ctx : Nat) (w : Word) : Statement (.ctxsaveWrite ctx w) := of_fields rfl

theorem tbctlSettime : Statement (.tbctlSettime) := of_fields rfl

theorem tbctlStart : Statement (.tbctlStart) := of_fields rfl

theorem tbadjWrite (w : Word) : Statement (.tbadjWrite w) := of_fields rfl

theorem cfginvCsrWrite (w : Word) : Statement (.cfginvCsrWrite w) := of_fields rfl

theorem cfgInvalidationPerformed : Statement (.cfgInvalidationPerformed) := of_fields rfl

theorem vminvWrite (w : Word) : Statement (.vminvWrite w) := of_fields rfl

theorem vmInvalidationPerformed : Statement (.vmInvalidationPerformed) := of_fields rfl

theorem futsetCsrWrite (w : Word) : Statement (.futsetCsrWrite w) := of_fields rfl

theorem pgretireWrite (w : Word) : Statement (.pgretireWrite w) := of_fields rfl

theorem expoolWrite (die : Nat) (w : Word) : Statement (.expoolWrite die w) := of_fields rfl

theorem chretireWrite (die : Nat) (w : Word) : Statement (.chretireWrite die w) := of_fields rfl

theorem channelMigrationDone (die : Nat) : Statement (.channelMigrationDone die) := of_fields rfl

theorem attctlGo (w : Word) : Statement (.attctlGo w) := of_fields rfl

theorem quoteComplete : Statement (.quoteComplete) := of_fields rfl

theorem peercfgWrite (w : Word) : Statement (.peercfgWrite w) := of_fields rfl

theorem shadowWrite (die : Nat) (w : Word) : Statement (.shadowWrite die w) := of_fields rfl

theorem cfgcacheWrite (die : Nat) (w : Word) : Statement (.cfgcacheWrite die w) := of_fields rfl

theorem leaveBudgetWrite (die : Nat) (num : Nat) (w : Word) : Statement (.leaveBudgetWrite die num w) := of_fields rfl

theorem tlclrWrite (ctx : Nat) (w : Word) : Statement (.tlclrWrite ctx w) := of_fields rfl

theorem ingressChannelWrite (n : Nat) (w : Word) : Statement (.ingressChannelWrite n w) := of_fields rfl

theorem histcfgWrite (die : Nat) (i : Nat) (w : Word) : Statement (.histcfgWrite die i w) := of_fields rfl

theorem trcctlWrite (die : Nat) (w : Word) : Statement (.trcctlWrite die w) := of_fields rfl

theorem evidxWrite (w : Word) : Statement (.evidxWrite w) := of_fields rfl

theorem csrWriteOther (die : Nat) (ctx : Nat) (num : Nat) (w : Word) : Statement (.csrWriteOther die ctx num w) := of_fields rfl

theorem hostCsrAccess (pa : Nat) (len : Nat) (write : Bool) (w : Word) : Statement (.hostCsrAccess pa len write w) := of_fields rfl

theorem groupDeadline (desc : Nat) : Statement (.groupDeadline desc) := of_fields rfl

theorem groupCollection (desc : Nat) : Statement (.groupCollection desc) := of_fields rfl

theorem ccbarTimeout (die : Nat) (num : Nat) (ctx : Nat) : Statement (.ccbarTimeout die num ctx) := of_fields rfl

theorem collectiveComplete (die : Nat) : Statement (.collectiveComplete die) := of_fields rfl

theorem flitReceived (link : Nat) (pos : Nat) (head : Word) (body : List Word) (crcOk : Bool) : Statement (.flitReceived link pos head body crcOk) := of_fields rfl

theorem linkTrainingDone (link : Nat) (ver : Nat) (optOk : Bool) (posOk : Bool) (mods : Nat) : Statement (.linkTrainingDone link ver optOk posOk mods) := of_fields rfl

theorem linkTrainingTimeout (link : Nat) : Statement (.linkTrainingTimeout link) := of_fields rfl

theorem linkLaneFailure (link : Nat) (spare : Bool) : Statement (.linkLaneFailure link spare) := of_fields rfl

theorem linkModuleFailure (link : Nat) (mod : Nat) : Statement (.linkModuleFailure link mod) := of_fields rfl

theorem linkRetrainDone (link : Nat) (passed : Bool) : Statement (.linkRetrainDone link passed) := of_fields rfl

theorem powerOnReset (imgA : List Byte) (imgB : List Byte) (fusedSvn : Nat) : Statement (.powerOnReset imgA imgB fusedSvn) := of_fields rfl

theorem recoveryImageFrame (payload : List Byte) (last : Bool) : Statement (.recoveryImageFrame payload last) := of_fields rfl

theorem configRecordWrite (ok : Bool) : Statement (.configRecordWrite ok) := of_fields rfl

theorem selfTestStart (die : Nat) (page : Bool) (n : Nat) : Statement (.selfTestStart die page n) := of_fields rfl

theorem selfTestEnd (die : Nat) (page : Bool) (n : Nat) (passed : Bool) : Statement (.selfTestEnd die page n passed) := of_fields rfl

theorem selfTestOverdue (isl : Nat) : Statement (.selfTestOverdue isl) := of_fields rfl

theorem ageingSample (die : Nat) (quad : Nat) (ring : Nat) (margin : Nat) : Statement (.ageingSample die quad ring margin) := of_fields rfl

theorem eccThresholdRetire (die : Nat) (page : Nat) : Statement (.eccThresholdRetire die page) := of_fields rfl

theorem thermalTrip (die : Nat) : Statement (.thermalTrip die) := of_fields rfl

theorem pdbAccessPerformed (part : Nat) : Statement (.pdbAccessPerformed part) := of_fields rfl

theorem sequencerStreamEnd (tile : Nat) (chan : Nat) : Statement (.sequencerStreamEnd tile chan) := of_fields rfl

theorem ethernetAutoNegotiation (port : Nat) (optOk : Bool) : Statement (.ethernetAutoNegotiation port optOk) := of_fields rfl

end Sys2Proof.Laws.Fields
end

