-- ==== Sys2Proof/Tests/Slice0.lean ====
section
/-! SUPPORT. Tests: words of the spec decode to their instructions; each check of `wf` refuses an ill-formed term; single results the
spec works out; and for every statement concrete states and operands that meet its hypotheses. -/

open Sys2Proof Sys2Proof.Machine

namespace Sys2Proof.Tests

/-! ### Decoding: words of the spec's own examples, one or two of each family (R38 to R52) -/

/-- Whether a word of the form decodes to the instruction, and the instruction encodes to the word. -/
def reads (m : Form) (w : Word) (i : Instr) : Bool :=
  match decodeWord m w with
  | .ok j => j == i && encode i == some w
  | .error _ => false

/-- Whether a word of the form is refused for that reason. -/
def refuses (m : Form) (w : Word) (r : Reject) : Bool :=
  match decodeWord m w with
  | .ok _ => false
  | .error e => e == r

theorem test_word_nop : reads .timed 0x0000000000000000 (.nop ⟨.timed 0 0, 0, false⟩) = true := by decide

theorem test_word_vfma : reads .timed 0x00C430401C204030 (.vfma ⟨.timed 0x00C 1, 0, false⟩ (.row 4) (.row 1) (.route 2) (.row 4) .bf16 false) = true := by decide

theorem test_word_vfma_block : reads .block 0xF804304014204710 (.vfma ⟨.block 31, 3, true⟩ (.row 4) (.row 1) (.h 2) (.row 4) .bf16 false) = true := by decide

theorem test_word_vsub : reads .block 0xF804104030100012 (.vsub ⟨.block 31, 0, false⟩ (.row 4) (.row 3) (.row 1) (.flt .f32) false) = true := by decide

theorem test_word_getid : reads .timed 0x0053707000002000 (.getid ⟨.timed 5 0, 0, false⟩ (.row 7) 2) = true := by decide

theorem test_word_adc : reads .timed 0x0010404000100002 (.adc ⟨.timed 1 0, 0, false⟩ (.row 4) (.row 0) (.row 1) 1) = true := by decide

theorem test_word_cmp : reads .timed 0x0023003000100004 (.cmp ⟨.timed 2 0, 0, false⟩ 3 (.row 0) (.row 1) .lt) = true := by decide

theorem test_word_cmpi : reads .block 0xF803101410064004 (.cmpi ⟨.block 31, 0, false⟩ 1 (.h 1) 0x64 .lt) = true := by decide

theorem test_word_add : reads .block 0xF800142424100000 (.add ⟨.block 31, 0, false⟩ (.h 2) (.h 2) (.h 1)) = true := by decide

theorem test_word_benc : reads .timed 0x0077102000100012 (.benc ⟨.timed 7 0, 0, false⟩ (.row 2) (.row 0) (.row 1) .sbf4 .f32 false) = true := by decide

theorem test_word_ldt : reads .timed 0x00384080100B0000 (.ldt ⟨.timed 3 0, 0, false⟩ (.rows 8) (.row 1) true true) = true := by decide

theorem test_word_stp : reads .block 0x0008800434160000 (.stp ⟨.block 0, 0, false⟩ (.h 3) (.h 1) 3) = true := by decide

theorem test_word_pldx : reads .block 0x0009701444040000 (.pldx ⟨.block 0, 0, false⟩ (.row 1) (.h 4) (.h 0) 2 false) = true := by decide

theorem test_word_dqld : reads .timed 0x0048900020060002 (.dqld ⟨.timed 4 0, 0, false⟩ (.row 2) 3 false 1) = true := by decide

theorem test_word_aadd : reads .timed 0x007A003010261000 (.aadd ⟨.timed 7 0, 0, false⟩ (.row 3) (.row 1) (.row 2) true 1 0) = true := by decide

theorem test_word_bararr : reads .timed 0x006B205010203002 (.bararr ⟨.timed 6 0, 0, false⟩ (.row 5) (.row 1) (.row 2) 3 .even) = true := by decide

theorem test_word_barwt : reads .block 0xF80B341424303000 (.barwt ⟨.block 31, 0, false⟩ (.h 1) (.h 2) (.h 3) 3) = true := by decide

theorem test_word_wtick : reads .timed 0x00ABA02010005000 (.wtick ⟨.timed 0x00A 0, 0, false⟩ (.row 2) (.row 1) 5) = true := by decide

theorem test_word_futwt : reads .block 0xF80BD41424300000 (.futwt ⟨.block 31, 0, false⟩ (.h 1) (.h 2) (.h 3)) = true := by decide

theorem test_word_futset : reads .timed 0x007BE04020300000 (.futset ⟨.timed 7 0, 0, false⟩ (.row 4) (.row 2) (.row 3)) = true := by decide

theorem test_word_mxmac : reads .timed 0x014C409020300002 (.mxmacStore ⟨.timed 0x014 0, 0, false⟩ (.row 9) (.row 2) (.row 3)) = true := by decide

theorem test_word_scpychk : reads .timed 0x003D105010203002 (.scpyChk ⟨.timed 3 0, 0, false⟩ (.row 5) (.row 1) (.row 2) (.row 3)) = true := by decide

theorem test_word_ccred : reads .timed 0x005DA04010200000 (.ccred ⟨.timed 5 0, 0, false⟩ (.row 4) (.row 1) (.row 2) .fadd) = true := by decide

theorem test_word_ccrecv : reads .block 0xF80DE40414243000 (.ccrecv ⟨.block 31, 0, false⟩ (.h 0) (.h 1) (.h 2) (.h 3)) = true := by decide

theorem test_word_nul : reads .block 0xF80E200000001300 (.nulSt ⟨.block 31, 1, true⟩ 1) = true := by decide

theorem test_word_nulh : reads .block 0xF80E200000004302 (.nulH ⟨.block 31, 1, true⟩ 4) = true := by decide

theorem test_word_br : reads .block 0xF80E000000000200 (.br ⟨.block 31, 1, false⟩ 0) = true := by decide

theorem test_word_exit : reads .block 0xF80E100420000300 (.exit ⟨.block 31, 1, true⟩ (.h 2)) = true := by decide

theorem test_word_jpost : reads .block 0xF80E3D1461800400 (.jpost ⟨.block 31, 2, false⟩ .zero (.h 6) (.row 24)) = true := by decide

theorem test_word_jwait : reads .block 0xF80E400464500400 (.jwait ⟨.block 31, 2, false⟩ (.h 6) (.h 5)) = true := by decide

theorem test_word_launch : reads .timed 0x028E50A010203008 (.launch ⟨.timed 0x028 0, 0, false⟩ (.row 10) (.row 1) (.row 2) (.row 3) 4) = true := by decide

theorem test_word_gfork : reads .block 0xF80E841434740000 (.gfork ⟨.block 31, 0, false⟩ (.h 1) (.h 3) (.h 7) (.h 0)) = true := by decide

theorem test_word_grew : reads .block 0xF80E9D1434004000 (.grew ⟨.block 31, 0, false⟩ .zero (.h 3) (.h 0) (.row 4)) = true := by decide

theorem test_word_gadv : reads .timed 0x009EB03010200000 (.gadv ⟨.timed 9 0, 0, false⟩ (.row 3) (.row 1) (.row 2)) = true := by decide

theorem test_word_gcan : reads .block 0xF80EC42410000002 (.gcanAll ⟨.block 31, 0, false⟩ (.h 2) (.h 1)) = true := by decide

theorem test_word_csrr : reads .timed 0x004F203000001000 (.csrr ⟨.timed 4 0, 0, false⟩ (.row 3) 1) = true := by decide

theorem test_word_csrw : reads .block 0xF80F300411030000 (.csrw ⟨.block 31, 0, false⟩ (.h 1) 0x1030) = true := by decide

theorem test_word_trap : reads .timed 0x007F0000200C5000 (.trap ⟨.timed 7 0, 0, false⟩ (.row 2) 0xC5) = true := by decide

theorem test_word_trace : reads .timed 0x003F500020011000 (.trace ⟨.timed 3 0, 0, false⟩ (.row 2) 0x11) = true := by decide

theorem test_word_stest : reads .timed 0x000F702010000002 (.stestSt ⟨.timed 0 0, 0, false⟩ (.row 2) (.row 1)) = true := by decide

theorem test_word_out_of_form : refuses .timed 0xF80E100420000300 .form = true := by decide

theorem test_word_undefined : refuses .timed 0x0003900000000000 .undefined = true := by decide

theorem test_word_reserved_predicate : refuses .timed 0x0000000000000100 .pred = true := by decide

theorem test_word_lsid_missing : refuses .block 0xF808800434160000 .lsid = true := by decide

theorem test_header : decodeBhdr 0x0C0FE00000001040 = some { count := 6, smask := 1, wmask := 4, memd := false, atom := false } := by
  decide

theorem test_header_round : (decodeBhdr 0x060FE00000008050).map encodeBhdr = some 0x060FE00000008050 := by decide

theorem test_header_smask31 : decodeBhdr 0x060FE80000008050 = none := by decide

/-! ### Each check of `wf` refuses an ill-formed term -/

def hT : Hd := ⟨.timed 5 0, 0, false⟩

def hB : Hd := ⟨.block 31, 0, false⟩

def hS : Hd := ⟨.block 0, 0, false⟩

theorem test_ill_pn_without_ps : Instr.wf (.nop ⟨.timed 0 0, 0, true⟩) = false := by decide

theorem test_ill_lsid_of_a_computation : Instr.wf (.nop ⟨.block 3, 0, false⟩) = false := by decide

theorem test_ill_lsid_missing : Instr.wf (.st hB (.row 0) (.row 1) false 2) = false := by decide

theorem test_ill_row_192 : Instr.wf (.add hT (.row 192) (.row 0) (.row 1)) = false := by decide

theorem test_ill_source_192 : Instr.wf (.add hT (.row 0) (.row 192) (.row 1)) = false := by decide

theorem test_ill_h_in_timed : Instr.wf (.add hT (.h 0) (.row 0) (.row 1)) = false := by decide

theorem test_ill_row_64_in_block : Instr.wf (.add hB (.row 64) (.row 0) (.row 1)) = false := by decide

theorem test_ill_load_to_latch : Instr.wf (.ld hS .latch (.row 0) false 2 false) = false := by decide

theorem test_ill_send_to_row : Instr.wf (.powq hB (.row 0) (.row 1)) = false := by decide

theorem test_ill_acas_to_latch : Instr.wf (.acas hT .latch (.row 0) (.row 1) true 0 0) = false := by decide

theorem test_ill_line_185 : Instr.wf (.ldl hT (.rows 185) (.row 0) false) = false := by decide

theorem test_ill_line_source_57 : Instr.wf (.stl hS (.row 0) (.rows 57) false) = false := by decide

theorem test_ill_line_routes_in_block : Instr.wf (.ldl hS .routes (.row 0) false) = false := by decide

theorem test_ill_column_of_32_bits : Instr.wf (.ld hT (.row 0) (.row 1) true 2 false) = false := by decide

theorem test_ill_signed_64_bits : Instr.wf (.ld hT (.row 0) (.row 1) false 3 true) = false := by decide

theorem test_ill_dqld_line_of_bytes : Instr.wf (.dqld hT (.row 0) 0 true 0) = false := by decide

theorem test_ill_instance_tag_in_block : Instr.wf (.qtkt hB (.row 0) (.row 1) .inst) = false := by decide

theorem test_ill_identifier_9 : Instr.wf (.getid hT (.row 0) 9) = false := by decide

theorem test_ill_identifier_0_in_block : Instr.wf (.getid hB (.row 0) 0) = false := by decide

theorem test_ill_csr_reserved : Instr.wf (.csrr hT (.row 0) 0x2000) = false := by decide

theorem test_ill_csrw_reserved : Instr.wf (.csrw hT (.row 0) 0x7FFF) = false := by decide

theorem test_ill_vcmp_unsigned_float : Instr.wf (.vcmp hT (.row 0) (.row 1) (.row 2) .ltu (.flt .f32)) = false := by decide

theorem test_ill_lane_8 : Instr.wf (.vbcast hT (.row 0) (.row 1) 2 (.flt .f32)) = false := by decide

theorem test_ill_vpack_of_bytes : Instr.wf (.vpack hT (.row 0) (.row 1) (.row 2) .s8 false) = false := by decide

theorem test_ill_vunpk_of_words : Instr.wf (.vunpk hT (.row 0) (.row 1) false (.int .s64)) = false := by decide

theorem test_ill_bexp_of_bytes : Instr.wf (.bexp hT (.row 0) (.row 1) .sbf4 .e4m3 false) = false := by decide

theorem test_ill_vrnd_mode_5 : Instr.wf (.vrnd hT (.row 0) (.row 1) 5 .f32) = false := by decide

theorem test_ill_satn_of_0 : Instr.wf (.vsatn hT (.row 0) (.row 1) 0 .s32) = false := by decide

theorem test_ill_predicate_0 : Instr.wf (.cmp hT 0 (.row 0) (.row 1) .eq) = false := by decide

theorem test_ill_sext_of_64 : Instr.wf (.sext hT (.row 0) (.row 1) 3) = false := by decide

theorem test_ill_scope_3 : Instr.wf (.aadd hT (.row 0) (.row 1) (.row 2) true 3 0) = false := by decide

theorem test_ill_status_in_block : Instr.wf (.aadd hS (.h 0) (.row 1) (.row 2) true 0 1) = false := by decide

theorem test_ill_scope_0_of_vld : Instr.wf (.vld hT (.row 0) (.row 1) (.row 2) 0) = false := by decide

theorem test_ill_scope_0_of_bararr : Instr.wf (.bararr hT (.row 0) (.row 1) (.row 2) 0 .cur) = false := by decide

theorem test_ill_fence_scope_5 : Instr.wf (.fence hT 5 .acq) = false := by decide

theorem test_ill_drain_in_block : Instr.wf (.drain hB) = false := by decide

theorem test_ill_branch_in_timed : Instr.wf (.br hT 0) = false := by decide

theorem test_ill_nul_of_lsid_31 : Instr.wf (.nulSt hB 0x80000000) = false := by decide

theorem test_ill_nul_of_h8 : Instr.wf (.nulH hB 0x100) = false := by decide

theorem test_ill_bartst_3 : Instr.wf (.bartst hT (.row 0) (.row 1) 3) = false := by decide

theorem test_ill_trap_below_c0 : Instr.wf (.trap hT (.row 0) 0xBF) = false := by decide

theorem test_ill_powq_wait_in_block : Instr.wf (.powqWait hB (.h 0) (.row 1)) = false := by decide

theorem test_ill_cancel_release_of_a_task : Instr.wf (.cancel hT (.row 0) (.row 1) true 1) = false := by decide

theorem test_ill_sred_x_of_integers : Instr.wf (.sred hT (.row 0) (.row 1) .add .s32 true) = false := by decide

theorem test_ill_sel_of_p0 : Instr.wf (.sel hT (.row 0) (.row 1) (.row 2) false 0) = false := by decide

/-! ### Small states -/

/-- A running region of one page in its cycle 5, and its PE 0 of tile (0, 0) about to fire. -/
def regT : Region := { Region.init with st := .running, t := 5 }

def sT : State := { State.reset with regions := [(0, regT)] }

/-- The row-file entries 0, 1, 2 of that tile set. -/
def sR (u v w : Word) : State := { sT with rows := [(0, Val.clean u), (1, Val.clean v), (2, Val.clean w)] }

/-- A task running on the executor of tile (0, 0), with a block of no words. -/
def tB : Task := { Task.init with st := .running, tile := some 0, blk := some Blk.init }

def sB : State := { State.reset with tasks := [(1, tB)], cur := { Issuer.init with task := 1 } }

/-- Its commit, performing an instruction that read `ops`. -/
def sC (ops : List Val) : State := { sB with cur := { Issuer.init with task := 1, phase := .commit, ops := ops } }

/-- A timed access arriving at its unit with `ops`. -/
def sP (ops : List Val) : State := { sT with cur := { Issuer.init with phase := .perform, ops := ops } }

def v0 : Val := Val.clean 0

theorem full_timed : sT.inFull hT := ⟨rfl, rfl, rfl⟩

theorem full_block : sB.inFull hB := ⟨rfl, rfl, rfl⟩

theorem sends_commit (ops : List Val) (srcs : List Src) (lat ext : Nat) : (sC ops).sends hB srcs lat ext ops false (sC ops) :=
  .inr ⟨⟨rfl, rfl⟩, rfl, rfl, rfl⟩

theorem releases_commit (ops : List Val) (srcs : List Src) (lat ext : Nat) :
    (sC ops).releases hB srcs lat ext ops false (sC ops) :=
  ⟨sends_commit ops srcs lat ext, fun h => (nomatch h), rfl⟩

/-- The state in which a timed instruction of `sR` that is sent at its firing is performed. -/
def sSent (u v w : Word) (lat ext : Nat) (ops : List Val) : State := (sR u v w).sent .timed lat ext ops false

theorem room_timed (u v w : Word) : (sR u v w).extOut .timed + 1 ≤ 32 := by
  simp [State.extOut, State.curRegion, State.regionOn, sR, sT, State.reset, regKey, Issuer.init, tabGet, regT, Region.init]

theorem queried_timed (u v w : Word) (srcs : List Src) (lat : Nat) :
    (sR u v w).queried hT srcs lat 1 ((sR u v w).vals hT srcs) false (sSent u v w lat 1 ((sR u v w).vals hT srcs)) :=
  ⟨⟨rfl, rfl, rfl⟩, .inr (room_timed u v w), rfl, rfl, rfl⟩

/-! ### Results that the spec works out -/

/-- The word that a timed computation writes, of those on their way. -/
def written (s : State) (i : Instr) : Option Word :=
  match exec i s with
  | .next t => (t.curRegion.pend.head?).bind fun p => match p.wr with
    | .row _ v => some v.v
    | _ => none
  | _ => none

set_option maxRecDepth 4000 in
/-- R95, the spec's example: the nine bytes "123456789" in two steps. -/
theorem test_crc : ((written (sR 0xFFFFFFFF 0x3837363534333231 0) (.crc hT (.row 3) (.row 0) (.row 1) 3)).bind fun u =>
    written (sR u 0x39 0) (.crc hT (.row 3) (.row 0) (.row 1) 0)) = some 0x1CF96D7C := by decide

/-- R88: the product and sum wrap. -/
theorem test_mad_wraps : written (sR 0xFFFFFFFFFFFFFFFF 2 5) (.mad hT (.row 3) (.row 0) (.row 1) (.row 2)) = some 3 := by decide

/-- R89: −7 divided by 2 is −3, the remainder −1. -/
theorem test_div_truncates : written (sR (-7) 2 0) (.div hT (.row 3) (.row 0) (.row 1)) = some (-3) := by decide

theorem test_rem_sign : written (sR (-7) 2 0) (.rem hT (.row 3) (.row 0) (.row 1)) = some (-1) := by decide

/-- R89: division by zero gives all ones. -/
theorem test_div_by_zero : written (sR 7 0 0) (.divu hT (.row 3) (.row 0) (.row 1)) = some 0xFFFFFFFFFFFFFFFF := by decide

/-- R100: the ones of 0xFF below position 4. -/
theorem test_pcnt : written (sR 0xFF 4 0) (.pcnt hT (.row 3) (.row 0) (.row 1)) = some 4 := by decide

/-- R103: a saturating sum of bytes, 127 + 1 in lane 0 and −128 − 1 in lane 1. -/
theorem test_addsat : written (sR 0x807F 0xFF01 0) (.addsat hT (.row 3) (.row 0) (.row 1) .s8) = some 0x807F := by decide

/-- R102: 1.0 + 2.0 in each f32 lane. -/
theorem test_vadd_f32 : written (sR 0x3F8000003F800000 0x4000000040000000 0) (.vadd hT (.row 3) (.row 0) (.row 1) (.flt .f32) false)
    = some 0x4040000040400000 := by decide

/-- R73, R43: a predicate that does not hold leaves the state alone. -/
theorem test_predicated_off : exec (.add ⟨.timed 5 0, 1, false⟩ (.row 3) (.row 0) (.row 1)) sT = .next sT := rfl

/-! ### Witnesses: integers, vectors, scratch, partitions, queues (statements up to the atomics) -/

theorem witness_IntegerFormsGiveTheirResult : sT.inFull hT ∧ sB.inFull hB := ⟨full_timed, full_block⟩

theorem witness_ImmediateAndFieldFormsGiveTheirResult : sT.inFull hT := full_timed

theorem witness_DivideAndCarryGiveTheirResult : sT.inFull hT ∧ sB.inFull hB ∧ tabGet 0 sB.curBlk.divs sB.cur.pe ≤ sB.cycle :=
  ⟨full_timed, full_block, by decide⟩

theorem witness_PredicateInstructionsGiveTheirResult : sB.inFull hB := full_block

theorem witness_ConstantsIdentifiersAndCountsGiveTheirResult : sT.inFull hT ∧ hT.place.form = .timed ∧ (8 : BitVec 4).toNat ≤ 8 ∧
    sB.inFull hB ∧ hB.place.form = .block := ⟨full_timed, rfl, by decide, full_block, rfl⟩

theorem witness_VectorFloatArithmeticGivesItsResult : sT.inFull hT := full_timed

theorem witness_VectorIntegerArithmeticGivesItsResult : sT.inFull hT := full_timed

theorem witness_VectorLaneMovesGiveTheirResult : sB.inFull hB := full_block

theorem witness_NarrowAndSideBandGiveTheirResult : sT.inFull hT := full_timed

/-- A region of two pages: an access to page 0 is performed in time, one to page 1 is a request. -/
def sS : State := { sT with regions := [(0, { regT with shw := 2 })] }

/-- The same with 32 external results outstanding. -/
def sFull : State :=
  let p : Pend := { due := 9, tile := 0, pe := 0, wr := .waiting 32, fixed := false, ext := true, arrived := false, tag := 1, fired := 0 }
  { sS with regions := [(0, { regT with shw := 2, pend := [p] })] }

/-- A block and the region that its S operands name. -/
def sBS : State := { sB with regions := [(0, regT)] }

theorem sTile_near : sS.sTile .timed 0 = .ok 1 := rfl

theorem sTile_far : sS.sTile .timed (8 * 2 ^ 18) = .ok 5 := rfl

theorem sTile_block : sBS.sTile .block 0 = .ok 1 := rfl

theorem witness_ScratchAccessesGoToTheirTile :
    (sS.inFull hT ∧ sS.sTile .timed 0 = .ok 1 ∧ sS.sAway .timed 0 = false ∧ sS.samePage 1 = true ∧ elemAligned true 3 (sOff 0) = true ∧ lineAligned true (sOff 0) = true) ∧
    (sFull.sTile .timed (8 * 2 ^ 18) = .ok 5 ∧ sFull.sAway .timed (8 * 2 ^ 18) = false ∧ sFull.samePage 5 = false ∧ 32 < sFull.extOut .timed + 1 ∧ ¬ 32 < sS.extOut .timed + 1) ∧
    (sBS.inFull hS ∧ sBS.sTile .block 0 = .ok 1 ∧ sBS.sAway .block 0 = false) :=
  ⟨⟨⟨rfl, rfl, rfl⟩, rfl, rfl, by decide, by decide, by decide⟩, ⟨rfl, rfl, by decide, by decide, by decide⟩, ⟨rfl, rfl, rfl⟩, rfl, by decide⟩

/-- A timed access to another page, at its unit, with the tag of its result. -/
def sPt (ops : List Val) : State := { sT with cur := { Issuer.init with phase := .perform, ops := ops, tag := 1 } }

/-- A block's instruction in its commit, a region for its S operands beside it. -/
def sBC (ops : List Val) : State := { sBS with cur := (sC ops).cur }

/-- A claim in the tile that finds its port and plane free and takes them. -/
theorem port_untimed (m : Form) (res : Bool) (s : State) (tile : Nat) (c : Claim) (h : s.untimed m res = true) (h1 : s.portFree tile c = true) :
    s.portTaken m res tile c (s.takePort tile c true) := by
  unfold State.portTaken
  rw [if_pos h]
  exact ⟨h1, rfl⟩

/-- A timed access of its own page takes none. -/
theorem port_timed (m : Form) (res : Bool) (s : State) (tile : Nat) (c : Claim) (h : s.untimed m res = false) : s.portTaken m res tile c s := by
  unfold State.portTaken
  rw [if_neg (by simp [h])]

theorem witness_ScratchAccessesTakeEffect :
    ((sP [v0]).arrives .perform [v0] false ∧ (sP [v0]).sTile .timed v0.v = .ok 1 ∧ (sP [v0]).sAway .timed v0.v = false ∧
      (sP [v0]).portTaken .timed true 1 (.plane 0) (sP [v0])) ∧
    ((sPt [v0]).arrives .perform [v0] false ∧ (sPt [v0]).sTile .timed v0.v = .ok 1 ∧
      (sPt [v0]).portTaken .timed true 1 (.plane 0) ((sPt [v0]).takePort 1 (.plane 0) true)) ∧
    ((sP [v0, v0]).arrives .perform [v0, v0] false ∧ (sP [v0, v0]).sTile .timed (v0.v + v0.v * BitVec.ofNat 64 (2 ^ 3)) = .ok 1 ∧
      (sP [v0, v0]).portTaken .timed true 1 (.plane 0) (sP [v0, v0])) ∧
    ((sP [v0, v0, v0]).arrives .perform [v0, v0, v0] false ∧ (sP [v0, v0, v0]).sTile .timed v0.v = .ok 1 ∧
      (sP [v0, v0, v0]).portTaken .timed true 1 (.plane 0) (sP [v0, v0, v0])) ∧
    (hS.place.form = .block ∧ (sBC [v0, v0, v0]).cur.phase = .commit ∧ (sBC [v0, v0, v0]).sTile .block 0 = .ok 1 ∧
      (sBC [v0, v0, v0]).sAway .block 0 = false) :=
  ⟨⟨⟨rfl, rfl, rfl⟩, rfl, rfl, port_timed _ _ _ _ _ rfl⟩, ⟨⟨rfl, rfl, rfl⟩, rfl, port_untimed _ _ _ _ _ rfl (by decide)⟩,
    ⟨⟨rfl, rfl, rfl⟩, rfl, port_timed _ _ _ _ _ rfl⟩, ⟨⟨rfl, rfl, rfl⟩, rfl, port_timed _ _ _ _ _ rfl⟩, rfl, rfl, rfl, by decide⟩

/-- Partition handle 0 maps to partition 0 of die 0, plain or versioned. -/
def sPart (vers : Bool) (s : State) : State :=
  { s with dram := Mem.empty.store 32 0x100 (bytesOfWord (if vers then 0x8000000000000100 else 0x8000000000000000)) false }

theorem witness_PartitionAccessesGoToTheirPartition :
    ((sPart false sT).inFull hT ∧ (sPart false sT).partOf 0 false 8 = .ok (0, 8) ∧ 8 % 2 ^ 3 = 0 ∧ (sPart false sT).pFull = false ∧
      (sPart false sT).extOut .timed + 1 ≤ 32) ∧
    ((sPart true sB).inFull hS ∧ (sPart true sB).partOf 0 true 32 = .ok (0, 32) ∧ 32 % 32 = 0 ∧ (0 : Word).bits 32 32 = 0) :=
  ⟨⟨⟨rfl, rfl, rfl⟩, rfl, by decide, by decide, by decide⟩, ⟨rfl, rfl, rfl⟩, rfl, by decide, by decide⟩

/-- A versioned word of which versions 1 and 2 are published. -/
def sVers (ph : Phase) (y : Val) : State :=
  { sT with vers := [(0, { np := 2, rc := 1 })], cur := { Issuer.init with phase := ph, ops := [v0, y, v0] } }

theorem witness_PartitionAccessesTakeEffect :
    (sP [v0, v0]).arrives .perform [v0, v0] false ∧ (sC [v0, v0, v0]).cur.phase = .commit ∧
    ((sVers .perform (Val.clean 2)).arrives .perform [v0, Val.clean 2, v0] false ∧
      ((sVers .perform (Val.clean 2)).versOf 0).rc < 2 ∧ 2 ≤ ((sVers .perform (Val.clean 2)).versOf 0).np ∧
      ((sVers .perform (Val.clean 2)).pdb.load 8 (0 + 8 * ((2 - 1) % 4)) 8).p = false) ∧
    ((sVers .commit (Val.clean 2)).arrives .commit [v0, Val.clean 2, v0] false ∧ (sVers .commit (Val.clean 2)).drained ∧
      ((sVers .commit (Val.clean 2)).versOf 0).np - ((sVers .commit (Val.clean 2)).versOf 0).rc < 4 ∧
      ((sVers .commit (Val.clean 2)).versOf 0).np < 2 ^ 32 - 1 ∧ (Val.clean 2).v.toNat ≤ ((sVers .commit (Val.clean 2)).versOf 0).np) ∧
    (sP [v0, v0, v0, v0]).arrives .perform [v0, v0, v0, v0] false :=
  ⟨⟨rfl, rfl, rfl⟩, rfl, ⟨⟨rfl, rfl, rfl⟩, by decide, by decide, by decide⟩, ⟨⟨rfl, rfl, rfl⟩, rfl, by decide, by decide, by decide⟩, rfl, rfl, rfl⟩

/-- A leaf at address 0 held by the queue cache of die 0. -/
def sTlb (s : State) : State :=
  { s with
    dcsr := [(0x8800, 1)]
    tlb := [{ die := 0, cache := 1, ctx := 0, va := 0, leaf := { pa := 0, size := 65536, w := true, pin := false }, locked := false }] }

/-- Queue 1 of the tile holds one beat. -/
def sDq : State := { sTlb sT with dqs := [(1, { slots := [(0, some (Val.clean 7))], live := 0 })] }

theorem witness_DeviceQueueInstructionsTakeEffect :
    (sDq.inFull hT ∧ (sDq.dq (sDq.dqKey .timed 1)).live = 0 ∧ (Val.clean 64).p = false ∧ (64 : Word).toNat < 2 ^ 48 ∧ (64 : Word).toNat % 64 = 0 ∧
      (sDq.reqs.filter (sDq.ofQueue .timed 1)).length < 32 ∧ (sDq.dq (sDq.dqKey .timed 1)).slots.length + 8 ≤ 64 ∧
      ((sDq.markFired .timed).dXlate .timed 64 64 false).1.toOption = some 64 ∧ ((sDq.markFired .timed).dXlate .timed 64 64 true).1.toOption = some 64) ∧
    ((sTlb sB).inFull hS ∧ (((sTlb sB).markFired .block).dXlate .block 64 64 true).1.toOption = some 64) ∧
    (sP [v0, v0]).arrives .perform ([v0] ++ [v0]) false ∧
    ((sDq.dq (sDq.dqKey .timed 1)).slots = [(0, some (Val.clean 7))] ∧
      (sDq.lowerUnfired (lsidNo (.dqpop hT (.row 0) 1)) fun i => match i with
        | .dqld _ _ _ _ q' => q' == 1
        | .dqpop _ _ q' => q' == 1
        | _ => false) = false) ∧
    (sDq.reqs.any fun r => r.store && (sDq.ofQueue .timed 1 r && r.who.earlier sDq.cur)) = false :=
  ⟨⟨⟨rfl, rfl, rfl⟩, by decide, by decide, by decide, by decide, by decide, by decide, by decide, by decide⟩,
    ⟨⟨rfl, rfl, rfl⟩, by decide⟩, ⟨rfl, rfl, rfl⟩, ⟨rfl, rfl⟩, rfl⟩

/-- A memory tile with a ring of four slots, slot 0 full, and channel 2 in use. -/
def chan0 : Chan :=
  { record := 0, port := 0, wr := false, left := none, ctr := [0, 0, 0, 0], next := 0, ctx := 0, handle := 0, timed := true }

def tileR : MemTile :=
  { MemTile.init with rings := [(0, { Ring.init with size := 4, full := [0] })], chans := [(2, chan0)] }

def sRing (s : State) : State := { s with tiles := [(1, tileR)], regions := [(0, regT)] }

theorem witness_SequencerAndRingInstructionsTakeEffect :
    (let s := sRing (sP [v0, v0])
     s.sTile .timed v0.v = .ok 1 ∧ s.sAway .timed v0.v = false ∧ s.atUnit .perform (.tile 1) ∧ s.arrives .perform [v0, v0] false ∧
      ((tileR.tokens.any fun t => t.1 == 0 && t.2.1 == 0) = false) ∧ tabFind tileR.chans 0 = none ∧ s.atUnit .commit (.tile 1)) ∧
    (let s := sRing (sP [v0])
     s.arrives .perform [v0] false ∧ (∀ c, s.portTaken .timed true 1 c s) ∧ ((s.ring 1 0).delta 3 < (s.ring 1 0).size) ∧
      (s.ring 1 0).size ≤ 1024 ∧ (s.ring 1 0).full.contains (3 % 4) = false ∧ s.drained ∧ (s.ring 1 0).holder = none ∧
      (s.ring 1 0).full.contains (0 % 4) = true) ∧
    (let s := sRing (sPt [v0])
     s.arrives .perform [v0] false ∧ s.portTaken .timed true 1 ((s.ring 1 0).claim none) (s.takePort 1 ((s.ring 1 0).claim none) true)) ∧
    (let s := sRing sB
     s.inFull hB ∧ s.src hB [.zero] .zero = v0 ∧ v0.v.bits 3 15 = 0 ∧ s.extOut .block + 1 ≤ 32 ∧ (s.ring 1 0).held = 0 ∧
      (s.ring 1 0).held < (s.ring 1 0).size ∧ s.sTile .block v0.v = .ok 1 ∧ s.sAway .block v0.v = false ∧
      (s.ring 1 0).full.contains (((s.ring 1 0).head.toNat + (s.ring 1 0).held) % (s.ring 1 0).size) = true ∧
      s.portFree 1 ((s.ring 1 0).claim none) = true) :=
  ⟨⟨rfl, rfl, .inl rfl, ⟨rfl, rfl, rfl⟩, rfl, rfl, .inr ⟨rfl, rfl⟩⟩,
    ⟨⟨rfl, rfl, rfl⟩, fun _ => port_timed _ _ _ _ _ rfl, by decide, by decide, by decide, rfl, rfl, by decide⟩,
    ⟨⟨rfl, rfl, rfl⟩, port_untimed _ _ _ _ _ rfl (by decide)⟩,
    ⟨⟨rfl, rfl, rfl⟩, rfl, by decide, by decide, by decide, by decide, rfl, by decide, by decide, by decide⟩⟩

theorem witness_AtomicsUpdateTheirElement :
    (let s := sP [v0, v0]
     s.sTile .timed v0.v = .ok 1 ∧ s.sAway .timed v0.v = false ∧ s.atUnit .perform (.tile 1) ∧ s.drained ∧ s.arrives .perform [v0, v0] false ∧
      (∀ c, s.portTaken .timed true 1 c s) ∧ (s.sRead 1 0 3 false).p = false ∧ (s.sRead 1 0 2 false).p = false) ∧
    ((sP [v0, v0, v0]).arrives .perform [v0, v0, v0] false ∧ (∀ c, (sP [v0, v0, v0]).portTaken .timed true 1 c (sP [v0, v0, v0])) ∧
      ((sP [v0, v0, v0]).sRead 1 0 3 false).p = false) ∧
    (let s := sBC [v0, v0]
     let c : Claim := .readHalf 0 1
     s.sTile .block v0.v = .ok 1 ∧ s.sAway .block v0.v = false ∧ s.atUnit .commit (.tile 1) ∧ s.drained ∧ s.arrives .commit [v0, v0] false ∧
      s.portTaken .block true 1 c (s.takePort 1 c true)) :=
  ⟨⟨rfl, rfl, .inl rfl, rfl, ⟨rfl, rfl, rfl⟩, fun _ => port_timed _ _ _ _ _ rfl, rfl, rfl⟩,
    ⟨⟨rfl, rfl, rfl⟩, fun _ => port_timed _ _ _ _ _ rfl, rfl⟩,
    ⟨rfl, by decide, .inr ⟨rfl, rfl⟩, rfl, ⟨rfl, rfl, rfl⟩, port_untimed _ _ _ _ _ rfl (by decide)⟩⟩

/-- Barrier slot 0 of tile 1 at phase 1, one arrival outstanding. -/
def tileBar : MemTile :=
  { MemTile.init with bars := [(0, { Bar.init with st := 1, phase := 1, pend1 := 1, posted1 := true })] }

def sBar (s : State) : State := { s with tiles := [(1, tileBar)], regions := [(0, regT)] }

theorem witness_BarrierInstructionsTakeEffect :
    (let s := sBar (sP [v0, Val.clean 2])
     s.sTile .timed v0.v = .ok 1 ∧ s.sAway .timed v0.v = false ∧ s.atUnit .perform (.tile 1) ∧ s.arrives .perform [v0, Val.clean 2] false ∧
      s.portTaken .timed true 1 .port s ∧ s.barWaited 1 0 = false ∧ s.drained ∧ (s.bar 1 0).st = 1) ∧
    (let br := (sBar (sP [v0, Val.clean 2])).bar 1 0;
     -(2 ^ 39 : Int) ≤ br.pend true - 1 ∧ br.pend true - 1 < 2 ^ 39 ∧ ((br.setPend true (br.pend true - 1) (br.posted true || false)).settle 3).st = 1) ∧
    (let s := sBar (sC [v0, v0])
     s.sTile .block v0.v = .ok 1 ∧ s.sAway .block v0.v = false ∧ s.atUnit .commit (.tile 1) ∧
      s.portTaken .block true 1 .port (s.takePort 1 .port true)) ∧
    ((sBar (sP [v0, v0])).arrives .perform [v0, v0] false ∧ ((sBar (sP [v0, v0])).bar 1 0).reached 0 = true) ∧
    (sBar (sP [v0])).arrives .perform [v0] false :=
  ⟨⟨rfl, rfl, .inl rfl, ⟨rfl, rfl, rfl⟩, port_timed _ _ _ _ _ rfl, rfl, rfl, rfl⟩, ⟨by decide, by decide, by decide⟩,
    ⟨rfl, by decide, .inr ⟨rfl, rfl⟩, port_untimed _ _ _ _ _ rfl (by decide)⟩, ⟨⟨rfl, rfl, rfl⟩, by decide⟩, rfl, rfl, rfl⟩

/-- Software counter 0 of context 0 at 5, its mark at 6. -/
def sCtr (s : State) : State := { s with counters := [(25, { Counter.init with v := 5, mark := some 6 })] }

/-- Its operand: KIND 3, INDEX 0. -/
def ctr0 : Word := 0x1800

theorem witness_TimelineFenceAndDrainTakeEffect :
    ((sCtr (sC [Val.clean ctr0, v0])).sends hB [.h 0, .h 1] 1 0 [Val.clean ctr0, v0] false (sCtr (sC [Val.clean ctr0, v0])) ∧
      ctr0.bits 11 3 = 3 ∧ counterIdx ctr0 = some 25 ∧ (sCtr (sC [Val.clean ctr0, v0])).drained) ∧
    (let s := sCtr (sR ctr0 5 0)
     s.inFull hT ∧ s.src hT [.row 0, .row 1] (.row 0) = Val.clean ctr0 ∧ s.src hT [.row 0, .row 1] (.row 1) = Val.clean 5 ∧
      (5 : Word).toNat ≤ (s.counter 25).v ∧ (∀ mk, (s.counter 25).mark = some mk → (5 : Word).toNat < mk) ∧ s.extOut .timed + 1 ≤ 32) ∧
    (sT.inFull hT ∧ sT.reqs = [] ∧ sT.replies = [] ∧ sT.cinvs = [] ∧ sB.inFull hB) :=
  ⟨⟨.inr ⟨⟨rfl, rfl⟩, rfl, rfl, rfl⟩, by decide, by decide, rfl⟩,
    ⟨⟨rfl, rfl, rfl⟩, rfl, rfl, by decide, fun mk h => by cases h; decide, by decide⟩, full_timed, rfl, rfl, rfl, full_block⟩

/-- The budget of die 0 has room for one grant of 2 of class 1. -/
def sPow (s : State) : State := { s with dcsr := [(0x8330, 0x0000000200000000), (0x8341, 2)] }

def sGrant : State := { sC [Val.clean 1] with grants := [(0, 0, 1)] }

theorem witness_TickAndPowerInstructionsTakeEffect :
    (sT.inFull hT ∧ sT.src hT [.zero] .zero = v0 ∧ sT.reached (wrapInt 48 (((0 : Word).toNat : Int) + (0 : BitVec 16).toInt)) = true ∧
      sT.curRegion.frozen = false ∧ sT.reached ((sT.stc.toNat + (0 : BitVec 16).toNat) % 2 ^ 48) = true) ∧
    ((sPow (sC [Val.clean 1])).sends hB [.h 0] 8 1 [Val.clean 1] false (sPow (sC [Val.clean 1])) ∧ powCheck [Val.clean 1] = none) ∧
    (let s := sPow (sR 1 0 0)
     s.inFull hT ∧ s.src hT [.row 0] (.row 0) = Val.clean 1 ∧ s.extOut .timed + 1 ≤ 32 ∧ powClass 1 ≠ 0 ∧ s.powDie 1 = 0 ∧ s.leaveAmt 0 1 = 2 ∧
      2 ≤ s.seeded 0 ∧ s.suse 0 + 2 ≤ s.seeded 0 ∧ s.powWaits 0 none = false ∧ s.powWaits 0 (some (s.prioOf s.cur, s.cycle)) = false) ∧
    (sGrant.sends hB [.h 0] 1 0 [Val.clean 1] false sGrant ∧
      sGrant.grants.contains (0, sGrant.powDie 1, powClass 1) = true) :=
  ⟨⟨full_timed, rfl, by decide, by decide, by decide⟩, ⟨.inr ⟨⟨rfl, rfl⟩, rfl, rfl, rfl⟩, by decide⟩,
    ⟨⟨rfl, rfl, rfl⟩, rfl, by decide, by decide, by decide, by decide, by decide, by decide, by decide, by decide⟩, .inr ⟨⟨rfl, rfl⟩, rfl, rfl, rfl⟩, by decide⟩

/-! ### Witnesses: futures, matrix and stream islands, collectives, jobs, groups, system -/

/-- The same of any state that a commit left with those operands. -/
theorem sends_of (s : State) (ops : List Val) (srcs : List Src) (lat ext : Nat) (hp : s.cur.phase = .commit) (ho : s.cur.ops = ops)
    (hq : s.cur.pois = false) : s.sends hB srcs lat ext ops false s :=
  .inr ⟨⟨rfl, hp⟩, ho.symm, hq.symm, rfl⟩

theorem releases_of (s : State) (ops : List Val) (srcs : List Src) (lat ext : Nat) (hp : s.cur.phase = .commit) (ho : s.cur.ops = ops)
    (hq : s.cur.pois = false) (hd : s.drained) : s.releases hB srcs lat ext ops false s :=
  ⟨sends_of s ops srcs lat ext hp ho hq, fun h => (nomatch h), hd⟩

/-- A task waits for the future at 8. -/
def sWaited (ops : List Val) : State :=
  { sC ops with tasks := [(1, tB), (2, { Task.init with st := .waiting, waitFut := some 8 })] }

/-- The future at 8 is set. -/
def sSet (ops : List Val) : State := { sC ops with dram := Mem.empty.store 32 8 (bytesOfNat 8 (2 ^ 63)) false }

theorem witness_FutureAndBranchInstructionsTakeEffect :
    ((sC [v0, v0, Val.clean 8]).sentTo hB [v0, v0] 8 false ∧ ((sC [v0, v0, Val.clean 8]).dLoad 8 8).v.bit 63 = false ∧
      ((sC [v0, v0, Val.clean 8]).tasks.any fun p => p.2.st == .waiting && p.2.waitFut == some 8) = false ∧
      (sC [v0, v0, Val.clean 8]).frecs = []) ∧
    ((sSet [v0, v0, Val.clean 8]).sentTo hB [v0, v0] 8 false ∧ ((sSet [v0, v0, Val.clean 8]).dLoad 8 8).v.bit 63 = true) ∧
    ((sWaited [v0, Val.clean 8]).sentTo hB [v0] 8 false ∧
      ((sWaited [v0, Val.clean 8]).tasks.any fun p => p.2.st == .waiting && p.2.waitFut == some 8) = true) ∧
    ((sTlb sB).inFull hB ∧ (sTlb sB).lent hB = false ∧ (sTlb sB).curBlk.exit = none ∧ (sTlb sB).src hB [.zero] .zero = v0 ∧
      (sTlb sB).src hB [.zero, .zero] .zero = v0 ∧ v0.v.bits 48 16 = 0 ∧ v0.v.toNat % 64 = 0 ∧
      ((sTlb sB).markFired .block).xlate 0 1 0 0 false = (.ok 0, (sTlb sB).markFired .block)) ∧
    (0 ≤ ((sB.curBlk.addr : Int) + 8 * (0 : BitVec 16).toInt) ∧ ((sB.curBlk.addr : Int) + 8 * (0x7FFF : BitVec 16).toInt) < 2 ^ 48) :=
  ⟨⟨⟨rfl, rfl, by decide, rfl, rfl⟩, by decide, by decide, rfl⟩, ⟨⟨rfl, rfl, by decide, rfl, rfl⟩, by decide⟩,
    ⟨⟨rfl, rfl, by decide, rfl, rfl⟩, by decide⟩, ⟨⟨rfl, rfl, rfl⟩, rfl, rfl, rfl, rfl, by decide, by decide, rfl⟩, by decide, by decide⟩

/-- A command's acceptance in its block's commit. -/
theorem accepts_of (s : State) (ops : List Val) (hp : s.cur.phase = .commit) (ho : s.cur.ops = ops) (hq : s.cur.pois = false) (hd : s.drained) :
    s.accepts hB ops false :=
  ⟨hp, ho, hq, hd⟩

/-- Matrix island 15 of die 0 in a state, its owner context 0. -/
def sMx (st : IslSt) (s : State) : State := { s with misls := [(15, { MIsl.init with st := st, owner := 0 })] }

theorem witness_MatrixCommandsJoinTheirQueue :
    (let ops := [Val.clean 15, v0, Val.clean 128]
     let s := sMx .owned (sC ops)
     s.accepts hB ops false ∧ (∀ o ∈ ops, o.p = false) ∧ (15 : Word).toNat < 16 ∧ (s.misl (s.mislKey (Val.clean 15))).ownedBy s.cur.ctx = true ∧
      (s.misl (s.mislKey (Val.clean 15))).queue.length < 16 ∧ tileBad 0 = false ∧ modeBad 0 = false ∧ rangeBad 0x7F00 false = false ∧
      rangeBad 0x7F00 true = false ∧ rowFirst 0x7F00 = 0 ∧ (128 : Word).bits 32 32 = 0 ∧ pBad 128 = false ∧ pOdd 128 = false) ∧
    (let s := sMx .owned (sR 15 0 128)
     s.inFull hT ∧ s.vals hT [.row 0, .row 1, .row 2] = [Val.clean 15, v0, Val.clean 128] ∧ s.roomFor .timed 1 ∧
      (s.misl (s.mislKey (Val.clean 15))).queue.length < 16) :=
  ⟨⟨accepts_of _ _ rfl rfl rfl rfl, by decide, by decide, by decide, by decide, by decide, by decide, by decide, by decide, by decide,
    by decide, by decide, by decide⟩, ⟨rfl, rfl, rfl⟩, rfl, .inr (by decide), by decide⟩

theorem witness_MatrixAnswersTakeEffect :
    (∀ st : IslSt, (sMx st (sC [Val.clean 15])).sends hB [.h 0] 8 1 [Val.clean 15] false (sMx st (sC [Val.clean 15])) ∧
      ((sMx st (sC [Val.clean 15])).misl 15).st = st) ∧
    (let ops := [Val.clean 15, Val.clean 127]
     let s := sMx .owned (sC ops)
     s.sends hB [.h 0, .h 1] 8 1 ops false s ∧ s.sysCtx s.cur.ctx s.cur.die = true ∧ (s.misl 15).phys 127 < 128) ∧
    (let s := sMx .owned (sR 15 127 0)
     s.queried hT [.row 0, .row 1] 8 1 [Val.clean 15, Val.clean 127] false (s.sent .timed 8 1 [Val.clean 15, Val.clean 127] false) ∧
      ((s.misl (s.mislKey (Val.clean 15))).queue.any fun c => c.ctx == s.cur.ctx) = false ∧
      (s.misl (s.mislKey (Val.clean 15))).ownedBy s.cur.ctx = true ∧ (127 : Word).toNat % 256 < 128 ∧ (127 : Word).toNat / 256 < 128) ∧
    (let s := { sC [Val.clean 15, Val.clean 5] with misls := [(15, { MIsl.init with colmap := [(5, 128)] })] }
     128 ≤ (s.misl 15).phys 5) :=
  ⟨fun _ => ⟨sends_of _ _ _ _ _ rfl rfl rfl, rfl⟩, ⟨sends_of _ _ _ _ _ rfl rfl rfl, by decide, by decide⟩,
    ⟨⟨⟨rfl, rfl, rfl⟩, .inr (by decide), rfl, rfl, rfl⟩, by decide, by decide, by decide, by decide⟩, by decide⟩

theorem witness_StreamCommandsTakeEffect :
    (let ops := [Val.clean 7, v0, Val.clean 4]
     let s := sPart false (sC ops)
     s.releases hB [.h 0, .h 1, .h 2] 8 1 ops false s ∧ s.accepts hB ops false ∧ (∀ o ∈ ops, o.p = false) ∧ islBad 7 [0, 1] false = false ∧
      s.streamFull (s.islKey (Val.clean 7)) = false ∧ (4 : Word).toNat % 4 = 0 ∧ (4 : Word).bits 29 35 = 0 ∧ sbindBad 7 0x300 4 = false ∧
      (s.pkgCsr (0x8400 + 4)).bits 34 6 = s.cur.ctx ∧ islBad 7 [] true = false ∧ islBad 7 [] false = false ∧ v0.v.toNat % 8 = 0 ∧
      s.partOf s.cur.ctx false v0.v = .ok (0, 0)) ∧
    (let s := sR 7 0 4
     s.inFull hT ∧ s.vals hT [.row 0, .row 1, .row 2] = [Val.clean 7, v0, Val.clean 4] ∧ s.roomFor .timed 1 ∧
      s.streamFull (s.islKey (Val.clean 7)) = false) ∧
    (sR 7 0 0).queried hT [.row 0] 8 1 ((sR 7 0 0).vals hT [.row 0]) false (sSent 7 0 0 8 1 ((sR 7 0 0).vals hT [.row 0])) :=
  ⟨⟨releases_of _ _ _ _ _ rfl rfl rfl rfl, accepts_of _ _ rfl rfl rfl rfl, by decide, by decide, by decide, by decide, by decide, by decide,
    by decide, by decide, by decide, by decide, rfl⟩, ⟨⟨rfl, rfl, rfl⟩, rfl, .inr (by decide), by decide⟩, queried_timed 7 0 0 [.row 0] 8⟩

theorem witness_CollectiveCommandsJoinTheirQueue :
    (let u := Val.clean 0x10300
     let ops := [u, v0, Val.clean 1]
     let s := sPart false (sC ops)
     s.accepts hB ops false ∧ s.ccCheck false true ops = none ∧ s.ccCheck false false [u, v0] = none ∧ s.ccCheck true false [u, v0] = none ∧
      (s.ccList s.cur.die).length < 16) ∧
    (let s := sPart false (sR 0x10300 0 1)
     s.inFull hT ∧ s.vals hT [.row 0, .row 1, .row 2] = [Val.clean 0x10300, v0, Val.clean 1] ∧ s.roomFor .timed 1 ∧
      s.ccCheck false true [Val.clean 0x10300, v0, Val.clean 1] = none) :=
  ⟨⟨accepts_of _ _ rfl rfl rfl rfl, by decide, by decide, by decide, by decide⟩, ⟨rfl, rfl, rfl⟩, rfl, .inr (by decide), by decide⟩

/-- Context 0 is ACTIVE. -/
def sAct (s : State) : State := { s with dcsr := [(0x8B80, BitVec.ofNat 64 (ctxActive * 2 ^ 60))] }

theorem witness_JobInstructionsTakeEffect :
    ((sC [v0, v0, Val.clean 64]).sentTo hB [v0, v0] 64 false) ∧
    (let s := { sC [] with dram := Mem.empty.store 32 4 (bytesOfNat 4 2) false }
     (s.dLoad (64 + 4) 4).v.toNat = 0 ∧ (s.dLoad 2 1).v.toNat = 0 ∧ 1 < (s.dLoad 4 4).v.toNat) ∧
    (let ops := [v0, Val.clean 1, v0]
     let s := sC ops
     s.releases hB [.h 0, .h 1, .h 2] 16 1 ops false s ∧ s.physDie s.cur.ctx (v0.v.bits 25 2) = s.cur.die ∧ (∀ o ∈ ops, o.p = false) ∧
      launchBad 0 1 0 false = false ∧ launchBad 0 0 0 true = false ∧ s.launchesOut 0 < 64) ∧
    (sAct (sC [v0])).ctxState 0 ≠ ctxFree ∧ (sAct (sC [v0])).ctxState 0 ≠ ctxEnding ∧ (sAct (sC [v0])).newHandle 0 = some 0 ∧
    (0 : Word).bit 24 = false ∧
    (identBad 0xFF 0 = false ∧ (sC [Val.clean 0xFF]).arrives .commit [Val.clean 0xFF] false ∧
      (sR 0xFF 0 0).inFull hT ∧ (sR 0xFF 0 0).vals hT [.row 0] = [Val.clean 0xFF] ∧ (sR 0xFF 0 0).roomFor .timed 1) ∧
    ((sR 0xFF 0 0).queried hT [.row 0] 8 1 ((sR 0xFF 0 0).vals hT [.row 0]) false (sSent 0xFF 0 0 8 1 ((sR 0xFF 0 0).vals hT [.row 0])) ∧
      (sR 0xFF 0 0).workNear 0 0 0 0xFF = ((sR 0xFF 0 0).markFired .timed).workNear 0 0 0 0xFF ∧ 5 ≤ ((sR 0xFF 0 0).workWord 0 0 0 0xFF).bits 60 4) :=
  ⟨⟨rfl, rfl, by decide, rfl, rfl⟩, ⟨by decide, by decide, by decide⟩, ⟨releases_of _ _ _ _ _ rfl rfl rfl rfl, by decide, by decide, by decide,
    by decide, by decide⟩, by decide, by decide, by decide, by decide, ⟨by decide, ⟨rfl, rfl, rfl⟩, ⟨rfl, rfl, rfl⟩, rfl, .inr (by decide)⟩,
    queried_timed 0xFF 0 0 [.row 0] 8, by decide, by decide⟩

/-- A group of four at descriptor 0, index 2 cancelled, `n` indices settled. -/
def grp4 (n : Nat) : Grp :=
  { num := 7, ctx := 0, rwd := 0, adv := 0, frames := 0, deadline := 9, eps := 0, g := 4, minc := 1, forks := 4, rew := [], canc := [2],
    settled := List.range n }

def sGrp (n : Nat) (s : State) : State := { sPart false s with groups := [(0, grp4 n)] }

theorem witness_GroupInstructionsTakeEffect :
    (let ops := [v0, Val.clean 63, Val.clean 0xFFFFFFFF]
     let s := sGrp 1 (sC ops)
     s.releases hB [.h 0, .h 1, .h 2] 16 1 ops false s ∧ s.gCheck ops (indexBad (Val.clean 63) || (0xFFFFFFFF : Word).bits 32 32 != 0) false = none ∧
      (s.gKey 0 v0).getD 0 / 2 ^ 21 / 48 = s.cur.die) ∧
    (let ops := [v0, v0, v0]
     let s := sPart false (sC ops)
     s.releases hB [.h 0, .h 1, .h 2] 16 1 ops false s ∧ s.gCheck ops (targetBad v0) (targetOdd v0) = none) ∧
    (let s := sGrp 1 (sC [v0, v0])
     s.sends hB [.h 0, .h 1] 16 1 [v0, v0] false s ∧ s.gCheck [v0, v0] (indexBad v0) false = none) ∧
    (let s := sGrp 1 (sC [v0])
     s.sends hB [.h 0] 16 1 [v0] false s ∧ s.gCheck [v0] false false = none) ∧
    (let s := sGrp 1 (sR 0 0 0)
     s.queried hT [.row 0] 8 1 [v0] false (s.sent .timed 8 1 [v0] false) ∧ s.gCheck [v0] false false = none ∧
      tabFind (s.sent .timed 8 1 [v0] false).groups 0 = some (grp4 1)) ∧
    tabFind ((sPart false (sR 0 0 0)).sent .timed 8 1 [v0] false).groups 0 = none ∧
    (let s := { sP [v0, v0, Val.clean 7] with groupEnds := [{ num := 7, status := 0, mask := 0, adv := [] }] }
     (s.groupEnds.find? fun e => e.num == 7).isSome = true ∧ s.arrives .perform [v0, v0, Val.clean 7] false) ∧
    ((grp4 4).active = false ∧ (grp4 1).active = true ∧ (grp4 1).g ≤ 4 ∧ 2 < (grp4 1).g ∧ (grp4 1).canc.contains 2 = true) :=
  ⟨⟨releases_of _ _ _ _ _ rfl rfl rfl rfl, by decide, by decide⟩, ⟨releases_of _ _ _ _ _ rfl rfl rfl rfl, by decide⟩,
    ⟨sends_of _ _ _ _ _ rfl rfl rfl, by decide⟩, ⟨sends_of _ _ _ _ _ rfl rfl rfl, by decide⟩,
    ⟨⟨⟨rfl, rfl, rfl⟩, .inr (by decide), rfl, rfl, rfl⟩, by decide, by decide⟩, by decide, ⟨by decide, rfl, rfl, rfl⟩, by decide⟩

/-- Tracing of context 0 is on. -/
def sTrace (ops : List Val) : State := { sC ops with dcsr := [(0x8E88, 1), (0x8E90, 1)] }

theorem witness_TrapAndSystemInstructionsTakeEffect :
    (sT.inFull hT ∧ sB.inFull hB ∧ sB.curTask.blk.isSome = true ∧ sT.csrCheck 1 false 0 = none ∧ sT.csrCheck 1 true 0 = none ∧
      (sT.src hT [.zero] .zero).p = false) ∧
    (sT.csrCheck 0x8020 false 0 = none ∧ (sR 0 0 0).queried hT [] 16 1 [] false (sSent 0 0 0 16 1 []) ∧ csrLat 0x8020 = 16) ∧
    ((sC [v0]).releases hB [.h 0] 8 0 [v0] false (sC [v0]) ∧ (sC [v0]).csrCheck 0x1030 true 0 = none ∧ csrLat 0x1030 = 8) ∧
    ((sC []).sends hB [] 1 0 [] false (sC []) ∧ (sC [Val.clean 1023]).sends hB [.h 0] 1 0 [Val.clean 1023] false (sC [Val.clean 1023]) ∧
      (1023 : Word).toNat < 1024) ∧
    ((sTrace [v0]).capState 0 = 1 ∧ ((sTrace [v0]).dcsrAt 0 0x8E90).bit 0 = true ∧ (sC [v0]).capState 0 ≠ 1) ∧
    ((sMx .free (sC [Val.clean 15])).sends hB [.h 0] 16 1 [Val.clean 15] false (sMx .free (sC [Val.clean 15])) ∧
      (sMx .free (sC [Val.clean 15])).sysCtx 0 0 = true ∧ ((sMx .free (sC [])).misl 15).lane = none ∧
      ((sMx .faulted (sC [])).misl 15).st = .faulted ∧ ({ MIsl.init with lane := some (0, 0) }).lane.isSome = true) ∧
    (sR 15 0 0).queried hT [.row 0] 16 1 ((sR 15 0 0).vals hT [.row 0]) false (sSent 15 0 0 16 1 ((sR 15 0 0).vals hT [.row 0])) :=
  ⟨⟨full_timed, full_block, rfl, by decide, by decide, rfl⟩, ⟨by decide, queried_timed 0 0 0 [] 16, by decide⟩,
    ⟨releases_commit [v0] [.h 0] 8 0, by decide, by decide⟩, ⟨sends_commit [] [] 1 0, sends_commit [Val.clean 1023] [.h 0] 1 0, by decide⟩,
    ⟨by decide, by decide, by decide⟩, ⟨sends_of _ _ _ _ _ rfl rfl rfl, by decide, rfl, rfl, rfl⟩, queried_timed 15 0 0 [.row 0] 16⟩
/-! ### Witnesses: tasks, arrivals, engines, regions -/

/-- A running task with no block, at an address. -/
def sTk (a : Nat) : State := { State.reset with tasks := [(1, { tB with blk := none, addr := a })] }

/-- Bytes at address 0 of device memory. -/
def sMem (ws : List Word) (s : State) : State := { s with dram := Mem.empty.store 32 0 (ws.map bytesOfWord).flatten false }

/-- A header of one word, and the word: an `exit`. -/
def hdr1 : Word := 0x000FE00000000000

def wExit : Word := 0xF80E100400000000

/-- A task whose block of no words has fired, with an exit to `n`. -/
def sDone (e : Option Exit) (n : Nat) : State :=
  { sB with tasks := [(1, { tB with blk := some { Blk.init with exit := e, addr := n } })] }

/-- A posted task of an ACTIVE context, and page 0 in the executor pool. -/
def sPosted : State :=
  { sAct (sTlb State.reset) with
    tasks := [(1, { Task.init with st := .posted })], pages := [(0, { FPage.init with st := .pool })],
    dcsr := [(0x8210, 1), (0x8800, 1), (0x8B80, BitVec.ofNat 64 (ctxActive * 2 ^ 60))] }

/-- A running task, and a posted one of its priority. -/
def sSlice : State :=
  { sAct State.reset with cycle := 50000, tasks := [(1, { tB with blk := none }), (2, { Task.init with st := .posted })] }

/-- A translation of page 0 in the front end's cache. -/
def sTlb2 (s : State) : State :=
  let e : TlbEnt := { die := 0, cache := 2, ctx := 0, va := 0, leaf := { pa := 0, size := 65536, w := true, pin := false }, locked := false }
  { s with tlb := e :: s.tlb }

/-- A card that has ended. -/
def sCard (g : Option (Nat × Nat)) : State :=
  let c : Card :=
    { ctx := 0, va := 64, graph := none, job := none, queue := 0, kind := 0, die := 0, prio := 0, pa := 64, launch := none, copy := none,
      sib := g, ended := some (1, 0), task := some 1, link := none }
  { sTlb2 (sTlb State.reset) with cards := [(1, c)] }

theorem witness_TaskEventsTakeEffect :
    (((sTk 0).task 1).tile.isSome = true ∧ ((sTk 0).task 1).st = .running ∧ ((sTk 0).task 1).blk = none) ∧
    2 ^ 48 ≤ ((sTk (2 ^ 48)).task 1).addr ∧ ((sTk 7).task 1).addr % 8 ≠ 0 ∧
    (∃ hw t, (sTlb (sTk 0)).fetchWords 0 0 0 1 = (.ok hw, t) ∧ decodeBhdr (hw.getD 0 0) = none) ∧
    (∃ hw t ws u, (sMem [hdr1, 0] (sTlb (sTk 0))).fetchWords 0 0 0 1 = (.ok hw, t) ∧ decodeBhdr (hw.getD 0 0) = decodeBhdr hdr1 ∧
      t.fetchWords 0 0 8 1 = (.ok ws, u) ∧ (decodeBhdr hdr1).map (fun h => blockOk h ws) = some false) ∧
    (∃ hw t ws u, (sMem [hdr1, wExit] (sTlb (sTk 0))).fetchWords 0 0 0 1 = (.ok hw, t) ∧ decodeBhdr (hw.getD 0 0) = decodeBhdr hdr1 ∧
      t.fetchWords 0 0 8 1 = (.ok ws, u) ∧ (decodeBhdr hdr1).map (fun h => blockOk h ws) = some true) ∧
    (∀ b, (sB.task 1).blk = some b → sB.blockDone b = true ∧ b.exit = none ∧ b.fall < 2 ^ 48) ∧
    (∀ b, ((sDone none (2 ^ 48 - 8)).task 1).blk = some b → (sDone none (2 ^ 48 - 8)).blockDone b = true ∧ 2 ^ 48 ≤ b.fall) ∧
    (∀ b, ((sDone (some (.to 0)) 0).task 1).blk = some b → (sDone (some (.to 0)) 0).blockDone b = true ∧ b.exit ≠ none) ∧
    (tileDie 0 = 0 ∧ (sPosted.nextPosted 0).isSome = true ∧ sPosted.taskOn 0 = none ∧ sPosted.isExecutor 0 = true ∧
      ∃ u, ({ sPosted.setPage 0 0 { sPosted.page 0 0 with lctx := 0, lv := true } with } : State).readFrame 1 0 = .ok u ∧
        (tabFind u.cards 0).bind Card.ended = none) ∧
    ((sSlice.task 1).st = .running ∧ (sSlice.task 1).requeue = none ∧ (sSlice.task 1).since + 50000 ≤ sSlice.cycle ∧
      ∃ p ∈ sSlice.tasks, sSlice.waitsOn p.2 = true ∧ p.2.die = (sSlice.task 1).dieNow ∧ p.2.prio = (sSlice.task 1).prio) ∧
    (((sCard (some (5, 0))).cards.find? fun p => p.2.ctx == 0 && p.2.va == (64 : Word).toNat && p.2.ended.isSome).isSome = true) ∧
    (((sCard none).cards.find? fun p => p.2.ctx == 0 && p.2.va == (64 : Word).toNat && p.2.ended.isSome).isSome = true ∧
      (∃ u, ({ sCard none with cards := tabDel (sCard none).cards 1 } : State).vStore 0 2 0 66 (bytesOfNat 1 1) false = .ok u) ∧
      (sCard none).taskOut 1 = false) := by
  refine ⟨⟨rfl, rfl, rfl⟩, by decide, by decide, ⟨_, _, rfl, by decide⟩, ⟨_, _, _, _, rfl, by decide, rfl, by decide⟩,
    ⟨_, _, _, _, rfl, by decide, rfl, by decide⟩, ?_, ?_, ?_, ⟨by decide, by decide, by decide, by decide, _, rfl, by decide⟩,
    ⟨by decide, by decide, by decide, _, .tail _ (.head _), by decide⟩, by decide, by decide, ⟨_, rfl⟩, by decide⟩
  · rintro b ⟨⟩
    decide
  · rintro b ⟨⟩
    decide
  · rintro b ⟨⟩
    exact ⟨by decide, nofun⟩


/-- An access of tile 0's place, come to its unit. -/
def req0 (p : ReqAt) : Req :=
  { at_ := 0, place := p, who := Issuer.init, i := .st hT (.row 0) (.row 1) false 0, store := true, seq := 0 }

def reply0 (m : Form) : Reply := { at_ := 0, tile := 0, who := Issuer.init, form := m, wrs := [], dsts := [], latch := none }

/-- A sequencer stream that has no beat left. -/
def sChanEnd : State := { State.reset with tiles := [(1, { MemTile.init with chans := [(0, { chan0 with left := some 0 })] })] }

/-- A D request that its channel has served; two that wait, one of a table's lane, in slot 1 of the frame, which that lane owns. -/
def reqD (served : Bool) (h : Nat) : Req := { req0 (.chan 0 0) with served := served, who := { Issuer.init with handle := h } }

def sArb : State :=
  { sT with
    cycle := 32, reqs := [reqD false 5, reqD false 0]
    regions := [(0, regT), (20, { regT with lane := some (0, 0) })]
    tabs := [(0, { slot := 0, dies := [0], st := .running, period := 10, owner := 0, lowpwr := false, slate := false, lanes := [], ents := [], alts := [],
                   arb := [(0, 0, 0, 2)], links := [], pins := [], startAt := 0, pos := 0, wrapped := false, periods := 0, ambers := 0, lastLane := 0,
                   overAt := none, ack := false, switch := none, job := none, phaseBad := none, phaseCount := 0, lastPhase := 0 })] }

theorem witness_ArrivalEventsTakeEffect :
    (∀ m, (({ State.reset with replies := [reply0 m] } : State).replies.find? fun r => r.tile == 0 && decide (r.at_ ≤ 0)) = some (reply0 m)) ∧
    sT.firstAt (.tile 1) [] [req0 (.tile 1)] = some (req0 (.tile 1)) ∧ sT.firstAt (.part 0) [] [req0 (.part 0)] = some (req0 (.part 0)) ∧
    ((reqD true 0).place = .chan 0 0 ∧ (reqD true 0).store = true ∧ (reqD true 0).served = true ∧ sT.asleep (reqD true 0) = false ∧
      sT.mustWait [] (reqD true 0) = false) ∧
    (let here (s : State) : List Req := s.reqs.filter fun r => !r.served && decide (r.at_ ≤ s.cycle) && (match r.place with
       | .chan _ c => c == 0
       | _ => false)
     (sT.cycle % 1024 / 32 = 0 ∧ sArb.cycle % 32 = 0 ∧ sArb.cycle % 1024 / 32 = 1 ∧ here { sArb with reqs := [reqD false 0] } = [reqD false 0]) ∧
     (here sArb = [reqD false 5, reqD false 0] ∧ sArb.slotOwner 0 1 = some (0, 0) ∧ sArb.reqLane (reqD false 5) = some (0, 0) ∧
       sArb.reqLane (reqD false 0) = none)) ∧
    tabFind (sChanEnd.tile 1).chans 0 = some { chan0 with left := some 0 } :=
  ⟨fun _ => rfl, by decide, by decide, by decide, by decide, rfl⟩

/-- A matrix command, and an island that holds it. -/
def mc (st : Bool) (i : Instr) : MCmd :=
  { num := 1, ctx := 0, i := i, b := 0, c := 0, started := st, header := none, next := 0, beats := [], out := [], fault := none, at_ := 0,
    admitted := false, done := false }

def mcZero : Instr := .mxzero hB (.h 0) (.h 0) (.h 0)

def mcStore : Instr := .mxmacStore hB (.h 0) (.h 0) (.h 0)

def sIsl (st : IslSt) (sp : List Nat) (c : MCmd) : State :=
  { State.reset with misls := [(0, { MIsl.init with st := st, owner := 0, queue := [c], spares := sp })] }

/-- A row of a product that is still in the array. -/
def row0 : MRow := { due := 9, row := 3, record := { bytes := [], pois := false }, tile := { index := 0, cols := [] } }

def mcFly : MCmd := { mc true mcStore with admitted := true, flight := [row0] }

/-- A stream command with a destination, and an island that holds it. -/
def sc (st : Bool) (e : Endp) (f : Option Nat) : SCmd :=
  { num := 1, ctx := 0, i := .sfill hB (.h 0) (.h 0) (.h 0), a := 0, b := 0, c := 0, ports := [Bound.none_, { port := 1, e := e, pat := none }],
    prio := 3, job := none, card := none, who := Issuer.init, lane := none, started := st, total := 64, got := 0, raw := [], units := 0,
    conv := 0, buf := [], sent := 0, stall := false, fault := f, cancelled := false, done := false }

def sStr (c : SCmd) : State := { sAct State.reset with sisls := [(0, { SIsl.init with cmds := [c] })] }

/-- A destination in memory with a pattern. -/
def scMem : SCmd :=
  { sc false .unbound none with ports := [Bound.none_, { port := 1, e := .mem 0 0, pat := some (List.replicate 12 0) }] }

/-- Channel 0 of port 0 takes frames of a type. -/
def sIngress : State := { State.reset with dcsr := [(0x8400, 0x100000800)] }

theorem witness_EngineEventsTakeEffect :
    (firstOf 2 [] [mc false mcZero] = some (mc false mcZero, []) ∧ ((sIsl .free [] (mc false mcZero)).misl 0).st = .free ∧
      ((sIsl .free [] (mc false mcZero)).mxCheck 0 (mc false mcZero)).isSome = true ∧
      (sIsl .owned [] (mc false mcZero)).mxCheck 0 (mc false mcZero) = none) ∧
    (let c : MCmd := { mc true mcZero with done := true }
     ((((sIsl .owned [] c).misl 0).queue.find? fun c => c.num == 1 && c.done && c.flight.isEmpty && decide (c.at_ ≤ 0)) = some c)) ∧
    (let s1 := (sIsl .owned [] (mc true mcZero)).setMisl 0 (((sIsl .owned [] (mc true mcZero)).misl 0).land 0)
     (((s1.misl 0).ready 0).findSome? fun c => if s1.pShut 0 c then none else s1.mxStep 0 c).isSome = true) ∧
    ((((sIsl .owned [] mcFly).misl 0).queue.findSome? fun c => c.flight.head?.map fun r => (c, r)) = some (mcFly, row0) ∧
      (List.range 128).find? (fun n => ((sIsl .owned [] mcFly).misl 0).phys n == 0) = some 0 ∧
      ((sIsl .owned [128] mcFly).retireCol 0 0 3 1).1 = true ∧ ((sIsl .owned [] mcFly).retireCol 0 0 3 1).1 = false) ∧
    ((((sStr (sc false .unbound none)).sisl 0).cmds.filter ((sStr (sc false .unbound none)).mayStart 0)) = [sc false .unbound none] ∧
      (∃ e, (sStr (sc false .unbound none)).strCheck (sc false .unbound none) = .error e)) ∧
    (∃ c b o, (sStr scMem).strCheck scMem = .ok c ∧ (c.port 1).e = .mem b o) ∧
    ((((sStr (sc true (.fabric 0 0) none)).turns 0).find? fun c => ((sStr (sc true (.fabric 0 0) none)).strStep 0 c).isSome).isSome = true) ∧
    (((sStr (sc true (.fabric 0 0) (some 1))).sisl 0).cmds.find? SCmd.finished).isSome = true ∧
    (State.reset.ethDown.contains 0 = false ∧ (∀ n < 8, (State.reset.pkgCsr (0x8400 + n)).bit 32 = false)) ∧
    ((sIngress.pkgCsr 0x8400).bit 32 = true ∧ (sIngress.pkgCsr 0x8400).bits 0 16 = 0x800 ∧ (frameRecord 0 0x800 0 [1, 2]).length ≤ 65536) := by
  refine ⟨⟨rfl, rfl, by decide, rfl⟩, by decide, by decide, ⟨by decide, by decide, by decide, by decide⟩, ⟨by decide, _, rfl⟩, ⟨_, _, _, rfl, rfl⟩,
    by decide, by decide, ⟨by decide, by decide⟩, by decide, by decide, by decide⟩

/-- A launch of an ACTIVE context whose configuration has been looked up. -/
def sQueued : State := { sAct State.reset with regions := [(0, { Region.init with st := .queued, ready := true })] }

/-- What the allocator looks at before it places. -/
def looked (s : State) : State :=
  let s1 := (s.waiting 0 fun q => !q.ready && decide (q.due ≤ s.cycle)).foldl (fun u e => u.prepare e.1 e.2 0) s
  let s2 := s1.grantLeaves 0 64
  (s2.waiting 0 fun q => q.ready && q.was == .ready).foldl (fun u e => u.goAhead e.1 e.2 0) s2

/-- A ready launch of two pages at the head, one FREE page beside a region, and one FREE page elsewhere. -/
def sCrowd : State :=
  { sAct State.reset with
    cycle := 10000
    regions := [(0, { Region.init with st := .queued, ready := true, setw := 2 }), (4, { Region.init with st := .running, px := 1 })]
    pages := (List.range 20).map (fun n => (n, { FPage.init with st := if n = 0 ∨ n = 19 then .free else .allocated, handle := if n = 1 then 1 else 2 }))
      ++ (List.range 44).map fun n => (20 + n, { FPage.init with st := .retired }) }

set_option maxRecDepth 8000 in
theorem witness_RegionEventsTakeEffect :
    tabFind (looked { sQueued with placed := [(0, 0)] }).placed 0 = some (looked { sQueued with placed := [(0, 0)] }).cycle ∧
    (∃ e o, tabFind (looked sQueued).placed 0 ≠ some (looked sQueued).cycle ∧ (∀ p, 1 ≤ p → p < 3 → (looked sQueued).line 0 p = []) ∧
      ((looked sQueued).line 0 3).head? = some e ∧
      (looked sQueued).findPlace 0 e.2.2.setw e.2.2.seth e.2.2.ports e.2.2.isl = some o ∧ ((looked sQueued).regionOn e.1 e.2.1 0).st ≠ .saved) ∧
    (∃ e o t, (sCrowd.line 0 3).head? = some e ∧ e.2.2.waitAt + 10000 ≤ sCrowd.cycle ∧ e.2.2.ready = true ∧ sCrowd.line 0 1 = [] ∧
      sCrowd.line 0 2 = [] ∧ (sCrowd.regions.any fun p => p.2.die == 0 && p.2.moving.isSome) = false ∧ e.2.2.setw * e.2.2.seth ≤
        ((List.range 64).filter fun n => (sCrowd.page 0 n).st == .free && !(sCrowd.page 0 n).retp).length ∧
      sCrowd.findPlace 0 e.2.2.setw e.2.2.seth e.2.2.ports e.2.2.isl = none ∧ sCrowd.compactPlace 0 e.2.2.setw e.2.2.seth = some o ∧
      sCrowd.clearRect 0 (rectPages o.1 o.2 e.2.2.setw e.2.2.seth) (sCrowd.onRect 0 o.1 o.2 e.2.2.setw e.2.2.seth) = some t) ∧
    (sT.movable (sT.regionOn 0 0 0) = true ∧ 7 + (sT.regionOn 0 0 0).setw ≤ 8 ∧ portsFit (sT.regionOn 0 0 0).ports (sT.regionOn 0 0 0).isl 7 7 = true ∧
      ((rectPages 7 7 1 1).all fun n => (sT.page 0 n).st == .free && !(sT.page 0 n).retp) = true) := by
  refine ⟨by decide, ⟨_, _, by decide, ?_, rfl, rfl, by decide⟩, ⟨_, _, _, rfl, by decide, rfl, rfl, rfl, by decide, by decide, rfl, rfl, rfl⟩,
    by decide, by decide, by decide, by decide⟩
  intro p h1 h2
  obtain rfl | rfl : p = 1 ∨ p = 2 := by omega
  · rfl
  · rfl

/-- A lane with a READY region of handle 5, and entry 0 of it. -/
def lane0 (run fall : Option Nat) : SLane :=
  { island := false, dies := [0], ctx := 0, safe := true, isl := 0, pages := [1, 0, 0, 0], broken := none, handle := 5, run := run, fall := fall,
    recl := false }

def ent0 (test mcp : Bool) : SEnt :=
  { start := 0, deadline := 5, cfg := 0, lane := 0, trips := 1, fallback := 0, leave := 0, lead := 2, stepmax := 0, mcp := mcp, test := test,
    lend := false, nofb := true, nocfg := false }

def stab0 (slot : Nat) (st : TabSt) (x : SLane) (e : SEnt) (sw : Option Nat) : STab :=
  { slot := slot, dies := [0], st := st, period := 10, owner := 0, lowpwr := false, slate := false, lanes := [x], ents := [e], alts := [],
    arb := [], links := [], pins := [], startAt := 0, pos := 0, wrapped := false, periods := 0, ambers := 0, lastLane := 0, overAt := none,
    ack := false, switch := sw, job := none, phaseBad := none, phaseCount := 0, lastPhase := 0 }

/-- A table in slot 0 and an INSTALLED one in slot 1; the timebase runs. -/
def sTab (st : RegSt) (t : TabSt) (x : SLane) (e : SEnt) (sw : Option Nat) : State :=
  { State.reset with
    tabs := [(0, stab0 0 t x e sw), (1, stab0 1 .installed (lane0 none none) (ent0 false false) none)]
    regions := [(20, { Region.init with st := st, image := [0] })]
    tb := { Timebase.init with run := true, lock := true, tick := 5 } }

theorem witness_TableEventsTakeEffect :
    ({ Timebase.init with sentHold := true }.sentHold = true ∧ State.reset.tb.sentHold = false ∧
      (1 < (sTab .ready .running (lane0 none none) (ent0 false false) none).tb.tick) ∧
      (sTab .ready .running (lane0 none none) (ent0 false false) none).tb.lock = true) ∧
    (∃ k t, (sTab .ready .armed (lane0 none none) (ent0 false false) none).tableOn? 0 0 = some (k, t) ∧ t.st = .armed ∧
      (sTab .ready .armed (lane0 none none) (ent0 false false) none).tb.run = true ∧
      t.startAt ≤ (sTab .ready .armed (lane0 none none) (ent0 false false) none).stc.toNat) ∧
    (∃ k t x, (sTab .running .running (lane0 (some 0) none) (ent0 false false) none).tableOn? 0 0 = some (k, t) ∧
      t.ents[0]? = some (ent0 false false) ∧ t.runs = true ∧ t.lanes[(ent0 false false).lane]? = some x ∧ x.run = some 0 ∧
      (sTab .running .running (lane0 (some 0) none) (ent0 false false) none).laneReady x = false) ∧
    (∃ k t x, (sTab .ready .running (lane0 none (some 0)) (ent0 false false) none).tableOn? 0 0 = some (k, t) ∧
      t.lanes[(ent0 false false).lane]? = some x ∧ x.fall.isSome = true) ∧
    (∀ test, ∃ k t t0 x,
      let s := sTab .ready .running (lane0 none none) (ent0 test false) none
      let s0 := (s.closePeriod 0).onTab 0 fun t => t.onLane (ent0 test false).lane fun x => { x with recl := false }
      s.tableOn? 0 0 = some (k, t) ∧ tabFind s0.tabs 0 = some t0 ∧ t0.runs = true ∧
      t0.ents[0]? = some (ent0 test false) ∧ t0.lanes[(ent0 test false).lane]? = some x ∧ t0.pos = (ent0 test false).start ∧
      (ent0 test false).nocfg = false ∧ x.broken = none ∧ ((s0.reclaim t0 0 2).laneLaunch 0 x 0 1 0).1 = none) ∧
    (∀ sw ∈ [none, some 1], ∃ t0 m, tabFind ((sTab .ready .running (lane0 none none) (ent0 false true) sw).closePeriod 0).tabs 0 = some t0 ∧
      (t0.ents.find? fun e => e.mcp && e.start == t0.pos) = some m ∧ t0.switch = sw ∧
      (t0.dies.any fun d => decide (85 < (((sTab .ready .running (lane0 none none) (ent0 false true) sw).closePeriod 0).pointSteps 0 t0
        m.stepmax).caseTemp d)) = false ∧
      ((((sTab .ready .running (lane0 none none) (ent0 false true) sw).closePeriod 0).pointSteps 0 t0 m.stepmax).tabs.find? fun e =>
        e.2.slot == 1 && e.2.dies == t0.dies && e.2.st == .installed).isSome = true) := by
  refine ⟨⟨rfl, rfl, by decide, rfl⟩, ⟨_, _, rfl, rfl, rfl, by decide⟩, ⟨_, _, _, rfl, rfl, rfl, rfl, rfl, by decide⟩, ⟨_, _, _, rfl, rfl, rfl⟩,
    fun test => ⟨_, _, _, _, rfl, rfl, rfl, rfl, rfl, rfl, rfl, rfl, rfl⟩, ?_⟩
  simp only [List.mem_cons, List.not_mem_nil, or_false]
  rintro sw (rfl | rfl) <;> exact ⟨_, _, rfl, rfl, rfl, by decide, by decide⟩

/-- Context 0 in a state, with a rung of its ladder, and a running region when `w`. -/
def sCtx (st rung : Nat) (w : Bool) : State :=
  { State.reset with
    dcsr := [(0x8B80, BitVec.ofNat 64 (st * 2 ^ 60))], ladders := [(0, { rung := rung, since := 0 })], cycle := 1000000,
    regions := if w then [(0, regT)] else [] }

theorem witness_ContextEventsTakeEffect :
    (∀ r ∈ [1, 2], (sCtx ctxSaving r true).ctxState 0 = ctxSaving ∧ (sCtx ctxSaving r true).workLeft 0 = true ∧
      ((sCtx ctxSaving r true).ladder 0).rung = r ∧
      ((sCtx ctxSaving r true).ladder 0).since + ((sCtx ctxSaving r true).pkgCsr 0x8A10).toNat ≤ (sCtx ctxSaving r true).cycle ∧
      ((sCtx ctxSaving r true).ladder 0).since + ((sCtx ctxSaving r true).pkgCsr 0x8A18).toNat ≤ (sCtx ctxSaving r true).cycle) ∧
    (((sCtx ctxSaving 1 true).drainOwn 0).ctxStops 0 = false ∧ ((sCtx ctxSaving 2 true).drainOwn 0).ctxStops 0 = true) ∧
    ((sCtx ctxRestoring 0 false).ctxState 0 = ctxRestoring ∧ (sCtx ctxRestoring 0 false).islSaves = [] ∧ (sCtx ctxRestoring 0 false).owed = [] ∧
      ((sCtx ctxRestoring 0 false).ownRegions 0 fun r => r.st == .saved) = []) ∧
    (sCtx ctxEnding 0 false).ctxState 0 = ctxEnding := by
  decide
/-! ### Witnesses: queues and packets -/

/-- Queue 0 of ACTIVE context 0: its ring of four slots at virtual address 0x100, the last byte of its `QSTAT`, and the bytes of a packet
in slot 0. -/
def sQ (stat : Byte) (run : QRun) (pkt : List Host.Cell) : State :=
  let desc : List Host.Cell := [(0x200001, 1), (0x200008, 0x80), (0x200010, 2), (0x200013, 3), (0x200014, 1), (0x200015, 1), (0x20001F, stat),
    (0x200028, 10)]
  { State.reset with
    dcsr := [(0x8800, 1), (0x8A00, 0x200001), (0x8B80, 0x1000000000000000)], queues := [(0, run)], cycle := 2000000,
    tlb := (sTlb2 State.reset).tlb, dram := { cells := pkt ++ desc, pois := [] } }

/-- READY and resident, READY without a slot, WAITING. -/
def qReady : Byte := 0x12

def qOut : Byte := 0x10

def qWait : Byte := 0x23

/-- A NOP packet of the queue's first pass. -/
def nop0 : List Host.Cell := [(0x101, 1), (0x102, 1)]

/-- A wait for counter 25 to reach n. -/
def wait0 (n : Word) : QRun := { QRun.init with wait := some { kind := 0, level := 0, target := ctr0, n := n, hdr := 0x10104 } }

/-- Queue 0 DEMOTED and asking for a slot, and 64 idle queues that hold one. -/
def sFullQ : State :=
  { sQ qOut QRun.init nop0 with
    queues := (0, { QRun.init with ask := true }) :: (List.range 64).map fun n => (n + 1, QRun.init)
    dram := { cells := (List.range 65).map fun n => (0x20001F + 512 * n, if n = 0 then 0x30 else 0x12), pois := [] } }

/-- A wait that has stood for 1 ms. -/
def sStall : State := { sQ qWait (wait0 9) nop0 with stalls := [(0, 0)] }

theorem witness_QueueEventsTakeEffect :
    (((sQ qReady { QRun.init with pub := some 0 } []).qRun 0).pub = some 0 ∧
      (sQ qReady { QRun.init with pub := some 0 } []).qState 0 = qsReady ∧
      ((sQ qReady { QRun.init with pub := some 0 } []).qField 0 0x28 4).toNat = 10 ∧
      (sQ qReady { QRun.init with pub := some 0 } []).published 0 = false) ∧
    ((sQ qOut QRun.init nop0).asks 0 = true ∧ ((sQ qOut QRun.init nop0).residents ((sQ qOut QRun.init nop0).qDie 0)).length < 64) ∧
    (tabFind sStall.stalls 0 = some 0 ∧ sStall.stalled 0 = true ∧ sStall.cycle = 2000000) ∧
    (((sQ qWait (wait0 0) nop0).qRun 0).wait.isSome = true ∧ (sQ qWait (wait0 0) nop0).qState 0 = qsWaiting ∧
      (sQ qWait (wait0 0) nop0).resident 0 = true) ∧
    ((sQ qWait (wait0 0) nop0).waitHolds 0 { kind := 0, level := 0, target := ctr0, n := 0, hdr := 0x10104 }).toOption = some true ∧
    ((sQ qWait (wait0 0) nop0).waitHolds 0 { kind := 0, level := 0, target := 0x40, n := 0, hdr := 0x10104 }).toOption = none :=
  ⟨by decide, by decide, ⟨rfl, by decide, rfl⟩, by decide, rfl, rfl⟩

theorem toDemote_isSome (s : State) (die q : Nat) (h : q ∈ (s.residents die).filter s.idleQueue) : (s.toDemote die).isSome = true := by
  unfold State.toDemote
  have key : ∀ (l : List Nat) (acc : Option Nat), (acc.isSome = true ∨ l ≠ []) → (l.foldl (fun (acc : Option Nat) q => match acc with
      | none => some q
      | some a => if (s.qRun q).idle < (s.qRun a).idle then some q else acc) acc).isSome = true := by
    intro l
    induction l with
    | nil => rintro acc (h | h) <;> simp_all
    | cons a r ih =>
      intro acc _
      refine ih _ (.inl ?_)
      cases acc with
      | none => rfl
      | some b => dsimp only; split <;> rfl
  exact key _ _ (.inr (List.ne_nil_of_mem h))

theorem witness_QueueEventsTakeEffect_residents : 64 ≤ (sFullQ.residents 0).length ∧ sFullQ.asks 0 = true := by
  decide +kernel

theorem witness_QueueEventsTakeEffect_demotion : (sFullQ.toDemote (sFullQ.qDie 0)).isSome = true :=
  toDemote_isSome _ _ 1 (List.mem_filter.2 ⟨List.mem_map.2 ⟨(1, QRun.init), List.mem_filter.2 ⟨.tail _ (.head _), by decide⟩, rfl⟩, by decide⟩)

/-- A packet of type `t`, with bytes of its body and of what it names. -/
def pk (t : Byte) (ws : List Host.Cell) : List Host.Cell := (if t = 0 then [] else [(0x100, t)]) ++ [(0x101, 1), (0x102, 1)] ++ ws

/-- The READY queue 0 with that packet published; the state once the packet has been read; the packet. -/
def sPk (p : List Host.Cell) : State := sQ qReady QRun.init p

def peeked (p : List Host.Cell) : State := ((sPk p).qPeek 0).2

def readWs (p : List Host.Cell) : Option (List Word) := ((sPk p).qPeek 0).1.toOption.bind id

def pkt (p : List Host.Cell) : Pkt := { hdr := ((readWs p).getD []).getD 0 0, ws := ((readWs p).getD []).drop 1 }

/-- What every packet's clause asks first. -/
def dispatches (t : Nat) (p : List Host.Cell) : Bool :=
  (sPk p).mayDispatch 0 && (readWs p).isSome && ((peeked p).headBad 0 (pkt p)).isNone && (pkt p).typ == t && !unusedSet (pkt p) t
    && (peeked p).openJobs 0 == []

def pkLaunch : List Host.Cell := pk 1 [(0x110, 1)]

def pkCopy (op : Byte) : List Host.Cell := pk 3 [(0x108, op), (0x110, 7)]

def pkWait (kind n : Byte) : List Host.Cell := pk 4 [(0x108, kind), (0x111, 0x18), (0x118, n)]

def pkTable (w : List Host.Cell) : List Host.Cell := pk 7 w

/-- The image of a table with one island lane and one self-test entry, at 0x200. -/
def imgCells : List Host.Cell :=
  [(0x200, 0x51), (0x201, 0x5a), (0x202, 0x53), (0x203, 0x54), (0x204, 0x1), (0x206, 0x1), (0x207, 0x1), (0x208, 0x64), (0x20c, 0x1),
    (0x210, 0x1), (0x214, 0xb0), (0x218, 0x1), (0x219, 0x32), (0x21a, 0x60), (0x21b, 0xcc), (0x220, 0x60), (0x224, 0x40), (0x228,
    0xa0), (0x22c, 0x10), (0x230, 0xb0), (0x238, 0xb0), (0x240, 0xb0), (0x248, 0xb0), (0x250, 0xb0), (0x258, 0xb0), (0x260, 0x1),
    (0x261, 0x1), (0x2a2, 0x31), (0x2a8, 0x48)]

/-- What that LAUNCH asks of the dispatcher. -/
def launch0 : LaunchReq :=
  { ctx := 0, op := 0, n := 1, recAddr := 0, isSeq := false, die := 0, prio := 3, queue := 0, job := some 0, graph := none, card := none,
    inl := none }

theorem witness_PacketsTakeEffect_nop_launch :
    dispatches 0 (pk 0 []) = true ∧ dispatches 1 pkLaunch = true ∧ (peeked pkLaunch).launchCode 0 (pkt pkLaunch) = none ∧
      ((peeked pkLaunch).qRun 0).retry = 0 ∧ (peeked pkLaunch).cinvs = [] ∧ ((peeked pkLaunch).openJob 0 (pkt pkLaunch)).isSome = true ∧
      ((peeked pkLaunch).accept launch0).1 = 0 := by
  decide +kernel

theorem witness_PacketsTakeEffect_copy :
    (dispatches 3 (pkCopy 0xD0) = true ∧ (copyInstr 0xD0 0 0).isSome = true ∧
      (copyInstr 0xD0 0 0).map (fun i => (peeked (pkCopy 0xD0)).copyCode 0 i 7 0 0) = some none) ∧
    (dispatches 3 (pkCopy 0xD1) = true ∧ (copyInstr 0xD1 0 0).map (fun i => (peeked (pkCopy 0xD1)).copyCode 0 i 7 0 0) = some none ∧
      (peeked (pkCopy 0xD1)).streamFull 7 = false ∧ ((peeked (pkCopy 0xD1)).openJob 0 (pkt (pkCopy 0xD1))).isSome = true) := by
  decide +kernel

theorem witness_PacketsTakeEffect_wait_signal_fence :
    (dispatches 4 (pkWait 0 0) = true ∧ (counterIdx ctr0).isSome = true ∧
      ((peeked (pkWait 0 0)).waitHolds 0 { kind := 0, level := 0, target := ctr0, n := 0, hdr := 0x10104 }).toOption = some true) ∧
    (dispatches 4 (pkWait 1 9) = true ∧ (peeked (pkWait 1 9)).vaBad 0 0x1800 8 8 false = none ∧
      ((peeked (pkWait 1 9)).waitHolds 0 { kind := 1, level := 0, target := 0x1800, n := 9, hdr := 0x10104 }).toOption = some false) ∧
    identBad 0xFF 0 = false ∧
    (dispatches 5 (pk 5 [(0x111, 0x18)]) = true ∧ (0x1800 : Word).bits 11 3 = 3 ∧
      ((peeked (pk 5 [(0x111, 0x18)])).vStore 0 2 0 64 (bytesOfWord 5) false).isOk = true) ∧
    (dispatches 6 (pk 6 [(0x108, 0x14)]) = true) := by
  decide +kernel

theorem witness_PacketsTakeEffect_table :
    (dispatches 7 (pk 7 [(0x111, 2)]) = true ∧ (peeked (pk 7 [(0x111, 2)])).tableCode 0 (pkt (pk 7 [(0x111, 2)])) = none ∧
      ((peeked (pk 7 [(0x111, 2)])).readTable 0 0 0x200).1.isSome = true) ∧
    (((peeked (pk 7 ((0x111, 2) :: imgCells))).readTable 0 0 0x200).1.map fun img =>
      let dies := (zstTab img 0).dies
      let s3 := dies.foldl (fun u d => u.allocate d) ((peeked (pk 7 ((0x111, 2) :: imgCells))).readTable 0 0 0x200).2
      (s3.install 0 img).isOk && !(dies.any fun d => tabFind s3.placed d == some s3.cycle)) = some true ∧
    (dispatches 7 (pk 7 [(0x108, 1)]) = true) := by
  decide +kernel

theorem witness_PacketsTakeEffect_mode_graph_cancel :
    (dispatches 8 (pk 8 [(0x110, 2)]) = true ∧ dispatches 8 (pk 8 [(0x108, 1)]) = true) ∧
    (dispatches 9 (pk 9 [(0x108, 64)]) = true ∧ (peeked (pk 9 [(0x108, 64)])).vaBad 0 64 64 64 true = none ∧
      ((peeked (pk 9 [(0x108, 64)])).xlate 0 2 0 64 true).1.isOk = true) ∧
    (dispatches 11 (pk 11 [(0x110, 8)]) = true ∧ dispatches 11 (pk 11 []) = true) := by
  decide +kernel

theorem witness_DeltaAndDebugPacketsTakeEffect :
    (dispatches 2 (pk 2 []) = true ∧ deltaBad (pkt (pk 2 [])) = false ∧ ((pkt (pk 2 [])).w 1).bit 40 = false) ∧
    (dispatches 10 (pk 10 [(0x120, 4)]) = true ∧ (peeked (pk 10 [(0x120, 4)])).debugCode 0 (pkt (pk 10 [(0x120, 4)])) = none ∧
      ((peeked (pk 10 [(0x120, 4)])).dbgAttach 0 0 0 4).isOk = true) ∧
    (dispatches 10 (pk 10 [(0x108, 7)]) = true ∧ (peeked (pk 10 [(0x108, 7)])).debugCode 0 (pkt (pk 10 [(0x108, 7)])) = none) := by
  decide +kernel

theorem witness_BadHeadersStopTheirQueue :
    ((sPk (pk 0 [])).mayDispatch 0 = true ∧ (readWs (pk 0 [])).isSome = true) ∧
    (((peeked (pk 0 [])).qField 0 0x14 1).toNat < (pkt [(0x101, 2), (0x102, 1)]).ver) ∧
    (pkt (pk 12 [])).typ = 12 ∧ (pkt ((pk 0 []).map fun c => if c.1 = 0x102 then (c.1, 3) else c)).hdr.bit 17 = true := by
  decide +kernel
/-! ### Witnesses: control registers, groups, collectives, links, boot -/

/-- The queue table is on and queue 0's descriptor holds `cells`; no queue is enabled. -/
def sDesc (cells : List Host.Cell) : State :=
  { State.reset with dcsr := [(0x8A00, 0x200001)], dram := { cells := cells, pois := [] } }

/-- A descriptor with its version alone: its priority is out of range; and a valid one. -/
def descVer : List Host.Cell := [(0x200014, 1)]

def descOk : List Host.Cell := [(0x200010, 2), (0x200013, 3), (0x200014, 1)]

/-- Context 0 in a state, two shadow units reserved for it. -/
def sCs (st : Nat) : State :=
  { State.reset with dcsr := [(0x8B40, 0x21), (0x8B80, BitVec.ofNat 64 (st * 2 ^ 60)), (0x8BC0, 0xFF)] }

theorem witness_QueueAndContextControlTakesEffect :
    ((sDesc []).tableOn = true ∧ tabFind (sDesc []).queues 0 = none ∧ ((sDesc []).qField 0 0x14 1).toNat = 0) ∧
    (((sDesc descVer).qField 0 0x14 1).toNat = 1 ∧ (sDesc descVer).descBad 0 = true ∧ (sDesc descOk).descBad 0 = false) ∧
    (({ State.reset with agenda := [.stage 9] } : State).agenda.any Act.isStage = true ∧ (sPk []).agenda.any Act.isStage = false ∧
      (tabFind (sPk []).queues 0).isSome = true) ∧
    ((sQ 0x62 QRun.init []).qState 0 = qsError ∧ (sQ 0x62 QRun.init []).qRdx 0 = ((sQ 0x62 QRun.init []).qRun 0).stopAt) ∧
    (sQ 0x42 QRun.init []).qState 0 = qsPaused ∧ (sQ 0x30 QRun.init []).qState 0 = qsDemoted ∧
    ((sCs ctxFree).ctxState 0 = ctxFree ∧ ((sCs ctxFree).ctxSave 0).bit 0 = true ∧ 2 ≤ ((sCs ctxFree).ctxSave 0).bits 4 8) ∧
    ((sCs ctxActive).ctxState 0 = ctxActive ∧ (sCs ctxSaved).ctxState 0 = ctxSaved ∧
      (∀ i < 4, (sCs ctxSaved).downDies.contains (0xE4 / 4 ^ i % 4) = false)) ∧
    ((0x0100000000000021 : Word).bits 56 8 ≤ 23 ∧ ∀ d < 4, ((List.range 64).filter fun c => c != 0).foldl (fun n c =>
      n + quotaBytes ((sCs ctxFree).ctxSave c)) 0 + quotaBytes 0x0000000000000021 ≤ (sCs ctxFree).poolBytes d) ∧
    ((sCs ctxEnding).ctxState 0 = ctxEnding ∧ (sPk []).qState 0 ≠ qsPaused ∧ (sPk []).qState 0 ≠ qsError) := by
  decide +kernel

/-- A channel is being copied, and a page lies in the executor pool. -/
def sChan : State := { State.reset with dcsr := [(0x8720, 0x100000001)], pages := [(1, { FPage.init with st := .pool })] }

theorem witness_ControlWritesTakeEffect :
    (State.reset.tb.run = false ∧ ({ sChan with dcsr := [(0x8320, 2000)] } : State).tb.time + 2000 ≤
      (({ sChan with dcsr := [(0x8320, 2000)] } : State).pkgCsr 0x8320).toNat) ∧
    (([{ at_ := 0, ctx := 0, handle := none, who := Issuer.init }] : List CfgInv).find? fun c => decide (c.at_ ≤ 0)).isSome = true ∧
    (([{ at_ := 0, ctx := 0, va := none }] : List VmInv).find? State.reset.vinvDue).isSome = true ∧
    ((2 ^ 49 : Word).bit 49 = true ∧ (2 ^ 49 : Word).bits 3 45 * 8 < 2 ^ 40) ∧
    ((0 : Word).bit 49 = false ∧ ((sPk []).xlate 0 2 ((0 : Word).bits 50 6) ((0 : Word).bits 3 45 * 8) true).1.isOk = true) ∧
    (((2 : Word).bit 0 = false ∧ (sChan.page 0 0).st = .free ∧ (1 : Word).bit 0 = true) ∧ (1 : Word).bit 1 = false ∧ (sChan.page 0 1).st = .pool) ∧
    (sChan.dcsrAt 0 0x8720).bits 32 16 ≠ 0 ∧
    (({ sChan with dcsr := [(0x8040, 2)] } : State).pkgCsr 0x8040).bit 1 = true := by
  decide +kernel

theorem witness_CsrWritesTakeEffect :
    ((State.reset.lnkState peer0 = lnkOff ∧ State.reset.lnkState peer1 = lnkOff) ∧ (0x101 : Word).bits 4 3 ≤ (0x101 : Word).bits 8 3) ∧
    (countBits 48 ((0xFFFFFF : Word).bits 0 48) ≤ 24 ∧ ∀ c < 64, (State.reset.ctxSave c).bit 0 = false) ∧
    (State.reset.ccache.any fun c => c.die == 0 && State.reset.copyUsed c) = false ∧
    ((State.reset.dcsrAt 0 0x8330).bits 16 16 ≤ (0 : Word).bits 48 16 ∧ State.reset.suse 0 ≤ (0 : Word).bits 32 16) ∧
    (let amt (c : Nat) : Nat := if c = 0x8341 - 0x8340 then (7 : Word).bits 0 16 else State.reset.leaveAmt 0 c
     State.reset.timedUse 0 amt ≤ State.reset.timed 0 ∧ State.reset.seededUse 0 amt ≤ State.reset.seeded 0) ∧
    (ctr0.bits 16 48 = 0 ∧ counterIdx ctr0 = some 25) ∧
    (ctxCsr 0x1020 = true ∧ ctxCsr 0x8700 = false ∧ devCsr 0x8700 = true ∧ rwMask 0x8700 ≠ 0) ∧
    (0xFF00043800 % 8 = 0 ∧ hostCsr 0xFF00043800 = some (0, 64, 0x8700) ∧ hostNamed 64 0x8700 = true ∧ 0xFF00043801 % 8 ≠ 0) ∧
    (hostDie 0xFF00043800 = some 0 ∧ hostDie 0xFF00043801 = some 0 ∧ hostDie 0xFF00400000 = none ∧ hostDie 0x3BFFFFFFFF = some 3 ∧
      hostDie 0x3C00000000 = some 4 ∧
      ({ State.reset with dcsr := [(0x8602, BitVec.ofNat 64 (lnkUp * 2 ^ 60))] } : State).lnkState 2 = lnkUp ∧
      ({ State.reset with dcsr := [(0x8602, BitVec.ofNat 64 (lnkFailed * 2 ^ 60))] } : State).lnkState 2 = lnkFailed) := by
  decide +kernel

/-- A group past its deadline while the timebase runs. -/
def sDeadline (n : Nat) : State :=
  { State.reset with groups := [(0, grp4 n)], stc := 9, tb := { Timebase.init with run := true } }

/-- A collective command of ACTIVE context 0 that has timed out, and one with a fault. -/
def cc0 (f : Option Nat) : CCmd :=
  { num := 1, ctx := 0, i := .ccbar hB (.h 0) (.h 0) (.h 0), a := 0, b := 1, desc := [], peer := 0, ld := 0, gen := 0, started := 0, due := 0,
    fault := f }

def sCc (f : Option Nat) : State := { sAct State.reset with ccs := [(0, [cc0 f])], cycle := 1000 }

/-- Link 0 of die 0 in a state, its modules in service. -/
def sLink (st : Nat) : State :=
  { State.reset with dcsr := [(0x8600, BitVec.ofNat 64 (st * 2 ^ 60 + 15 * 2 ^ 52))], links := [(0, { LinkRun.init with limit := 0 })] }

theorem witness_GroupCollectiveAndLinkEventsTakeEffect :
    (tabFind (sDeadline 1).groups 0 = some (grp4 1) ∧ (grp4 1).deadline ≠ 0 ∧ (grp4 1).deadline ≤ (sDeadline 1).stc.toNat ∧
      (sDeadline 1).tb.run = true ∧ (grp4 1).active = true ∧ (grp4 4).active = false) ∧
    (((sCc none).ccList 0).find? (fun c => c.ctx == 0 && c.num == 1) = some (cc0 none) ∧ (cc0 none).timeout ≠ 0 ∧
      (cc0 none).started + (cc0 none).timeout ≤ (sCc none).cycle ∧ (sCc none).ctxWorks 0 = true) ∧
    ((sCc (some 1)).ccList 0).find? (sCc (some 1)).ccReady = some (cc0 (some 1)) ∧
    (linkThere 0 = true ∧ (sLink lnkUp).lnkState 0 = lnkUp ∧ 15 < linkPositions (0 % 4) ∧ (sLink lnkUp).posAlive 0 0 15 = true ∧
      flitBad 0 true = false ∧ tabGet 0 ((sLink lnkUp).linkRun 0).expect 15 = 0 ∧ flitBad 1 true = true) ∧
    ((sLink lnkTraining).lnkState 0 = lnkTraining ∧ (sLink lnkTraining).cycle ≤ ((sLink lnkTraining).linkRun 0).limit ∧
      ((sLink lnkTraining).linkRun 0).limit ≤ (sLink lnkTraining).cycle) ∧
    ((sLink lnkRetrain).lnkState 0 = lnkRetrain ∧ (sLink lnkRetrain).cycle ≤ ((sLink lnkRetrain).linkRun 0).limit) ∧
    (∀ v ∈ [0, 2 ^ 32 - 1], v < 2 ^ 32) ∧
    (∀ b ∈ [(0xA0 : Byte), 0xC0], 2 ≤ [b, 0].length ∧
      (wireNat ((unpackBytes [b, 0]).take 16) / 32 % 8 = 5 ∨ wireNat ((unpackBytes [b, 0]).take 16) / 32 % 8 = 6)) := by
  decide +kernel

/-- An island in a test, and a test of page 3. -/
def sTest : State :=
  { State.reset with
    misls := [(0, { MIsl.init with st := .testing })]
    tests := [{ die := 0, page := true, n := 3, due := 9 }, { die := 0, page := false, n := 0, due := 9 }] }

/-- Page 3 has had as many corrected errors as the threshold, all within the last second. -/
def sEcc : State := { State.reset with dcsr := [(0x8708, 2)], eccLog := [(3, 0), (3, 0)] }

/-- No image of the empty flash verifies; which bytes do verify rests on the fused keys (log 7). -/
theorem witness_BootAndTestEventsTakeEffect :
    (fwOk [] 0 = false ∧ ({ State.reset with boot := .loader } : State).boot = .loader) ∧
    ({ State.reset with testFails := [(true, 3)] } : State).recordStale = true ∧
    ((State.reset.page 0 3).st = .free ∧ (State.reset.page 0 3).retp = false ∧ State.reset.testing 0 true = false) ∧
    ((State.reset.misl 0).st = .free ∧ State.reset.testing 0 false = false) ∧
    (((sMx .owned State.reset).misl 15).st = .owned ∧ ((sMx .owned State.reset).misl 15).lane = none ∧ (sMx .owned State.reset).testing 0 false = false) ∧
    ((sTest.tests.any fun t => t.die == 0 && t.page == true && t.n == 3) = true ∧
      (sTest.tests.any fun t => t.die == 0 && t.page == false && t.n == 0) = true ∧ (sTest.misl 0).st = .testing ∧ (sTest.misl 0).before ≠ .owned) ∧
    (let s : State := { sTest with misls := [(0, { MIsl.init with st := .testing, before := .owned })] }
     (s.misl 0).st = .testing ∧ (s.misl 0).before = .owned ∧ (s.misl 0).lane = none) ∧
    ((State.reset.dcsrAt 0 0x8740).bits 16 16 = 0 ∧ (0x640000 : Word).bits 16 16 = 100 ∧ (0x640000 : Word).bit 0 = false) ∧
    (State.reset.eccCount 0 3 < (State.reset.dcsrAt 0 0x8708).bits 0 16 ∧ (sEcc.dcsrAt 0 0x8708).bits 0 16 ≠ 0 ∧
      (sEcc.dcsrAt 0 0x8708).bits 0 16 ≤ sEcc.eccCount 0 3) ∧
    (State.reset.dcsrAt 0 0x8760).bit 0 = false := by
  decide +kernel

/-- The island lane of a running table, not tested for 100 ms. -/
theorem witness_BootAndTestEventsTakeEffect_overdue :
    ({ sTab .ready .running { lane0 none none with island := true } (ent0 true false) none with cycle := 100000000 } : State).laneHeld 0 = true ∧
      ((sTab .ready .running (lane0 none none) (ent0 true false) none).testOf 0).late = false ∧
      ((sTab .ready .running (lane0 none none) (ent0 true false) none).testOf 0).last = 0 := by
  decide +kernel
/-! ### Witnesses: rules stated whole, encodings, steps, frames, registers, faults -/

theorem witness_MadAndPrefixCountWriteTheirResult : sT.inFull hT ∧ sB.inFull hB := ⟨full_timed, full_block⟩

theorem witness_SelTakesTheChosenOperand : sT.inFull hT ∧ sB.inFull hB := ⟨full_timed, full_block⟩

/-- An issuer of context 0 whose row-file entry 0 names counter 25, the counter at 5 with a mark. -/
def sMark : State := { sR ctr0 5 0 with counters := [(25, { Counter.init with v := 5, mark := some 6 })] }

def sUnmarked : State := sMark.setCounter (counterKey 0 25) { sMark.counter (counterKey 0 25) with mark := none }

theorem witness_TlclrClearsTheMark :
    counterIdx 0x40 = none ∧ counterIdx ctr0 = some 25 ∧ sUnmarked.inFull hT ∧ sUnmarked.cur.ctx = 0 ∧
      sUnmarked.src hT [.row 0, .row 1] (.row 0) = Val.clean ctr0 ∧ (sUnmarked.src hT [.row 0, .row 1] (.row 1)).p = false ∧
      (sUnmarked.src hT [.row 0, .row 1] (.row 1)).v.toNat ≤ (sUnmarked.counter (counterKey 0 25)).v :=
  ⟨by decide, by decide, ⟨rfl, rfl, rfl⟩, rfl, rfl, rfl, by decide⟩

/-- An instruction under a predicate that is 0. -/
def hOff (p : Place) : Hd := ⟨p, 1, false⟩

theorem witness_PredicatedOffInstructionsDoNothing :
    ((Instr.add ⟨.timed 5 0, 0, true⟩ (.row 3) (.row 0) (.row 1)).hd = some ⟨.timed 5 0, 0, true⟩) ∧
    (Instr.add (hOff hT.place) (.row 3) (.row 0) (.row 1)).hd = some (hOff hT.place) ∧ sT.cur.phase = .fire ∧
      (sT.fires (hOff hT.place)).1 = false ∧ (sB.fires (hOff hB.place)).1 = false ∧ sB.curTask.blk = some Blk.init :=
  ⟨rfl, rfl, rfl, by decide, by decide, rfl⟩

theorem witness_EncodedInstructionsDecodeToThemselves :
    (Instr.add hT (.row 3) (.row 0) (.row 1)).wf = true ∧ (Instr.exit hB (.h 0)).wf = true := by decide

theorem witness_DecodedInstructionsAreWellFormed :
    decodeWord .block 0xF80E100420000300 = .ok (.exit ⟨.block 31, 1, true⟩ (.h 2)) := rfl

/-- The agenda's head, and nothing more. -/
def sHead (a : Act) : State := { sT with agenda := [a] }

theorem witness_StepFiresTheDecodedWord :
    ((sHead (.fire Issuer.init 0x0010404000100002)).agenda = [.fire Issuer.init 0x0010404000100002] ∧ Issuer.init.task = 0 ∧
      decodeWord .timed 0x0010404000100002 = .ok (.adc ⟨.timed 1 0, 0, false⟩ (.row 4) (.row 0) (.row 1) 1)) ∧
    ((sB.task { Issuer.init with task := 1 }.task).blk.isSome = true ∧
      decodeWord .block 0xF80E100420000300 = .ok (.exit ⟨.block 31, 1, true⟩ (.h 2))) ∧
    (∃ x : Acc, (sHead (.redo x)).agenda = [.redo x]) ∧
    (∀ k, (req0 (.tile 1)).place ≠ .unit k) ∧
    (∃ t : State, exec (req0 (.tile 1)).i { ({ sT with agenda := [] } : State).checkReq (req0 (.tile 1)) with
      reqs := [], cur := { (req0 (.tile 1)).who with phase := .perform }, held := false } = .next t) ∧ State.reset.agenda = [] :=
  ⟨⟨rfl, rfl, rfl⟩, ⟨rfl, rfl⟩, ⟨{ at_ := 0, tile := 1, claim := .port, who := Issuer.init, i := .nop hT }, rfl⟩, nofun, ⟨_, rfl⟩, rfl⟩

theorem witness_StepStopsOnlyAtAnUndecodableWord :
    step (sHead (.fire Issuer.init 0xFFFFFFFFFFFFFFFF)) = .fault .notAnInstruction := rfl

theorem witness_ComputationsChangeOnlyTheirResult :
    (∀ h ∈ [hT, hB], (Instr.add h (.row 3) (.row 0) (.row 1)).hd = some h ∧ (Instr.add h (.row 3) (.row 0) (.row 1)).opcode = some 0x01) ∧
      sT.cur.phase = .fire ∧ (∃ t, exec (.add hT (.row 3) (.row 0) (.row 1)) sT = .next t) ∧ ∃ t, exec (.add hB (.h 3) (.h 0) (.h 1)) sB = .next t := by
  refine ⟨?_, rfl, ⟨_, rfl⟩, _, rfl⟩
  decide

theorem witness_StoresChangeOnlyTheirBytes :
    ((sP [v0, v0, v0]).mem.wf = true ∧ (sP [v0, v0, v0]).pdb.wf = true ∧ (sP [v0, v0, v0]).wst.wf = true ∧ (sP [v0, v0, v0]).dram.wf = true) ∧
    (sP [v0, v0, v0]).cur.phase = .perform ∧ (∃ tile, (sP [v0, v0, v0]).sTile .timed 0 = .ok tile) ∧
    (∃ t, exec (.st hT (.row 0) (.row 1) false 3) (sP [v0, v0, v0]) = .next t) ∧
    (∃ t, exec (.stp hT (.row 0) (.row 1) 3) (sP [v0, v0, v0]) = .next t) ∧ ∃ t, exec (.ld hT (.row 3) (.row 0) false 3 false) (sP [v0, v0, v0]) = .next t := by
  refine ⟨by decide, rfl, ⟨_, rfl⟩, ⟨_, rfl⟩, ⟨_, rfl⟩, _, rfl⟩

/-- A result due at the end of the present cycle for row-file entry 3 of tile 0. -/
def pend3 : Pend :=
  { due := 5, tile := 0, pe := 0, wr := .row 3 (Val.clean 7), fixed := true, ext := false, arrived := true, tag := 0, fired := 5 }

def sDue : State := { sT with regions := [(0, { regT with pend := [pend3] })] }

theorem witness_ResultsAreWrittenWhenDue :
    sT.cur.phase = .fire ∧ ((sDue.regionOn 0 0 0).pend.filter (sDue.regionOn 0 0 0).writesNow) = [pend3] ∧
      pend3.tile = 0 ∧ pend3.wr = .row 3 (Val.clean 7) ∧ 191 < 192 := by
  decide

theorem witness_LanesAreIndependent : ∀ w ∈ [8, 16, 32, 64], w = 8 ∨ w = 16 ∨ w = 32 ∨ w = 64 := by decide

theorem witness_ScratchOperandsNameTheirTile :
    ((0x8000000000000000 : Word).bits 43 21 ≠ 0 ∧ (0x8000000 : Word).bits 27 8 ≠ 0) ∧ ((0x1FC0000 : Word).bits 43 21 = 0 ∧ (0x1FC0000 : Word).bits 27 8 = 0) ∧
      sT.curRegion.px + sT.curRegion.shw ≤ 8 ∧ (sT.region sT.cur.ctx ((0 : Word).bits 35 8)).px + (sT.region sT.cur.ctx ((0 : Word).bits 35 8)).shw ≤ 8 := by
  decide

theorem witness_FaultsTakeTheirWay :
    ([({ rank := 3, code := 1, data1 := 0 } : RFault)] ≠ []) ∧ (sC []).cur.phase = .commit ∧ (sB.cur.phase = .fire ∧ sB.curTask.blk.isSome = true) ∧
    ((sR 4 0 0).inFull hT ∧ (sR 4 0 0).sAway .timed ((sR 4 0 0).src hT [.row 0] (.row 0)).v = false ∧
      (sR 4 0 0).sAway .timed ((sR 4 0 0).src hT [.row 0, .row 1] (.row 0)).v = false ∧ (∃ t, (sR 4 0 0).sTile .timed ((sR 4 0 0).src hT [.row 0] (.row 0)).v = .ok t) ∧
      elemAligned false 3 (sOff ((sR 4 0 0).src hT [.row 0] (.row 0)).v) = false ∧ lineAligned false (sOff ((sR 4 0 0).src hT [.row 0] (.row 0)).v) = false ∧
      (∃ t, (sR 4 0 0).sTile .timed ((sR 4 0 0).src hT [.row 0, .row 1] (.row 0)).v = .ok t)) ∧
    (0x8000 ≤ (0x8300 : BitVec 16).toNat ∧ ({ sT with dcsr := [(0x8B80, 1)], cur := { Issuer.init with ctx := 1 } } : State).sysCtx 1 0 = false) :=
  ⟨by decide, rfl, ⟨rfl, rfl⟩, ⟨⟨rfl, rfl, rfl⟩, rfl, rfl, ⟨_, rfl⟩, by decide, by decide, _, rfl⟩, by decide, by decide⟩

theorem witness_StepsKeepMemoriesCanonical : State.reset.Canonical ∧ ∃ t, step State.reset = .next t := ⟨⟨rfl, rfl, rfl, rfl⟩, _, rfl⟩

theorem witness_BlockSendsWaitForTheCommit :
    (Instr.scpy hB (.h 0) (.h 1) (.h 2)).hd = some hB ∧ hB.place.form = .block ∧ sB.cur.phase = .fire ∧
      commitDelivers (.scpy hB (.h 0) (.h 1) (.h 2)) = true ∧ (∀ d a b, Instr.scpy hB (.h 0) (.h 1) (.h 2) ≠ .jpost hB d a b) ∧
      ∃ t, exec (.scpy hB (.h 0) (.h 1) (.h 2)) sB = .next t :=
  ⟨rfl, rfl, rfl, rfl, nofun, _, rfl⟩

end Sys2Proof.Tests
end

section
/-! PROOFS. The instructions that are predicated off (R43): every word instruction is an `act` on its head, so that one law of `act`
says what a predicated-off instruction does; what it leaves of the issuing block; the reserved predicate fields. -/

namespace Sys2Proof.Machine

/-! ### Every word instruction is an `act`: one lemma per shared operation, then the instructions by the operation they use -/

/-- The outcome is the next state of some `act` on the head `h`. -/
def State.Acts (s : State) (h : Hd) (o : Out) : Prop :=
  ∃ srcs ext check waits body, o = .next (s.act h srcs ext check waits body)

section

variable (s : State) (h : Hd) (i : Instr)

theorem State.acts_act (srcs : List Src) (ext : Nat) (check : State → List Val → Option Nat) (waits : State → List Val → Bool)
    (body : State → List Val → Bool → State) : s.Acts h (.next (s.act h srcs ext check waits body)) :=
  ⟨srcs, ext, check, waits, body, rfl⟩

theorem State.acts_compute (srcs : List Src) (lat : Nat) (f : State → List Val → Bool → ResW) :
    s.Acts h (.next (s.compute h srcs lat f)) :=
  s.acts_act h ..

theorem State.acts_divide (d : Dst) (a b : Src) (op : Nat) (f : Word → Word → Word × Flags) :
    s.Acts h (.next (s.divide h d a b op f)) := by
  simp only [State.divide]
  exact s.acts_act h ..

theorem State.acts_scratch (srcs : List Src) (n : Nat) (res store : Bool) (target : List Val → Word)
    (check : State → List Val → Option Nat) (claim : State → Nat → List Val → Claim) (waits : State → Nat → List Val → Bool)
    (perform : State → Nat → Nat → List Val → Bool → State) (fired : State → Nat → List Val → Bool → State) (first : State → Bool) :
    s.Acts h (.next (s.scratch i h srcs n res store target check claim waits perform fired first)) := by
  simp only [State.scratch]
  exact s.acts_act h ..

theorem State.acts_atomic (d : Option Dst) (srcs : List Src) (sz scp st : Nat) (f : Word → List Val → Word × Flags) :
    s.Acts h (.next (s.atomic i h d srcs sz scp st f)) := by
  simp only [State.atomic]
  exact s.acts_scratch h ..

theorem State.acts_atomicFadd (d : Option Dst) (a b : Src) (scp : BitVec 2) (st : BitVec 3) (x : Bool) :
    s.Acts h (.next (s.atomicFadd i h d a b scp st x)) := by
  simp only [State.atomicFadd]
  exact s.acts_atomic h ..

theorem State.acts_pAccess (srcs : List Src) (n : Nat) (store direct vers : Bool) (align : Nat) (target : List Val → Word)
    (check : List Val → Option Nat) (waits : State → Nat → List Val → Bool) (perform : State → Nat → List Val → Bool → State) :
    s.Acts h (.next (s.pAccess i h srcs n store direct vers align target check waits perform)) := by
  simp only [State.pAccess]
  exact s.acts_act h ..

/-- A barrier instruction acts in both of its ways: as a send of a block and as a scratch access. -/
theorem State.acts_barrier (srcs : List Src) (n : Nat) (sends release : Bool) (limit : Word → Bool)
    (waits : State → Nat → List Val → Bool) (perform : State → Nat → List Val → Bool → State) :
    s.Acts h (.next (s.barrier i h srcs n sends release limit waits perform)) := by
  simp only [State.barrier]
  split
  · exact s.acts_act h ..
  · exact s.acts_scratch h ..

theorem State.acts_sendF (srcs : List Src) (ext : Nat) (release : Bool) (check : State → List Val → Option Nat)
    (waits : State → List Val → Bool) (perform : State → List Val → Bool → State) (lat : State → List Val → Nat) (after : Nat) :
    s.Acts h (.next (s.sendF i h srcs ext release check waits perform lat after)) := by
  simp only [State.sendF]
  exact s.acts_act h ..

theorem State.acts_send (srcs : List Src) (ext : Nat) (release : Bool) (check : State → List Val → Option Nat)
    (waits : State → List Val → Bool) (perform : State → List Val → Bool → State) (lat : Nat) :
    s.Acts h (.next (s.send i h srcs ext release check waits perform lat)) :=
  s.acts_sendF h ..

theorem State.acts_command (d : Dst) (srcs : List Src) (check : State → List Val → Option Nat) (full : State → List Val → Bool)
    (accept : State → List Val → Nat × State) : s.Acts h (.next (s.command i h d srcs check full accept)) :=
  s.acts_sendF h ..

theorem State.acts_launchFrom (d : Dst) (srcs : List Src) (st : BitVec 3) (seq : Bool) :
    s.Acts h (.next (s.launchFrom i h d srcs st seq)) := by
  simp only [State.launchFrom]
  exact s.acts_sendF h ..

theorem State.acts_sendAt (srcs : List Src) (check : State → List Val → Option Nat) (lat : State → List Val → Nat)
    (perform : State → Nat → List Val → Bool → State) : s.Acts h (.next (s.sendAt i h srcs check lat perform)) := by
  simp only [State.sendAt]
  exact s.acts_act h ..

theorem State.acts_waitTick (d : Dst) (srcs : List Src) (target : State → List Val → Nat) :
    s.Acts h (.next (s.waitTick i h d srcs target)) := by
  simp only [State.waitTick]
  exact s.acts_act h ..

theorem State.acts_gWait (d : Dst) (srcs : List Src) (idx : List Val → Option Nat) :
    s.Acts h (.next (s.gWait i h d srcs idx)) := by
  simp only [State.gWait]
  exact s.acts_act h ..

theorem State.acts_queryF (srcs : List Src) (ext : Nat) (check : State → List Val → Option Nat) (waits : State → List Val → Bool)
    (perform : State → List Val → Bool → State) (lat : State → List Val → Nat) :
    s.Acts h (.next (s.queryF h srcs ext check waits perform lat)) :=
  s.acts_act h ..

theorem State.acts_query (srcs : List Src) (ext : Nat) (check : State → List Val → Option Nat) (waits : State → List Val → Bool)
    (perform : State → List Val → Bool → State) (lat : Nat) : s.Acts h (.next (s.query h srcs ext check waits perform lat)) :=
  s.acts_queryF h ..

theorem State.acts_execQpush (a b : Src) (t : Tag) (scp : BitVec 2) : s.Acts h (execQpush h a b t scp s) := by
  simp only [execQpush]
  cases h.place.form
  case timed => exact s.acts_scratch h ..
  case block => exact s.acts_act h ..

theorem State.acts_execQpop (d : Dst) (a : Src) (scp : BitVec 2) : s.Acts h (execQpop h d a scp s) := by
  simp only [execQpop]
  cases h.place.form
  case timed => exact s.acts_scratch h ..
  case block => exact s.acts_act h ..

/-- The numbers below 0x1000 name the CSRs of the issuing PE; any other is a query (R414). -/
theorem State.acts_execCsrr (d : Dst) (num : BitVec 16) : s.Acts h (execCsrr h d num s) := by
  simp only [execCsrr]
  split
  · exact s.acts_act h ..
  · exact s.acts_queryF h ..

/-- As for `csrr`; a write of any other number is a send. -/
theorem State.acts_execCsrw (a : Src) (num : BitVec 16) : s.Acts h (execCsrw h a num s) := by
  simp only [execCsrw]
  split
  · exact s.acts_act h ..
  · exact s.acts_sendF h ..

/-- Each constructor with a head goes to one shared operation. The others are steps of the device or acts of the host, which have no
head (`cases hi` closes them). -/
theorem exec_acts (hi : i.hd = some h) : s.Acts h (exec i s) := by
  cases i
  all_goals cases hi
  case nop | add | addi | sub | adc | sbb | mul | mulh | mulhu | mad | min | max | minu | maxu | abs | and | andi | or | ori |
      xor | xori | andn | shl | shli | shr | shri | sar | sari | rol | clz | ctz | popc | brev | bfx | bfi | sext | zext | movh
      | movi | movk | addsat | subsat | cbrng | crc | cmp | cmpi | plog | pmovGet | pmovPut | sel | mov | kget | getid | pcnt |
      vadd | vsub | vmul | vfma | vfms | vfnma | vmin | vmax | vabs | vneg | vcmp | vsel | vdiv | vsqrt | vrcp | vrsq | vexp2 |
      vlog2 | vtanh | vscale | vclamp | vsum | vmaxh | vdot | vshuf | vpack | vunpk | vbcast | vins | vext | vcvt | vrnd | vand
      | vor | vxor | vshl | vshr | vsar | vmulh | vavg | vclass | vcpsgn | vmad | vsatn | vminh | vsumw | bexp | benc | bdec |
      scput | scget | scpair | hdrw | hdrrFmt | hdrrScale =>
    exact s.acts_compute h ..
  case div | divu | rem | remu =>
    exact s.acts_divide h ..
  case ld | st | ldl | stl | ldt | ldx | stx | agcfg | agstart | ageos | qtkt | qcnt =>
    exact s.acts_scratch h ..
  case aadd | amin | amax | aminu | amaxu | aand | aor | axor | aswp | acas | ainc | adec | redadd | redmax =>
    exact s.acts_atomic h ..
  case afadd | redfadd =>
    exact s.acts_atomicFadd h ..
  case ldp | stp | pldx | pstx | vld | vst | vrcl =>
    exact s.acts_pAccess h ..
  case barinit | barexp | bararr | barwt | bartst =>
    exact s.acts_barrier h ..
  case powq | cancel | grew | gcan | gcanAll =>
    exact s.acts_sendF h ..
  case tlsig | powrl | mxselAcq | mxcolRet | sbind | spat | gfork | brk | halt | trace | cfginv | cfginvAll | stestRun =>
    exact s.acts_send h ..
  case mxselRel | mxldb | mxswb | mxzero | mxmacChan | mxmacStore | mxmacFill | mxmacPfill | mxsc | mxdrn | mxacc | mxsave |
      mxrest | mxst | mxwst | mxfmt | scpy | scpyChk | sgat | ssct | sred | sfill | scvt | scan | ccred | ccbc | ccag | ccsend |
      ccrecv | ccbar =>
    exact s.acts_command h ..
  case launch | launchSeq =>
    exact s.acts_launchFrom h ..
  case futset | futsetClr | jpost =>
    exact s.acts_sendAt h ..
  case wtick | wtickRel =>
    exact s.acts_waitTick h ..
  case gbar | gadv =>
    exact s.acts_gWait h ..
  case mxcolRd | mxpeekAcc | mxpeekSt | mxpeekTa | mxpeekTb | sst | sstFlags | stestSt =>
    exact s.acts_query h ..
  case cmpl | cmplWait | gst =>
    exact s.acts_queryF h ..
  case dqld | dqst | dqpop | dqwt | tlwt | tlrd | fence | drain | powqWait | futwt | yield | br | exit | nulSt | nulH | jwait |
      bcall | bret | trap =>
    exact s.acts_act h ..
  case qpush => exact s.acts_execQpush h ..
  case qpop => exact s.acts_execQpop h ..
  case csrr => exact s.acts_execCsrr h ..
  case csrw => exact s.acts_execCsrw h ..

/-- An instruction that fires predicated off is noted, and that is all. -/
theorem exec_off (hi : i.hd = some h) (hp : s.cur.phase = .fire) (ho : (s.fires h).1 = false) :
    exec i s = .next (s.offPred h.place.form) := by
  obtain ⟨srcs, ext, check, waits, body, he⟩ := exec_acts s h i hi
  rw [he, s.act_off h srcs ext check waits body hp (.inr ho)]

/-! ### What a change of the issuing block leaves -/

theorem State.modBlk_frame (f : Blk → Blk) : s.modBlk f = { s with tasks := (s.modBlk f).tasks } := by
  simp only [State.modBlk]
  split
  · rfl
  · rfl

theorem State.modBlk_task_other (f : Blk → Blk) {k : Nat} (hk : k ≠ s.cur.task) : (s.modBlk f).task k = s.task k := by
  simp only [State.modBlk]
  split
  · rw [State.task_setTask, if_neg hk]
  · rfl

theorem State.modBlk_curTask (f : Blk → Blk) {b : Blk} (hb : s.curTask.blk = some b) :
    (s.modBlk f).curTask = { s.curTask with blk := some (f b) } := by
  simp only [State.modBlk, hb, State.curTask_setTask]

/-! ### The predicate fields of a head -/

theorem State.fires_fst : (s.fires h).1 = (decide (h.ps = 0) || ((s.readPred h.place.form h.ps.toNat).1 ^^ h.pn)) := by
  simp only [State.fires]
  split
  next h0 => exact ((congrArg (· || _) (decide_eq_true h0)).trans (Bool.true_or _)).symm
  next h0 => exact ((congrArg (· || _) (decide_eq_false h0)).trans (Bool.false_or _)).symm

theorem opcode_isSome_of_hd (hi : i.hd = some h) : i.opcode.isSome = true := by
  cases i
  all_goals cases hi
  all_goals rfl

theorem wf_false_of_ps_zero_pn (hi : i.hd = some h) (h0 : h.ps = 0) (hn : h.pn = true) : i.wf = false := by
  obtain ⟨op, hop⟩ := Option.isSome_iff_exists.mp (opcode_isSome_of_hd h i hi)
  simp [Instr.wf, hi, hop, Hd.ok, h0, hn]

end

/-- Settles O46: each instruction is an `act`, and an `act` that is predicated off only notes the instruction in its block. -/
theorem predicatedOffInstructionsDoNothing : Obligations.PredicatedOffInstructionsDoNothing := by
  unfold Obligations.PredicatedOffInstructionsDoNothing
  refine ⟨State.fires_fst, fun i h => wf_false_of_ps_zero_pn h i, fun s i h hi hp ho => ⟨fun hf => ?timed, fun hf => ?block⟩⟩
  case timed => rw [exec_off s h i hi hp ho, hf, State.offPred]
  case block =>
    rw [exec_off s h i hi hp ho, hf]
    refine ⟨s.offPred .block, rfl, s.modBlk_frame _, fun k hk => s.modBlk_task_other _ hk, fun b hb => ?_⟩
    exact ⟨_, s.modBlk_curTask _ hb, rfl, fun j => mem_setIns b.fired _ j, fun j => mem_setIns b.off _ j⟩

end Sys2Proof.Machine
end

section
/-! PROOFS. What a computation of two or three operands gives, and three instructions by it: `mad` (R88), `pcnt` (R100) and `sel` (R99). -/

namespace Sys2Proof.Machine

/-! ### Computations of two and three operands -/

section

variable (s : State) (h : Hd) (d : Dst) (a b c : Src) (lat : Nat)

theorem State.op2_inFull (hf : s.inFull h) (f : Word → Word → Word × Flags) : s.op2 h d a b lat f = s.from2 h d a b lat f := by
  rw [State.op2, s.compute_body h _ hf]
  simp [State.from2, State.gives, res2, anyPois, Bool.or_assoc]

theorem State.op3_inFull (hf : s.inFull h) (f : Word → Word → Word → Word × Flags) :
    s.op3 h d a b c lat f = s.from3 h d a b c lat f := by
  rw [State.op3, s.compute_body h _ hf]
  simp [State.from3, State.gives, res3, anyPois, Bool.or_assoc]

end

/-! ### `mad` -/

/-- Word arithmetic is modulo 2^64, so computing on the unsigned readings gives the same word. -/
theorem mul_add_eq_ofNat (x y z : Word) : x * y + z = BitVec.ofNat 64 ((x.toNat * y.toNat + z.toNat) % 2 ^ 64) := by
  apply BitVec.eq_of_toNat_eq
  simp

/-- So does computing on the signed readings (R88). -/
theorem mul_add_eq_ofInt (x y z : Word) : x * y + z = BitVec.ofInt 64 (x.toInt * y.toInt + z.toInt) := by
  rw [BitVec.ofInt_add, BitVec.ofInt_mul]
  simp only [BitVec.ofInt_toInt]

theorem exec_mad (s : State) (h : Hd) (d : Dst) (a b c : Src) (hf : s.inFull h) :
    exec (.mad h d a b c) s = .next (s.from3 h d a b c 3 fun x y z => (x * y + z, 0)) :=
  congrArg Host.Outcome.next (s.op3_inFull h d a b c 3 hf _)

/-! ### `pcnt` -/

theorem popBelow_eq_countP (n : Nat) (x : Word) : popBelow n x = (List.range n).countP fun i => x.getLsbD i := by
  induction n with
  | zero => rfl
  | succ n ih => rw [popBelow, ih, List.range_succ, List.countP_append, List.countP_singleton]

theorem ite_lt_eq_min (k n : Nat) : (if k < n then k else n) = min n k := by
  split
  next hlt => exact (Nat.min_eq_right (Nat.le_of_lt hlt)).symm
  next hge => exact (Nat.min_eq_left (Nat.le_of_not_lt hge)).symm

theorem exec_pcnt (s : State) (h : Hd) (d : Dst) (a b : Src) (hf : s.inFull h) :
    exec (.pcnt h d a b) s = .next (s.from2 h d a b 1 fun x y =>
      (BitVec.ofNat 64 ((List.range (min y.toNat 64)).countP fun i => x.getLsbD i), 0)) := by
  simp only [← popBelow_eq_countP, ← ite_lt_eq_min]
  exact congrArg Host.Outcome.next (s.op2_inFull h d a b 1 hf _)

/-- Settles O43: `mad` gives the product plus the addend modulo 2^64, whichever way the operands are read, and `pcnt` counts
one bits from bit 0 up to the bound. -/
theorem madAndPrefixCountWriteTheirResult : Obligations.MadAndPrefixCountWriteTheirResult := by
  unfold Obligations.MadAndPrefixCountWriteTheirResult
  intro s h d a b c hf
  refine ⟨?unsigned, ?signed, exec_pcnt s h d a b hf, rfl⟩
  case unsigned => simp only [exec_mad s h d a b c hf, mul_add_eq_ofNat]
  case signed => simp only [exec_mad s h d a b c hf, mul_add_eq_ofInt]

/-! ### `sel` -/

/-- Settles O44: `sel` is a computation that reads one more predicate, and noting the instruction as fired leaves that predicate. -/
theorem selTakesTheChosenOperand : Obligations.SelTakesTheChosenOperand := by
  unfold Obligations.SelTakesTheChosenOperand
  intro s h d a b neg n hf
  refine congrArg Host.Outcome.next ((s.compute_body h [a, b] hf 1 _).trans ?_)
  simp only [State.markFired_readPred, State.vals_two, opn_zero, opn_one, State.gives]

end Sys2Proof.Machine
end

section
/-! PROOFS. The marks of timeline counters (R163, R365): what a write of `TLCLR` does to a counter, and when a `tlwt` acquires. -/

namespace Sys2Proof.Machine

variable (s : State)

/-! ### Reading and writing counters -/

theorem State.counter_setCounter_same (k : Nat) (c : Counter) : (s.setCounter k c).counter k = c :=
  tabGet_tabPut_same ..

theorem State.counter_setCounter_other {k j : Nat} (c : Counter) (hj : j ≠ k) : (s.setCounter k c).counter j = s.counter j :=
  tabGet_tabPut_other _ _ _ hj

theorem State.markFired_frame (m : Form) : s.markFired m = { s with tasks := (s.markFired m).tasks } := by
  cases m
  case timed => rfl
  case block => exact s.modBlk_frame _

@[simp] theorem State.markFired_counter (m : Form) (k : Nat) : (s.markFired m).counter k = s.counter k := by
  rw [s.markFired_frame m]
  rfl

@[simp] theorem State.markFired_counterLat (m : Form) (a : Word) : (s.markFired m).counterLat a = s.counterLat a := by
  rw [s.markFired_frame m]
  rfl

/-! ### The write of `TLCLR` -/

/-- The layout of R163 already asks that the reserved bits of `TLCLR` be 0. -/
theorem reserved_zero_of_counterIdx {w : Word} {k : Nat} (hk : counterIdx w = some k) : w.bits 16 48 = 0 := by
  refine Decidable.byContradiction fun hr => ?_
  rw [counterIdx, if_pos (Or.inl hr)] at hk
  cases hk

theorem exec_tlclrWrite_ignored (ctx : Nat) {w : Word} (hw : counterIdx w = none) : exec (.tlclrWrite ctx w) s = .next s := by
  refine congrArg Host.Outcome.next ?_
  rw [hw, ite_self]

theorem exec_tlclrWrite_clears (ctx : Nat) {w : Word} {k : Nat} (hk : counterIdx w = some k) :
    exec (.tlclrWrite ctx w) s
      = .next (s.setCounter (counterKey ctx k) { s.counter (counterKey ctx k) with mark := none }) := by
  refine congrArg Host.Outcome.next ?_
  rw [if_pos (reserved_zero_of_counterIdx hk), hk]

/-! ### `tlwt` -/

theorem markAt_of_unmarked {c : Counter} (hm : c.mark = none) (n : Nat) : markAt c n = false := by
  rw [markAt, hm]

/-- With clean operands, a `tlwt` of a value that the counter has reached and that no mark covers goes on. -/
theorem exec_tlwt_acquires (h : Hd) (a b : Src) (scp : BitVec 3) {ctx k : Nat} {w : Word} (hf : s.inFull h) (hctx : s.cur.ctx = ctx)
    (hk : counterIdx w = some k) (ha : s.src h [a, b] a = Val.clean w) (hb : (s.src h [a, b] b).p = false)
    (hv : (s.src h [a, b] b).v.toNat ≤ (s.counter (counterKey ctx k)).v)
    (hm : markAt (s.counter (counterKey ctx k)) (s.src h [a, b] b).v.toNat = false) :
    exec (.tlwt h a b scp) s = .next ((s.markFired h.place.form).complete h.place.form (s.counterLat w) false {}) := by
  subst hctx
  have hcheck : counterCheck (opn (s.vals h [a, b]) 0) ((s.vals h [a, b]).drop 1) false = none := by
    simp [counterCheck, ha, Val.clean, hk, hb]
  refine congrArg Host.Outcome.next ((s.act_body h [a, b] 0 _ _ _ hf hcheck (.inl rfl) ?reached).trans ?unmarked)
  case reached => simp [ha, Val.clean, hk, hv]
  case unmarked => simp [ha, Val.clean, hk, hm]

/-- Settles O45: the write puts back its counter without a mark, so a `tlwt` of a value that the counter has reached meets no mark
in the state after it. -/
theorem tlclrClearsTheMark : Obligations.TlclrClearsTheMark := by
  unfold Obligations.TlclrClearsTheMark
  intro s die ctx w host
  refine ⟨rfl, fun hw => exec_tlclrWrite_ignored s ctx hw, fun k hk => ?clear⟩
  case clear =>
    have hsame := s.counter_setCounter_same (counterKey ctx k) { s.counter (counterKey ctx k) with mark := none }
    have hvalue := congrArg Counter.v hsame
    have hmark := congrArg Counter.mark hsame
    refine ⟨_, exec_tlclrWrite_clears s ctx hk, rfl, fun j hj => s.counter_setCounter_other _ hj, hvalue, hmark,
      fun h a b scp hf hctx ha hb hv => ?acquires⟩
    exact exec_tlwt_acquires _ h a b scp hf hctx hk ha hb hv (markAt_of_unmarked hmark _)

end Sys2Proof.Machine
end
